-- ==== Sys2Proof/Syntax.lean ====
section
/-! DEFINITION. The commands of the block: one constructor per row of the operation table, and their operand types. -/

namespace Sys2Proof

/-- Who issues a control-space access (R49, R325, R338, R409). A fabric issuer carries its packet's pitch and source. -/
inductive Src where
  | pf | endpointB | hub | cs
  | vf (v : Nat)
  | fabric (pitch rack slot : Nat)
  deriving DecidableEq, Repr

/-- An element that has resets, ports and an MSP slave: a package or a Weir (R322). -/
inductive Elem where
  | pkg (p : Nat)
  | weir (w : Nat)
  deriving DecidableEq, Repr

/-- The two reset pins (R289, R291). -/
inductive Pin where
  | resetN | porstN
  deriving DecidableEq, Repr

/-- A hopper: hopper `h` of tile `t`, or host hopper `h` of virtual function `v` (R84, R328). -/
inductive HopRef where
  | tile (t h : Nat)
  | host (v h : Nat)
  deriving DecidableEq, Repr

/-- How a pitch command reaches the hub (R264). -/
inductive Via where
  | mailbox | msp
  deriving DecidableEq, Repr

/-- How HOP_TAIL is written: a page write, or a doorbell store by a core (R86, R89). -/
inductive TailVia where
  | page (src : Src)
  | core (c : Nat)
  deriving DecidableEq, Repr

/-- Who reads or writes a tile's SRAM or a stack (R84, R85, R132). -/
inductive Requester where
  | tileEngine (die : Nat)
  | core (c : Nat)
  | linkDie (die : Nat)
  deriving DecidableEq, Repr

/-- A memory request: the length of a read, the data of a write, or the length of a core's instruction fetch (R86). -/
inductive MemOp where
  | read (len : Nat)
  | write (data : Bytes)
  | fetch (len : Nat)
  deriving DecidableEq, Repr

/-- A kind of error a read finds in a word or sector: correctable, uncorrectable, beyond the code (R85, R119). -/
inductive EccErr where
  | correctable | uncorrectable | beyond
  deriving DecidableEq, Repr

/-- The transport operations of R173. -/
inductive POp where
  | rwrite | rread | response | coll | peg
  deriving DecidableEq, Repr

/-- A fabric packet, its headers taken apart (R171–R175). Fields a header does not carry are zero or empty.
`mgmt`, `gen` and `sync` are those of R210; `coll` holds bytes 7–23 of a COLL transport header (R247). -/
structure Pkt where
  cls : Nat := 0
  dl : Nat := 0
  epoch : Nat := 0
  pitch : Nat := 0
  destRack : Nat := 0
  destSlot : Nat := 0
  srcRack : Nat := 0
  srcSlot : Nat := 0
  ordered : Bool := false
  plane : Nat := 0
  spanDim : Option Nat := none
  hops : Nat := 0
  originTime : Nat := 0
  op : POp := .rwrite
  bump : Bool := false
  last : Bool := false
  spray : Bool := false
  cm : Bool := false
  sync : Bool := false
  mgmt : Bool := false
  conn : Nat := 0
  psn : Nat := 0
  status : Nat := 0
  offset : Nat := 0
  space : Nat := 0
  bumpPeg : Nat := 0
  gen : Nat := 0
  arg : Nat := 0
  coll : Bytes := []
  ext : Bytes := []
  payload : Bytes := []
  deriving DecidableEq, Repr

/-- A codeword as its receiver's decoder hands it on (R183–R185): the frame's 640 bytes, the 20 framing bits, and how many of the 544
symbols were in error (log 158). -/
structure Frame where
  bytes : Bytes := []
  framing : Nat := 0
  errors : Nat := 0
  deriving DecidableEq, Repr

/-- A die-link flit as its receiver sees it: its slices, each of 64 bytes, one per active module (R61). -/
structure Flit where
  slices : List Bytes
  deriving DecidableEq, Repr

/-- An identity block, its 20 bytes (R190). -/
abbrev IdBlock := Bytes

/-- The result of one die link's training: the mask of modules trained and lanes repaired in each (R63, R306). -/
structure LinkResult where
  link : Nat
  modules : Nat
  repaired : List Nat
  deriving DecidableEq, Repr

/-- One tile die's test result in bring-up step 2: its passing engines, the lines (bank, row) that fail, and those the
factory repair map replaces (R310, R311). -/
structure TileResult where
  die : Nat
  engines : Nat
  failingLines : List (Nat × Nat)
  factory : List (Nat × Nat)
  deriving DecidableEq, Repr

/-- One coolant reading of a tray, temperatures in 0.125 °C, flow in 0.01 L/min, pressures in 0.01 bar; `none` is a
sensor that does not answer (R363). -/
structure Coolant where
  inlet : Option Nat
  outlet : Option Nat
  flow : Option Nat
  supply : Option Nat
  ret : Option Nat
  leak : Option Bool
  power : List Nat
  deriving DecidableEq, Repr

/-- A host entry read: its 128 bytes, or a read error or poisoned completion (R329, R332). -/
inductive EntryRead where
  | data (b : Bytes)
  | error
  deriving DecidableEq, Repr

/-- The causes of a host loss, numbered as HOST_LOSS reports them: link down, hot reset, PF reset, bus master (R345). -/
inductive HostLossCause where
  | linkDown | hotReset | pfReset | busMaster
  deriving DecidableEq, Repr

/-- A tray of the rack (R17). -/
inductive Tray where
  | compute (c : Nat)
  | switch (s : Nat)
  deriving DecidableEq, Repr

/-- A command of the block: one constructor per row of spec/opcode_table.json, in its order. -/
inductive Instr where
  /-- CONTROL_WRITE (R50): A control-space write to a register that has no row of its own is applied in arrival order at its page. -/
  | controlWrite (p : Nat) (src : Src) (off size val : Nat)
  /-- CONTROL_SPACE_PACKET (R20): A fabric packet addressed to control space arrives and is served only when it carries pitch 0. -/
  | controlSpacePacket (p port : Nat) (pkt : Pkt)
  /-- PAGE_CTRL_WRITE (R40): A write to PAGE_CTRL changes ENABLE or FREEZE, or sets LOCK, on a page that is not a port page. -/
  | pageCtrlWrite (p : Nat) (src : Src) (page val : Nat)
  /-- EVT_STAT_CLEAR (R46): Writing 1 to EVT_STAT bits clears them and, for the captured bit, releases ERR_CAPT. -/
  | evtStatClear (p : Nat) (src : Src) (page val : Nat)
  /-- EVT_FORCE (R43): Writing EVT_FORCE sets the matching EVT_STAT bit as a forced event, without capture. -/
  | evtForce (p : Nat) (src : Src) (page val : Nat)
  /-- STRIKE_CTRL_GO (R56): A write of GO to STRIKE_CTRL requests a strike of REACH, or is refused with reason 4. -/
  | strikeCtrlGo (p : Nat) (src : Src) (page val : Nat)
  /-- STRIKE_DRAIN_DONE (R273): The last outstanding request of the struck pitch is acknowledged or answered, so the drain step ends. -/
  | strikeDrainDone (p sid : Nat)
  /-- STRIKE_DRAIN_ABANDON (R272): The drain bound passes, and the link dies free the read tags, drop the charge and set DRAIN_ABANDONED. -/
  | strikeDrainAbandon (p sid : Nat)
  /-- STRIKE_ABSORB_DONE (R273): Every pre-fence packet of the pitch has been applied or discarded, so the absorb step ends. -/
  | strikeAbsorbDone (p sid : Nat)
  /-- SPAN_STRIKE_MESSAGE (R276): A span strike message arrives at a peer hub, which strikes the pitch within its package or answers at once. -/
  | spanStrikeMessage (p rack slot pitch : Nat)
  /-- SPAN_STRIKE_ANSWER (R276): A peer's answer to a span strike message arrives at the requester. -/
  | spanStrikeAnswer (p rack slot pitch : Nat)
  /-- SPAN_STRIKE_RESEND (R276): Every 250 µs the requester repeats each unanswered span strike message. -/
  | spanStrikeResend (p pitch : Nat)
  /-- SPAN_STRIKE_TIMEOUT (R277): 2 ms after the request, the requester completes the span strike with LAST_RESULT 2 and DRAIN_ABANDONED. -/
  | spanStrikeTimeout (p pitch : Nat)
  /-- LATE_PEER_RESEND (R277): Every 1 ms for 1 s the requester resends to silent peers and records late peers with KIND 3. -/
  | latePeerResend (p pitch : Nat)
  /-- SETUP_UNCOMMIT_RESEND (R278): Every 1 ms the hub resends an uncommitting SETUP to a Weir that refused it. -/
  | setupUncommitResend (p g : Nat)
  /-- PITCH_CREATE (R265): The hub creates a pitch on tiles and a VF, writes PITCH_OWNER and sets LOCK. -/
  | pitchCreate (p : Nat) (via : Via) (cmd : Bytes)
  /-- ADD_TILES (R265): The hub assigns further free tiles to a hosted pitch. -/
  | addTiles (p : Nat) (via : Via) (cmd : Bytes)
  /-- ADD_DRAM (R265): The hub assigns an exposed-alias DRAM range to a pitch. -/
  | addDram (p : Nat) (via : Via) (cmd : Bytes)
  /-- ADD_FENCE (R265): The hub sets a fence entry, or ORs slots into an existing entry, for a pitch and rack. -/
  | addFence (p : Nat) (via : Via) (cmd : Bytes)
  /-- STRIKE (R265): A STRIKE pitch command runs a strike of reach 3, 4 or 5 and replies at completion. -/
  | strike (p : Nat) (via : Via) (cmd : Bytes)
  /-- QUERY (R265): A QUERY pitch command returns the pitch's tiles, VF, fence entries, ranges and unscrubbed granules. -/
  | query (p : Nat) (via : Via) (cmd : Bytes)
  /-- PITCH_BAD_COMMAND (R265): A pitch command with an unknown CMD or a nonzero zero field is answered BAD_COMMAND. -/
  | pitchBadCommand (p : Nat) (via : Via) (cmd : Bytes)
  /-- INPUT_UNDERVOLTAGE (R347): The input stays below 42.0 V for 50 µs, so power-on reset is asserted with cause 1. -/
  | inputUndervoltage (e : Elem)
  /-- UNDERVOLTAGE_CLEAR (R347): The input stays above 43.5 V for 1 ms, so the undervoltage condition clears. -/
  | undervoltageClear (e : Elem)
  /-- INPUT_OVERVOLTAGE (R347): The input exceeds 60.0 V, the first stage stops, and power-on reset is asserted with cause 3. -/
  | inputOvervoltage (e : Elem)
  /-- OVERVOLTAGE_CLEAR (R347): The input stays below 58.0 V for 1 ms, so the overvoltage condition clears. -/
  | overvoltageClear (e : Elem)
  /-- INRUSH_LIMIT_END (R347): 20 ms after the input rises above 42.0 V, the 10 A inrush limit ends. -/
  | inrushLimitEnd (e : Elem)
  /-- RAIL_OUT_OF_REGULATION (R290): An internal rail leaves regulation and asserts the power-on source. -/
  | railOutOfRegulation (e : Elem)
  /-- RAIL_REGULATED (R290): An internal rail returns to regulation, which clears its power-on condition. -/
  | railRegulated (e : Elem)
  /-- EMBER_COLD_START (R296): The ember domain starts from no supply, its fields reset, and a power-on reset with cause 6 follows. -/
  | emberColdStart (e : Elem)
  /-- POWER_ON_RELEASE (R290): 10 ms after the last power-on condition clears, the power-on source is released and a reach-3 start begins. -/
  | powerOnRelease (e : Elem)
  /-- RESET_PULSE_ACCEPTED (R291): RESET_N or PORST_N stays low for 32 ember cycles, and the package enters reset at the pulse's reach. -/
  | resetPulseAccepted (e : Elem) (pin : Pin)
  /-- RESET_GLITCH (R291): A reset pin returns high before 32 ember cycles and only its GLITCH_CNT field counts. -/
  | resetGlitch (e : Elem) (pin : Pin)
  /-- RESET_PIN_RELEASE (R291): The reset pin stays high for 32 ember cycles, and reset from the pin ends. -/
  | resetPinRelease (e : Elem) (pin : Pin)
  /-- HUB_RESET_ACK (R293): The hub acknowledges a reach-1 reset in hardware, and the reset runs under hub supervision. -/
  | hubResetAck (p : Nat)
  /-- RESET_ESCALATE (R293): The hub fails to acknowledge a reach-1 reset within 100 µs, so the reset is applied as reach 2 and ESCALATED is set. -/
  | resetEscalate (p : Nat)
  /-- STRAP_MEASUREMENT (R298): A strap measurement of 8 samples completes, and is repeated 1 ms later when it is ambiguous, up to five times. -/
  | strapMeasurement (p : Nat) (samples : List Nat)
  /-- REFCLK_PRESENT (R301): REFCLK arrives, and kindling leaves its wait in phase 3. -/
  | refclkPresent (e : Elem)
  /-- HUB_SELF_TEST_DONE (R68): The candidate hub's self-test ends, and the hub is chosen, the other candidate is tried, or kindling holds. -/
  | hubSelfTestDone (e : Elem) (hub : Nat) (pass : Bool)
  /-- IMAGE_REQUEST_TIMEOUT (R303): The image of the strap's slot is not delivered within 400 ms over three requests, so the other slot is fetched. -/
  | imageRequestTimeout (e : Elem)
  /-- IMAGE_SLOT_RETRY (R303): Every 10 s, a package whose two images both failed retries both slots. -/
  | imageSlotRetry (e : Elem)
  /-- BLOB_REQUEST_RETRY (R304): Every 1 s the hub repeats a blob request, or takes bench defaults after three failed requests. -/
  | blobRequestRetry (e : Elem)
  /-- BRINGUP_RELEASE (R305): A write of BRINGUP_CTL.RELEASE ends the hold and starts bring-up. -/
  | bringupRelease (p : Nat) (src : Src)
  /-- MSP_RELEASE (R305): A write of MSP_CMD.RELEASE from the tray controller ends the hold. -/
  | mspRelease (p : Nat)
  /-- BULK_RESET (R407): A write of MSP_CMD.BULK_RESET sets BULK_IN and BULK_OUT to 0. -/
  | bulkReset (e : Elem)
  /-- DIE_LINKS_TRAINED (R306): Bring-up step 1 ends when all 48 die links have trained, with lane repair. -/
  | dieLinksTrained (p : Nat) (results : List LinkResult)
  /-- TILE_TEST_DONE (R310): Bring-up step 2 ends: engines and SRAM are tested and repaired, and units are numbered. -/
  | tileTestDone (p : Nat) (results : List TileResult)
  /-- DRAM_TRAINING_DONE (R306): Bring-up step 3 ends when the eight stacks have trained, and failed stacks become hollow. -/
  | dramTrainingDone (p trained full : Nat)
  /-- PORT_TRAINING_DONE (R306): Bring-up step 4 ends when every enabled port is ACTIVE, UP_UNATTESTED, PARKED or in WIRING_FAULT. -/
  | portTrainingDone (e : Elem)
  /-- IMAGE_REQ (R411): The tray controller takes an IMAGE_REQ message and streams the image of the named slot. -/
  | imageReq (tc pos : Nat)
  /-- BLOB_REQ (R411): The tray controller takes a BLOB_REQ message and streams the position's blob. -/
  | blobReq (tc pos : Nat)
  /-- SETTINGS_READY (R380): The tray controller takes the saved settings from the bulk-out buffer, stores them and forwards them to the rack controller. -/
  | settingsReady (tc pos : Nat)
  /-- READY_REPORT (R378): The tray controller takes a package's ready report, which ends a recovery attempt or counts as a failed one. -/
  | readyReport (tc pos : Nat)
  /-- WEIR_READY_REPORT (R322): The tray controller takes a Weir ready report and treats it as a ready report. -/
  | weirReadyReport (tc pos : Nat)
  /-- LOAD_NOTICE_MESSAGE (R364): The tray controller takes a forwarded load notice into the tray's flow target. -/
  | loadNoticeMessage (tc pos : Nat)
  /-- EVENT_RECORD_COPY (R411): The tray controller takes a copy of one hub event ring record. -/
  | eventRecordCopy (tc pos : Nat)
  /-- PITCH_REPLY (R411): The tray controller takes a pitch reply from the hub. -/
  | pitchReply (tc pos : Nat)
  /-- BULK_DONE (R411): The hub takes BULK_DONE, checks BULK_IN against the byte count, and verifies and uses the image or blob. -/
  | bulkDone (e : Elem) (kind bytes : Nat)
  /-- BULK_UNAVAILABLE (R411): The hub takes BULK_UNAVAILABLE for an image or blob and treats the request as failed. -/
  | bulkUnavailable (e : Elem) (kind : Nat)
  /-- MSP_UNKNOWN_MESSAGE (R411): A message whose TYPE is not listed is discarded whole by its receiver, which counts or logs it. -/
  | mspUnknownMessage (e : Elem) (toTc : Bool) (type : Nat)
  /-- MSP_REGISTER_READ (R405): An MSP register read command returns consecutive register words captured at launch. -/
  | mspRegisterRead (e : Elem) (idx n : Nat)
  /-- MSP_REGISTER_WRITE (R406): An MSP register write command writes consecutive registers, each word taking effect at its 32nd bit. -/
  | mspRegisterWrite (e : Elem) (idx : Nat) (words : List Word)
  /-- MSP_RAW_WRITE (R410): An MSP raw write appends words to the inbox, or to the bulk-in buffer in mode D. -/
  | mspRawWrite (e : Elem) (cmd : Nat) (words : List Word)
  /-- MSP_RAW_READ (R410): An MSP raw read takes words from the outbox, or bytes from the bulk-out buffer in mode D. -/
  | mspRawRead (e : Elem) (cmd n : Nat)
  /-- MSP_SELECT_END (R412): MSP_SEL_N rises, the transaction ends, and a partial word is dropped and counted. -/
  | mspSelectEnd (e : Elem) (bits : Nat)
  /-- MSP_EDGE_TIMEOUT (R412): MSP_SEL_N stays asserted with no edge for 10 ms, and the transaction is abandoned. -/
  | mspEdgeTimeout (e : Elem)
  /-- MSP_ERR_CLR (R407): A write to MSP_ERR_CLR sets every field of MSP_ERR to 0. -/
  | mspErrClr (e : Elem)
  /-- CS_GO (R409): A write of CS_CTL.GO starts one control-space access in pitch 0 through the CS window. -/
  | csGo (e : Elem) (ctl : Nat)
  /-- CS_TIMEOUT (R409): The hub does not answer a CS window access within 1 ms, and RESULT becomes 3. -/
  | csTimeout (e : Elem)
  /-- MSP_STATUS_POLL (R410): At least every 1 ms, the tray controller reads MSP_STATUS and empties the outbox when OUT_PENDING is 1. -/
  | mspStatusPoll (tc pos : Nat)
  /-- FLIT_RECEIVE (R62): A die-link flit arrives and is taken in SEQ order, or discarded after a failed slice CRC with a replay request. -/
  | flitReceive (p die port : Nat) (flit : Flit)
  /-- FLIT_REPLAY_REQUEST (R62): A flit of TYPE 2 arrives, and the sender resends from the flit after ACK. -/
  | flitReplayRequest (p die port ack : Nat)
  /-- MODULE_RETRAIN_DONE (R63): A module's retraining ends, and the module is restored or fenced. -/
  | moduleRetrainDone (p die port module : Nat) (ok : Bool)
  /-- BUDGET_TICK (R352): Every 100 µs the hub turns CAP_EFF into die budgets and sends a budget message to each die. -/
  | budgetTick (p : Nat)
  /-- BUDGET_MESSAGE (R80): A die takes a budget message, ignores an older SEQ, clips BUDGET and applies it within 2 µs. -/
  | budgetMessage (p die : Nat) (msg : Bytes)
  /-- DIE_REPORT (R79): The hub takes a die report for the interval just ended. -/
  | dieReport (p : Nat) (report : Bytes)
  /-- BUDGET_FALLBACK (R80): VALIDITY intervals pass with no newer budget message, and the die enforces FALLBACK. -/
  | budgetFallback (p die : Nat)
  /-- DIE_POWER_SAMPLE (R77): Every 1 µs a die measures its power and enforces its budget and temperature limit. -/
  | diePowerSample (p die power temp : Nat)
  /-- DIE_SILENT (R81): A die's reports are missing for three intervals, and the hub raises die-silent and hollows the unit or acts as for a down link. -/
  | dieSilent (p die : Nat)
  /-- CLK_MODE_WRITE (R76): A write of PWR_CTL.CLK_MODE requests a mode change, which is accepted only with every die page quiesced. -/
  | clkModeWrite (p : Nat) (src : Src) (val : Nat)
  /-- MODE_CHANGE_DONE (R76): Every island has moved to the new clock mode. -/
  | modeChangeDone (p : Nat)
  /-- HOP_TAIL_WRITE (R89): A doorbell or page write of HOP_TAIL is accepted within the ring bounds or ignored. -/
  | hopTailWrite (p : Nat) (via : TailVia) (t h val : Nat)
  /-- HOP_RUN (R90): A write of HOP_CFG.RUN starts or stops fetching by a hopper. -/
  | hopRun (p : Nat) (src : Src) (t h val : Nat)
  /-- HOP_RESUME (R93): A write of HOP_CFG.RESUME clears a hopper's halt, and issue continues. -/
  | hopResume (p : Nat) (src : Src) (t h val : Nat)
  /-- DESCRIPTOR_FETCH (R94): A hopper's slot read completes and yields a descriptor, or a fetch fault. -/
  | descriptorFetch (p : Nat) (ref : HopRef)
  /-- DESCRIPTOR_ISSUE (R90): A head descriptor's ORDER and WAIT conditions hold, and it issues to its engine. -/
  | descriptorIssue (p : Nat) (ref : HopRef)
  /-- NOP (R96): A NOP completes at issue. -/
  | nop (p : Nat) (ref : HopRef) (idx : Nat)
  /-- COPY (R99): The tile DMA engine copies LENGTH bytes within package memory space. -/
  | copy (p : Nat) (ref : HopRef) (idx : Nat)
  /-- FILL (R99): The tile DMA engine fills LENGTH bytes with PATTERN. -/
  | fill (p : Nat) (ref : HopRef) (idx : Nat)
  /-- MATMUL (R102): The matrix engines compute D = A × Bᵀ (+ C) in fixed chunk order. -/
  | matmul (p : Nat) (ref : HopRef) (idx : Nat)
  /-- VECTOR_ADD (R104): The vector units compute x + y element by element. -/
  | vectorAdd (p : Nat) (ref : HopRef) (idx : Nat)
  /-- VECTOR_MUL (R104): The vector units compute x × y element by element. -/
  | vectorMul (p : Nat) (ref : HopRef) (idx : Nat)
  /-- AXPY (R104): The vector units compute S × x + y, rounded once. -/
  | axpy (p : Nat) (ref : HopRef) (idx : Nat)
  /-- VECTOR_MAX (R104): The vector units take the larger of x and y. -/
  | vectorMax (p : Nat) (ref : HopRef) (idx : Nat)
  /-- VECTOR_MIN (R104): The vector units take the smaller of x and y. -/
  | vectorMin (p : Nat) (ref : HopRef) (idx : Nat)
  /-- EXP (R104): The vector units compute e^x. -/
  | expCmd (p : Nat) (ref : HopRef) (idx : Nat)
  /-- RECIP (R104): The vector units compute 1 / x. -/
  | recip (p : Nat) (ref : HopRef) (idx : Nat)
  /-- RSQRT (R104): The vector units compute 1 / √x. -/
  | rsqrt (p : Nat) (ref : HopRef) (idx : Nat)
  /-- CONVERT (R104): The vector units convert x straight to FMT_Z, rounding once. -/
  | convert (p : Nat) (ref : HopRef) (idx : Nat)
  /-- SCALE (R104): The vector units compute S × x. -/
  | scale (p : Nat) (ref : HopRef) (idx : Nat)
  /-- ATTEND (R128): The attention streaming engine computes attention over the blocks in the block table. -/
  | attend (p : Nat) (ref : HopRef) (idx : Nat)
  /-- RWRITE (R212): A remote write is queued on its connection and split into packets. -/
  | rwrite (p : Nat) (ref : HopRef) (idx : Nat)
  /-- RREAD (R212): A remote read is queued on its connection and split into read requests. -/
  | rread (p : Nat) (ref : HopRef) (idx : Nat)
  /-- ALL_REDUCE (R240): A COLL ALL_REDUCE starts, delivering the reduction of every contribution to every member. -/
  | allReduce (p : Nat) (ref : HopRef) (idx : Nat)
  /-- REDUCE_SCATTER (R240): A COLL REDUCE_SCATTER starts, delivering block r of the reduction to rank r. -/
  | reduceScatter (p : Nat) (ref : HopRef) (idx : Nat)
  /-- ALL_GATHER (R240): A COLL ALL_GATHER starts, delivering every rank's contribution to every member. -/
  | allGather (p : Nat) (ref : HopRef) (idx : Nat)
  /-- BROADCAST (R240): A COLL BROADCAST starts, delivering ROOT's contribution to every member. -/
  | broadcast (p : Nat) (ref : HopRef) (idx : Nat)
  /-- BARRIER (R243): A COLL BARRIER starts and completes at GO with the BPEG bump. -/
  | barrier (p : Nat) (ref : HopRef) (idx : Nat)
  /-- ALL_TO_ALL (R240): A COLL ALL_TO_ALL starts, exchanging blocks between every pair of ranks. -/
  | allToAll (p : Nat) (ref : HopRef) (idx : Nat)
  /-- REDUCE_SCATTERV (R251): A counts-first REDUCE_SCATTERV starts. -/
  | reduceScatterv (p : Nat) (ref : HopRef) (idx : Nat)
  /-- ALL_GATHERV (R251): A counts-first ALL_GATHERV starts. -/
  | allGatherv (p : Nat) (ref : HopRef) (idx : Nat)
  /-- ALL_TO_ALLV (R251): A counts-first ALL_TO_ALLV starts. -/
  | allToAllv (p : Nat) (ref : HopRef) (idx : Nat)
  /-- COLL_NEXT_SEQUENCE (R242): The group's previous sequence completes, and the link die starts the next queued COLL of the group. -/
  | collNextSequence (p g : Nat)
  /-- PEG_ADD (R139): A PEG descriptor adds VALUE to a package peg. -/
  | pegAdd (p : Nat) (ref : HopRef) (idx : Nat)
  /-- PEG_SET (R139): A PEG descriptor sets a peg's COUNTER. -/
  | pegSet (p : Nat) (ref : HopRef) (idx : Nat)
  /-- SET_TARGET (R139): A PEG descriptor sets a peg's TARGET. -/
  | setTarget (p : Nat) (ref : HopRef) (idx : Nat)
  /-- REMOTE_BUMP (R139): A PEG descriptor sends a standalone remote bump on a connection. -/
  | remoteBump (p : Nat) (ref : HopRef) (idx : Nat)
  /-- DESCRIPTOR_COMPLETE (R93): A descriptor's engine finishes, and the descriptor retires with a bump on OK, or halts its hopper on failure. -/
  | descriptorComplete (p : Nat) (ref : HopRef) (idx : Nat)
  /-- WAIT_TIMEOUT (R91): A descriptor waits on a peg longer than HOP_WAIT_LIMIT and completes WAIT_TIMEOUT. -/
  | waitTimeout (p : Nat) (ref : HopRef)
  /-- ENGINE_FAILED (R103): A matrix engine fails, is fenced and becomes hollow, and its running descriptor completes HOLLOW_UNIT. -/
  | engineFailed (p t phys : Nat)
  /-- CORE_RUN (R88): A write of CORE_CTRL.RUN starts a core at RESET_PC, or holds it in reset. -/
  | coreRun (p : Nat) (src : Src) (t c val : Nat)
  /-- CORE_TRAP (R88): A core traps to mtvec, or halts with CORE_FAULT when mtvec is 0. -/
  | coreTrap (p t c cause pc tval : Nat)
  /-- CORE_PEG_SET (R140): A core stores to a peg's COUNTER word, which is a SET. -/
  | corePegSet (p t c k val : Nat)
  /-- CORE_PEG_SET_TARGET (R140): A core stores to a peg's TARGET word, which is a SET_TARGET. -/
  | corePegSetTarget (p t c k val : Nat)
  /-- CORE_PEG_ADD (R140): A core stores to a peg's ADD word. -/
  | corePegAdd (p t c k val : Nat)
  /-- CORE_WAIT_ARM (R141): A core arms its single wait on a peg, which is satisfied at once or joins the waiter list. -/
  | coreWaitArm (p t c k val : Nat)
  /-- PEG_ALLOC_WRITE (R148): A write to PEG_ALLOC commits or releases a peg for a pitch, and uncommit is refused while waiters remain. -/
  | pegAllocWrite (p : Nat) (src : Src) (peg val : Nat)
  /-- SRAM_ACCESS (R85): A request reaches a tile's SRAM and is served with ECC, zero-on-read or granule zeroing. -/
  | sramAccess (p t : Nat) (who : Requester) (off : Nat) (op : MemOp) (errs : List (Nat × EccErr))
  /-- REPAIR_ADD (R311): A write of REPAIR_ADD starts replacing a line with a spare. -/
  | repairAdd (p : Nat) (src : Src) (t val : Nat)
  /-- REPAIR_DONE (R311): A run-time line repair ends, REPAIR_LAST is written, and SRAM access resumes. -/
  | repairDone (p t : Nat)
  /-- MEMORY_REQUEST (R118): A memory die serves a request to a stack in arrival order, with ECC and read-modify-write. -/
  | memoryRequest (p : Nat) (who : Requester) (off : Nat) (op : MemOp) (errs : List (Nat × EccErr))
  /-- MEM_CFG_WRITE (R116): A write of MEM_CFG changes OFFLINE or ILV_HASH while the memory dies are quiesced. -/
  | memCfgWrite (p : Nat) (src : Src) (m val : Nat)
  /-- PATROL_STEP (R121): At its pace, patrol reads or skips its next granule and writes corrected sectors back. -/
  | patrolStep (p stack : Nat) (errs : List (Nat × EccErr))
  /-- STACK_TEMP_SAMPLE (R123): Every 1 ms the memory die reads a stack's temperature and adjusts refresh and HOT. -/
  | stackTempSample (p stack : Nat) (temp : Option Nat)
  /-- STACK_TRAINING_LOST (R122): A stack interface loses training and starts retraining, and its requests wait. -/
  | stackTrainingLost (p stack : Nat)
  /-- STACK_RETRAIN_DONE (R122): A stack retraining attempt ends, and the waiting requests are served, or the stack fails after three attempts. -/
  | stackRetrainDone (p stack : Nat) (ok : Bool)
  /-- SCRUB_GRANULE_DONE (R284): The background scrubber finishes zeroing a granule and clears its bit. -/
  | scrubGranuleDone (p unit : Nat)
  /-- GRANULE_ZERO_DONE (R283): A granule zeroed for a waiting write is zero, its bit clears, and the write is applied. -/
  | granuleZeroDone (p unit granule : Nat)
  /-- FRAME_RECEIVE (R185): A fabric frame arrives and is taken in order, or fails and triggers replay. -/
  | frameReceive (e : Elem) (port : Nat) (frame : Frame)
  /-- FRAME_REPLAY_REQUEST (R185): A replay request frame arrives, and the sender resends from the frame after ACK. -/
  | frameReplayRequest (e : Elem) (port ack : Nat)
  /-- PACKET_INGRESS (R176): A link die parses an arriving packet's headers and checks epoch, route and delivery. -/
  | packetIngress (p port len : Nat) (bytes : Bytes)
  /-- WEIR_FORWARD (R164): A Weir parses a packet and forwards it on its epoch's tables, or discards it. -/
  | weirForward (w port len : Nat) (bytes : Bytes)
  /-- ROUTE_EPOCH_WRITE (R167): A write of ROUTE_EPOCH opens, seals or switches an epoch, subject to refusal with reason 5. -/
  | routeEpochWrite (p : Nat) (src : Src) (val : Nat)
  /-- WEIR_EPOCH_WRITE (R167): A write of WEIR_EPOCH opens, seals or switches an epoch at a Weir. -/
  | weirEpochWrite (w val : Nat)
  /-- PORT_SIGNAL_LOSS (R186): Loss of signal on a receive lane lasts 10 µs, and the port goes down with cause 1 and enters HOLD. -/
  | portSignalLoss (e : Elem) (port : Nat) (optics : Bool)
  /-- PORT_LOCK_LOSS (R186): Loss of codeword lock or deskew lasts 1 µs, and the port goes down with cause 2. -/
  | portLockLoss (e : Elem) (port : Nat)
  /-- DOWN_NOTICE (R199): A down notice frame arrives, and the port handles its held packets at once and starts training. -/
  | downNotice (e : Elem) (port : Nat)
  /-- PORT_DISABLE (R199): ENABLE is written 0 on a port page, and the port stops accepting packets and sends its queue. -/
  | portDisable (e : Elem) (port : Nat)
  /-- PORT_DISABLE_DRAINED (R199): The partner acknowledges every frame, and the port sends a down notice and enters DISABLED. -/
  | portDisableDrained (e : Elem) (port : Nat)
  /-- PORT_ENABLE (R199): ENABLE is written 1 on a port page, and training starts at attempt 1. -/
  | portEnable (e : Elem) (port : Nat)
  /-- PORT_RELOCK (R196): A held port regains codeword lock and returns to ACTIVE, or its return is handled as expiry. -/
  | portRelock (e : Elem) (port : Nat) (samePartner : Bool)
  /-- RELOCK_TIMEOUT (R196): Relock fails for 500 µs, and the held port starts training attempt 1. -/
  | relockTimeout (e : Elem) (port : Nat)
  /-- LINK_HOLD_EXPIRE (R197): HOLD_US passes at a link die, sprayed packets are re-injected and ordered packets are failed. -/
  | linkHoldExpire (p port : Nat)
  /-- WEIR_HOLD_EXPIRE (R198): HOLD_US passes at a Weir, and held packets are resent on the other up-port or answered NO_ROUTE. -/
  | weirHoldExpire (w port : Nat)
  /-- TRAIN_PHASE_PASS (R187): A training phase passes, and the next phase starts or the port comes up. -/
  | trainPhasePass (e : Elem) (port : Nat)
  /-- TRAIN_PHASE_TIMEOUT (R188): A training phase times out, and the attempt falls back, fails or parks the port. -/
  | trainPhaseTimeout (e : Elem) (port : Nat)
  /-- IDENTITY_BLOCK (R190): A valid identity block arrives and is kept in PARTNER_ID0 to PARTNER_ID4. -/
  | identityBlock (e : Elem) (port : Nat) (block : IdBlock)
  /-- TRAIN_PARK_RETRY (R188): 2 s after its previous attempt, a parked port makes one more training attempt. -/
  | trainParkRetry (e : Elem) (port : Nat)
  /-- WIRING_FAULT_IDENTITY (R191): Every 1 s a port in WIRING_FAULT sends one identity frame. -/
  | wiringFaultIdentity (e : Elem) (port : Nat)
  /-- EXPECT_WRITE (R192): A matching EXPECT is written, and an UP_UNATTESTED port becomes ACTIVE. -/
  | expectWrite (e : Elem) (src : Src) (port serial partner : Nat) (valid : Bool)
  /-- OPTICS_POLL (R194): Every 1 s the Weir reads an OSFP module's temperature into OPTICS. -/
  | opticsPoll (w port temp state : Nat) (present ready los : Bool)
  /-- OPTICS_READY_TIMEOUT (R194): A module does not reach ready within 2 s, which is treated as a failed Detect. -/
  | opticsReadyTimeout (w port : Nat)
  /-- TIMING_FRAME_SEND (R437): Every 1 µs a Weir sends a timing frame on each ACTIVE down-port. -/
  | timingFrameSend (w : Nat)
  /-- TIMING_FRAME (R438): A package takes a timing frame from its source port, computes the offset and slews or steps its time. -/
  | timingFrame (p port tSend tRecv : Nat) (reply : Bool)
  /-- TIME_UNLOCK (R440): No timing frame is taken for 10 µs, so the package changes source port or clears LOCKED. -/
  | timeUnlock (p : Nat)
  /-- TIMESYNC_EDGE (R436): A TIMESYNC edge reaches a Weir, which loads WEIR_SECONDS or corrects to the nearest second. -/
  | timesyncEdge (w : Nat)
  /-- PACKAGE_TIMESYNC_EDGE (R440): A TIMESYNC edge reaches an unlocked package, which corrects to its nearest whole second. -/
  | packageTimesyncEdge (p : Nat)
  /-- WEIR_SECONDS_WRITE (R436): The switch tray controller writes WEIR_SECONDS, which is loaded at the next TIMESYNC edge. -/
  | weirSecondsWrite (w val : Nat)
  /-- PTP_SYNC (R435): The rack time master takes PTP exchanges, and steps at first lock or slews afterwards. -/
  | ptpSync (rack : Nat) (offset : Int)
  /-- RMA_PACKET_SEND (R214): A connection's window, tags and path allow it, and the RMA engine sends its next packet with the next PSN. -/
  | rmaPacketSend (p conn : Nat)
  /-- RWRITE_PACKET (R217): An RWRITE packet arrives at the target, is checked and applied in PSN order, and its bump is applied. -/
  | rwritePacket (p port : Nat) (pkt : Pkt)
  /-- RREAD_PACKET (R217): A read request arrives at the target, is checked and answered with data responses. -/
  | rreadPacket (p port : Nat) (pkt : Pkt)
  /-- PEG_PACKET (R145): A standalone remote bump arrives at the target and is applied or refused. -/
  | pegPacket (p port : Nat) (pkt : Pkt)
  /-- RESPONSE_PACKET (R230): A RESPONSE arrives at the source, releases charge, delivers read data, or triggers retransmission or a break. -/
  | responsePacket (p port : Nat) (pkt : Pkt)
  /-- ACK_TIMER (R220): 1 µs after the oldest unacknowledged application, the target sends an acknowledgement. -/
  | ackTimer (p conn : Nat)
  /-- RETRY_TIMEOUT (R225): A source context's retry timer expires, and it retransmits every unacknowledged packet or breaks the connection. -/
  | retryTimeout (p conn : Nat)
  /-- CONN_CTL_WRITE (R233): A write to CONN_CTL commits or uncommits a connection context under R51. -/
  | connCtlWrite (p : Nat) (src : Src) (die val : Nat)
  /-- PITCH_STALLED (R229): A pitch's stall episode lasts STALL_LIMIT, and PITCH_STALLED is raised once. -/
  | pitchStalled (p pitch : Nat)
  /-- GRP_CTL_WRITE (R238): A write to GRP_CTL commits or uncommits a group context at a member. -/
  | grpCtlWrite (p : Nat) (src : Src) (die val : Nat)
  /-- PUSH (R236): A write of GRP_CMD PUSH copies the group definition to Weirs and rack members. -/
  | push (p : Nat) (src : Src) (die val : Nat)
  /-- PUSH_TIMEOUT (R237): A PUSH gets no answer within 50 µs, so it sets FAILED and raises PUSH_FAILED. -/
  | pushTimeout (p g : Nat)
  /-- SETUP (R237): A Weir takes a SETUP packet on a down-port in pitch 0, writes its context and answers. -/
  | setup (w port : Nat) (pkt : Pkt)
  /-- SETUP_ANSWER (R237): A Weir's SETUP answer arrives at the pushing package. -/
  | setupAnswer (p : Nat) (pkt : Pkt)
  /-- BARRIER_ARRIVE (R243): A BARRIER member's earlier ordered writes are acknowledged, and its ARRIVE is sent. -/
  | barrierArrive (p g : Nat)
  /-- ARRIVE (R243): An ARRIVE reaches a Weir, which forwards it to the root or counts it and multicasts GO. -/
  | arrive (w port : Nat) (pkt : Pkt)
  /-- GO (R243): A member takes GO, writes the counts table, and sends data or completes a barrier. -/
  | go (p : Nat) (pkt : Pkt)
  /-- COLL_DATA_SEND (R244): A member with credit sends its next DATA packet on its plane. -/
  | collDataSend (p g plane : Nat)
  /-- DATA (R245): A Weir takes DATA, reduces it into a partial or result, or forwards it as RESULT. -/
  | data (w port : Nat) (pkt : Pkt)
  /-- RESULT (R246): A member takes RESULT bytes and completes once all are visible. -/
  | result (p : Nat) (pkt : Pkt)
  /-- BREAK (R254): A BREAK reaches a member, which completes GROUP_BROKEN and sets BROKEN, or is relayed by the root. -/
  | breakCmd (e : Elem) (pkt : Pkt)
  /-- REJECT (R256): A member takes a REJECT and completes with its status. -/
  | reject (p : Nat) (pkt : Pkt)
  /-- ARRIVAL_DEADLINE (R253): The arrival deadline expires, and the group breaks, or continues reduced under DROP. -/
  | arrivalDeadline (w g : Nat)
  /-- DATA_DEADLINE (R253): A Weir's data deadline expires with its part unfinished, and the group breaks. -/
  | dataDeadline (w g : Nat)
  /-- MEMBER_DEADLINE (R255): 2 × DEADLINE + 1 ms pass at a member, which completes GROUP_BROKEN with an all-zero map. -/
  | memberDeadline (p g : Nat)
  /-- HH_POSTED_WRITE (R331): A write of HH_POSTED rings a host hopper doorbell, or is ignored and raises HH_OVERRUN. -/
  | hhPostedWrite (p : Nat) (src : Src) (v h val : Nat)
  /-- HH_RUN (R332): A write of HH_CTL.RUN starts or stops acceptance of host entries. -/
  | hhRun (p : Nat) (src : Src) (v h val : Nat)
  /-- HH_RESUME (R332): A write of HH_CTL.RESUME clears a host hopper halt or fetch fault. -/
  | hhResume (p : Nat) (src : Src) (v h val : Nat)
  /-- HOST_ENTRY_FETCH (R332): A host entry read completes, and the entry is accepted or a fetch fault is recorded. -/
  | hostEntryFetch (p v h : Nat) (read : EntryRead)
  /-- HH_ACC_WRITE (R330): A write of HH_ACC while uncommitted sets POSTED, ACC and DONE. -/
  | hhAccWrite (p : Nat) (src : Src) (v h val : Nat)
  /-- HH_CFG_WRITE (R328): A write of HH_CFG commits or uncommits a host hopper. -/
  | hhCfgWrite (p : Nat) (src : Src) (v h val : Nat)
  /-- HCQ_CFG_WRITE (R333): A write of HCQ_CFG commits or uncommits the completion ring. -/
  | hcqCfgWrite (p : Nat) (src : Src) (v val : Nat)
  /-- HEQ_CFG_WRITE (R335): A write of HEQ_CFG commits or uncommits the event ring. -/
  | heqCfgWrite (p : Nat) (src : Src) (v val : Nat)
  /-- HCQ_PROD_WRITE (R344): A write of HCQ_PROD while uncommitted also sets HCQ_CONS. -/
  | hcqProdWrite (p : Nat) (src : Src) (v val : Nat)
  /-- HEQ_PROD_WRITE (R344): A write of HEQ_PROD while uncommitted also sets HEQ_CONS. -/
  | heqProdWrite (p : Nat) (src : Src) (v val : Nat)
  /-- HCQ_CONS_WRITE (R333): A write of HCQ_CONS frees places, so waiting completion records are written and their descriptors retire. -/
  | hcqConsWrite (p : Nat) (src : Src) (v val : Nat)
  /-- HEQ_CONS_WRITE (R335): A write of HEQ_CONS frees places, and a lost-records record is written. -/
  | heqConsWrite (p : Nat) (src : Src) (v val : Nat)
  /-- SHADOW_WRITE (R334): Within 2 µs of a change, the device writes the 64-byte shadow. -/
  | shadowWrite (p v : Nat)
  /-- MSIX_HOLDOFF_END (R336): A VF vector's holdoff ends, and a pending condition is signalled. -/
  | msixHoldoffEnd (p v vec : Nat)
  /-- HOST_LOSS (R338): A link down, hot reset, PF reset or cleared bus master uncommits every VF ring and stops host records. -/
  | hostLoss (p : Nat) (cause : HostLossCause)
  /-- VF_FLR (R339): A VF Function Level Reset strikes its pitch within the package, or clears a free VF. -/
  | vfFlr (p v : Nat)
  /-- BAR2_ACCESS (R327): A host access at BAR2 reaches package memory at WIN_BASE plus the offset, subject to region and pitch. -/
  | bar2Access (p fn off : Nat) (op : MemOp)
  /-- INPUT_POWER_SAMPLE (R348): Every 1 µs the package measures its input power into P_IN. -/
  | inputPowerSample (p power : Nat)
  /-- CAP_EVALUATION (R351): Every 10 ms the hub computes CAP_EFF as the least of its terms. -/
  | capEvaluation (p : Nat)
  /-- FANTAIL_SAMPLE (R356): Every 10 ms the fantail samples temperatures and power, and updates resistances and thermal caps. -/
  | fantailSample (p : Nat)
  /-- INLET_STALE (R359): T_IN goes unwritten for 1 s, so the fantail uses 40 °C and raises INLET_STALE. -/
  | inletStale (p : Nat)
  /-- T_IN_WRITE (R363): The tray controller writes T_IN through the CS window. -/
  | tInWrite (p temp : Nat)
  /-- RELEARN (R358): A write of PWR_CTL.RELEARN starts learning. -/
  | relearn (p : Nat) (src : Src) (val : Nat)
  /-- BRAKE_ASSERT (R355): BRAKE_N goes low, and every die halves its budget within 20 µs. -/
  | brakeAssert (p : Nat)
  /-- BRAKE_RELEASE (R355): BRAKE_N goes high, and the dies stop halving at the next budget message. -/
  | brakeRelease (p : Nat)
  /-- LOAD_NOTICE_ARM (R362): A write of LOAD_NOTICE3 arms a notice, which is forwarded and granted. -/
  | loadNoticeArm (p : Nat) (src : Src) (val : Nat)
  /-- NOTICE_IN_FORCE (R362): Global time reaches AT, and the slew term is lifted. -/
  | noticeInForce (p : Nat)
  /-- NOTICE_EXPIRE (R362): AT plus DURATION_MS passes, and the slew term applies again. -/
  | noticeExpire (p : Nat)
  /-- THERMAL_TRIP (R367): A sensor reaches its fused trip, THERMTRIP_N asserts and the cause-4 power-on latch is set. -/
  | thermalTrip (e : Elem)
  /-- THERMAL_CRITICAL (R365): A thermal cap stays below 400 W for 1 s, so the hub sets CRITICAL and strikes every hosted pitch. -/
  | thermalCritical (p : Nat)
  /-- CRITICAL_CLEAR (R366): Both thermal caps stay at or above 400 W for 10 s, and CRITICAL clears. -/
  | criticalClear (p : Nat)
  /-- COOLANT_POLL (R363): Every 100 ms the tray controller reads the coolant sensors, writes T_IN and drives the valve to its flow target. -/
  | coolantPoll (tc : Nat) (reading : Coolant)
  /-- INLET_HOT_TIMEOUT (R365): The inlet stays above 45 °C for 5 s, and CAP_TC is written to 400 W. -/
  | inletHotTimeout (tc : Nat)
  /-- FLOW_LOW_TIMEOUT (R365): Flow stays below half the target for 2 s, and the valve opens fully. -/
  | flowLowTimeout (tc : Nat)
  /-- FLOW_STILL_LOW (R365): Flow is still low 5 s after the valve opened fully, and CAP_TC is written to 400 W. -/
  | flowStillLow (tc : Nat)
  /-- FLOW_LOSS (R365): Flow stays below 1.0 L/min for 1 s, or pressure is lost, and PORST_N is held on every package. -/
  | flowLoss (tc : Nat)
  /-- LEAK_DETECTED (R365): The leak rope reads wet, PORST_N is held, and the isolation valve closes. -/
  | leakDetected (tc : Nat)
  /-- COOLANT_CONDITION_END (R365): A coolant condition stays absent for 10 s, and its action ends. -/
  | coolantConditionEnd (tc row : Nat)
  /-- HEARTBEAT_FAULT (R376): 8.5 ms pass with no HB edge, and the tray controller logs and pulses RESET_N. -/
  | heartbeatFault (tc pos : Nat)
  /-- KINDLING_FAULT (R376): No HB edge arrives within 200 ms of release, and the tray controller starts recovery. -/
  | kindlingFault (tc pos : Nat)
  /-- THERMTRIP_ASSERT (R377): The tray controller sees THERMTRIP_N asserted, logs it, reports ThermalTrip and re-checks the coolant. -/
  | thermtripAssert (tc pos : Nat)
  /-- TRIP_REPULSE (R377): Inlet and flow stay in range for 10 s, and the tray controller pulses PORST_N, at most hourly. -/
  | tripRepulse (tc pos : Nat)
  /-- ERR_FATAL_ASSERT (R377): ERR_FATAL_N asserts, and within 10 ms the tray controller copies the error records and reports PackageError. -/
  | errFatalAssert (tc pos : Nat)
  /-- ERR_CORR_EDGE (R377): The tray controller counts an ERR_CORR_N edge and logs at most one summary each second. -/
  | errCorrEdge (tc pos : Nat)
  /-- ERR_CORR_PULSE_END (R447): An ERR_CORR_N pulse and its gap end, and the next waiting record is pulsed. -/
  | errCorrPulseEnd (e : Elem)
  /-- RECOVERY_TIMEOUT (R378): No ready report arrives within 30 s of the pulse, so the attempt fails, and after three the position is held. -/
  | recoveryTimeout (tc pos : Nat)
  /-- TC_RESTART (R379): A tray controller restarts, reads each position's status, and resets packages found in kindling or bring-up. -/
  | tcRestart (tc : Nat)
  /-- TC_CAP_MESSAGE (R392): The tray controller takes a cap from the rack controller and writes CAP_TC within 10 ms. -/
  | tcCapMessage (tc pos watts : Nat)
  /-- IMAGE_STORE (R384): The tray controller verifies a pushed image and stores it, or discards it. -/
  | imageStore (tc : Nat) (image : Bytes)
  /-- TC_TRIAL_CONFIRM (R385): A trial tray-controller image confirms itself and becomes active, and rollback fuses are burnt. -/
  | tcTrialConfirm (tc : Nat)
  /-- TC_TRIAL_FAIL (R385): A trial image does not confirm within 120 s, and the boot ROM starts the previous slot. -/
  | tcTrialFail (tc : Nat)
  /-- PREPARE_REMOVAL_COMPUTE (R396): PrepareRemoval on a compute tray strikes its pitches, removes its routes and powers it down. -/
  | prepareRemovalCompute (rack c : Nat)
  /-- PREPARE_REMOVAL_SWITCH (R397): PrepareRemoval on a switch tray drains its planes, removes them from the masks and powers it down. -/
  | prepareRemovalSwitch (rack s : Nat)
  /-- DRAIN_WAIT_EXPIRE (R397): DRAIN_WAIT passes with ordered connections still on the planes, and the removal proceeds. -/
  | drainWaitExpire (rack : Nat)
  /-- TRAY_INSERTED (R398): The rack controller detects a new tray controller and brings the tray up. -/
  | trayInserted (rack : Nat) (tray : Tray) (serials : List Nat)
  /-- RETURN_TO_SERVICE (R398): ReturnToService restores the routes, enables the ports and sets the tray InService. -/
  | returnToService (rack : Nat) (tray : Tray)
  /-- RESET_PACKAGE (R389): ResetPackage clears a position's held state and count, and pulses RESET_N. -/
  | resetPackage (rack slot : Nat)
  /-- CLEAR_FAULT (R389): ClearFault clears a leak or flow-loss hold, and the hourly trip limit. -/
  | clearFault (rack : Nat) (tray : Tray)
  /-- TC_CONTACT_LOSS (R399): Contact with a tray controller is lost for 3 s, and the rack controller marks the tray Absent and removes its routes. -/
  | tcContactLoss (rack tc : Nat)
  /-- POWER_LIMIT_WRITE (R391): A Redfish PowerLimit write sets the rack budget, or is refused with HTTP 400. -/
  | powerLimitWrite (rack watts : Nat)
  /-- POWER_LIMIT_PKG_WRITE (R391): A Redfish PowerLimitPkg write sets a package's requested cap. -/
  | powerLimitPkgWrite (rack slot watts : Nat)
  /-- CAP_COMPUTATION (R391): Every second, or on an input change, the rack controller computes package caps and sends lowered caps first. -/
  | capComputation (rack overhead : Nat)
  /-- CAP_RAISE (R392): After every tray controller acknowledges, or 100 ms pass, the rack controller sends raised caps. -/
  | capRaise (rack : Nat)
  /-- EPOCH_STEP_DONE (R393): Every rack controller reports an epoch-change step, and the coordinator starts the next step. -/
  | epochStepDone
  /-- EPOCH_OPEN_RETRY (R394): Every 1 ms an element that refused the open step is asked again. -/
  | epochOpenRetry
  /-- EPOCH_STEP_TIMEOUT (R394): A step before the switch fails within 1 s, and the coordinator aborts and reports EpochChangeFailed. -/
  | epochStepTimeout
  /-- EPOCH_SWITCH_RETRY (R394): Every 100 ms the switch step is repeated at elements that have not switched. -/
  | epochSwitchRetry
  /-- PMBUS_POLL (R415): Every 100 ms the tray controller reads PMBus status and telemetry. -/
  | pmbusPoll (tc : Nat) (healthy : List (Option Bool))
  /-- PSU_READING_STALE (R415): A PSU's readings stay lost for 60 s, and it counts as unhealthy. -/
  | psuReadingStale (tc psu : Nat)
  /-- SMBALERT_POLL (R414): Every 10 ms the tray controller polls SMBALERT#. -/
  | smbalertPoll (tc : Nat) (asserted : Bool)
  /-- BUS_RECOVERY (R416): A stuck SDA or SCL, or a restart, starts bus recovery by clocks and STOP. -/
  | busRecovery (tc seg : Nat) (sdaLow sclLow : Bool) (freeAfter : Option Nat) (lastAddr : Nat)
  /-- ISOLATOR_RESTORE (R416): The 100 ms isolator power cycle ends, and the bus is checked 20 ms later. -/
  | isolatorRestore (tc seg : Nat) (free : Bool)
  /-- BUS_STUCK_RETRY (R416): Every 10 s a stuck segment repeats the isolator power cycle. -/
  | busStuckRetry (tc seg : Nat)
  /-- MAC_RECEIVE (R419): A frame arrives at the MAC and fills owned descriptors, or is dropped whole. -/
  | macReceive (tc : Nat) (frame : Bytes) (fcsOk : Bool)
  /-- MAC_TRANSMIT (R420): Every descriptor of a frame is owned, and the MAC starts sending it, or returns a malformed frame. -/
  | macTransmit (tc : Nat)
  /-- MAC_TRANSMIT_DONE (R420): A frame has left the port, and its descriptors are returned with STATUS sent. -/
  | macTransmitDone (tc : Nat)
  /-- ATTEST_WIRING (R455): AttestWiring on a tray writes EXPECT at both ends of each included port and returns an attestation code. -/
  | attestWiring (rack : Nat) (tray : Tray) (ports : Nat)
  /-- ATTEST_SPAN (R457): Span attestation writes coordinates, blob section 1 and up-port EXPECT, and runs an epoch change. -/
  | attestSpan (coords : List (Nat × Nat))
  /-- RETURN_SEAL (R460): The ReturnSeal action is accepted, or refused with HTTP 409. -/
  | returnSeal (rack slot reason ref : Nat)
  /-- SEAL_GO (R460): A write of SEAL_CTL.GO strikes the package, freezes its pages and builds the bundle. -/
  | sealGo (p : Nat) (src : Src) (val : Nat)
  /-- SEAL_BUNDLE_READY (R460): The seal bundle is built and STATE becomes 3. -/
  | sealBundleReady (p : Nat)
  /-- SEAL_BURN (R460): A write of SEAL_CTL.BURN burns SEAL_CNT, SEAL_TIME and the digest, and STATE becomes 5. -/
  | sealBurn (p : Nat) (src : Src) (val : Nat)
  /-- SEAL_OFFSET_WRITE (R461): A write of SEAL_OFFSET latches 32 bundle bytes into SEAL_DATA. -/
  | sealOffsetWrite (p : Nat) (src : Src) (val : Nat)
  /-- RING_SEL_WRITE (R442): A write of RING_SEL latches the selected hub ring record into RING_DATA, or zeros. -/
  | ringSelWrite (p : Nat) (src : Src) (val : Nat)
  /-- HEARTBEAT_EDGE (R376): An HB edge reaches the tray controller, which starts or restarts its 8.5 ms watch of that position. -/
  | heartbeatEdge (tc pos : Nat)
  /-- PARTNER_RESTART (R188): A training end sees its partner return to Detect, ends its own attempt as failed and starts the next attempt at Detect. -/
  | partnerRestart (e : Elem) (port : Nat)
  /-- PTP_LOCK_LOSS (R435): The rack time master loses its PTP master, runs on its own oscillator and the rack controller logs the loss of lock. -/
  | ptpLockLoss (rack : Nat)
  /-- WEIR_TIME_UNLOCKED (R436): 1.1 s pass with no TIMESYNC edge at a Weir, so WEIR_TIME_STAT.LOCKED clears and its timing frames report it unlocked. -/
  | weirTimeUnlocked (w : Nat)
  /-- PLANES_DRAINED (R397): Every PLANE_ORD count of the drained planes reaches 0, and the rack controller leaves step 2 of switch-tray removal for the epoch change. -/
  | planesDrained (rack : Nat)
  /-- D3HOT (R324): The host moves a function between D0 and D3hot, and in D3hot the function accepts no doorbell and the host interface issues no DMA for it. -/
  | d3hot (p fn : Nat) (d3 : Bool)
  deriving DecidableEq, Repr

end Sys2Proof
end

