-- ==== Sys2Proof/Decode.lean ====
section
/-! DEFINITION. Words of the operation table: no row has bits, so no word spells a command (log 3). -/

namespace Sys2Proof

/-- The command that a word spells by the table's bits: none, since no row of the table gives bits (log 3). -/
def decodeTableWord (_nbits _w : Nat) : Option Instr := none

end Sys2Proof
end

