-- ==== Sys2Proof/Config.lean ====
section
/-! DEFINITION. What the manual leaves open: opaque constants with no body, so no proof can lean on a value (log 7). -/

namespace Sys2Proof.Config

/-- The FP32 bits that the one fixed algorithm of EXP, RECIP or RSQRT gives, by sub-operation and FP32 operand; taken where they lie
within 2 units in the last place of the exact result (R104). -/
opaque transcendBits : Nat → BitVec 32 → BitVec 32

/-- The FP32 result of EXP, RECIP or RSQRT at an operand for which the manual states none (log 7). -/
opaque specialResult : Nat → BitVec 32 → BitVec 32

/-- A byte the manual leaves undefined, fresh for each count (R85, R103, R119, R122, R127). -/
opaque freeByte : Nat → Nat → BitVec 8

/-- A choice among outcomes that the manual does not fix, fresh for each count (R85, R86, R119). -/
opaque freeChoice : Nat → Nat → Nat

/-- A register beyond the page header of the open debug boundary, for which the manual defines no field, fresh for each count
(R463; log 152). -/
opaque debugWord : Nat → Nat → BitVec 32

/-- The converged equalizer settings of a port, by element, port and the time at which its training converged (R193; log 159). -/
opaque equalizer : Nat → Nat → Nat → BitVec 64

/-- Whether the header bytes 0 to 175 of an image hold, in bytes 80 to 175, an ECDSA P-384 signature over the SHA-384 of bytes 0 to 79 that
the fused key verifies (R303, R383, R384). -/
opaque signatureOk : List (BitVec 8) → Bool

/-- The hub's signature over a seal bundle, 96 bytes numbered (R460). -/
opaque signatureByte : List (BitVec 8) → Nat → BitVec 8

/-- The fused AES-128 image key of a tray controller, 16 bytes numbered (R373, R375). -/
opaque imageKey : Nat → Nat → BitVec 8

/-- The SHA-384 digest of the bytes, 48 bytes numbered (R383, R460). -/
opaque digestByte : List (BitVec 8) → Nat → BitVec 8

/-- The six-digit attestation code, fresh for each count (R455). -/
opaque attestCode : Nat → Nat

end Sys2Proof.Config
end

