-- ==== Sys2Proof/Machine/State.lean ====
section
/-! DEFINITION. The state: a whole span as plain data. Registers of control space and of a Weir's management space live
in `Regs`, one sparse file per element; what no register shows lives in the structures below. An element that a map does
not list is at its reset value (log 4). -/

namespace Sys2Proof.Machine

/-- A map from numbers, rising keys; a key it does not list has the default its reader supplies. -/
abbrev SMap (α : Type) := List (Nat × α)

/-- The registers of one element that differ from their reset value, by address, rising. -/
abbrev Regs := List (Nat × Word)

/-- Memory: package memory offset (exposed DRAM or SRAM window) and byte, rising, no zero byte (R26, R281). -/
abbrev Memory := List Host.Cell

/-! ## What packages and Weirs share -/

/-- Where an element stands between resets (R289–R316, R322). `kindling` holds the phase, `bringup` the step. -/
inductive Phase where
  | inReset (reach : Nat)
  | kindling (phase : Nat)
  | held          -- a hold band, after kindling (R305)
  | kindleStuck   -- kindling holds for ever: fuse, hub or seal (R301, R68, R462)
  | bringup (step : Nat)
  | running
  | failed        -- R314
  deriving DecidableEq, Repr

/-- The power-on conditions of R290 that hold now, the inrush limiter (R347), and whether the power-on source is asserted:
until 10 ms after the last condition cleared. -/
structure PowerIn where
  undervoltage : Bool := false
  overvoltage : Bool := false
  rail : Bool := false
  porst : Bool := false
  trip : Bool := false
  inrush : Bool := false
  asserted : Bool := true
  deriving DecidableEq, Repr

/-- Reset and kindling working state (R289–R305). `pending1` is a reach-1 reset that waits for the hub (R293); `slot` the
image slot requested; `routes` the epoch-0 tables of the blob; `resetEnd`, `waited` and `waitStart` are in ns of elapsed
time; `fuseBad` says that the fuse array fails its CRC (log 54). -/
structure Kindle where
  phase : Phase := .inReset 3
  resetLow : Bool := false
  pending1 : Bool := false
  fuseBad : Bool := false
  refclk : Bool := false
  hubTried : Nat := 0
  slot : Nat := 0
  imgTries : Nat := 0
  slotsFailed : Nat := 0
  imgRunning : Bool := false
  fallback : Bool := false
  routes : List Nat := []
  forceFull : Bool := false
  resetEnd : Nat := 0
  waited : Nat := 0
  waitStart : Option Nat := none
  deriving DecidableEq, Repr

/-- The MSP slave (R402–R412). `txn` is the transaction in progress: its command byte; `lastRead` the words it shifted
out; `csBusy` an access the hub has not answered; `outLeft` the words left of a message of which some have been read. -/
structure Msp where
  status : Word := 1
  err : Word := 0
  csAddr : Word := 0
  csLo : Word := 0
  csHi : Word := 0
  csBusy : Bool := false
  csResult : Nat := 0
  csReason : Nat := 0
  inbox : List Word := []
  outbox : List Word := []
  outLeft : Nat := 0
  bulkIn : Bytes := []
  bulkOut : Bytes := []
  txn : Option Nat := none
  abandoned : Bool := false
  lastRead : List Word := []
  deriving DecidableEq, Repr

/-- Time of an element (R434–R440): its global time in ns, the slew left to run, the offset it still has to lose at half
rate, when it last took a reference, for a Weir the seconds that wait for an edge, and `raw`, the ns that have passed at the
element, which nothing steps. -/
structure TimeSt where
  now : Nat := 0
  raw : Nat := 0
  slew : Int := 0
  half : Nat := 0
  lastRef : Nat := 0
  source : Nat := 0
  secondsArmed : Option Nat := none
  deriving DecidableEq, Repr

/-- A frame that takes a SEQ number (R185): packet data of a VC, with the offset at which the first packet begins (0x3FF for none)
and the packets whose last byte it carries; a return of credits of a VC; a down notice. -/
inductive TxItem where
  | data (vc first : Nat) (bytes : Bytes) (ends : List Pkt)
  | credit (vc n : Nat)
  | down
  deriving DecidableEq, Repr

/-- A frame kept for replay: its SEQ and how often it has been resent (R185, R186). -/
structure KeptFrame where
  seq : Nat
  item : TxItem
  resent : Nat := 0
  deriving DecidableEq, Repr

/-- A timing frame as it is sent (R437): T_SEND, T_RECV, REPLY and LOCKED. -/
structure TimingFrame where
  tSend : Nat
  tRecv : Nat
  reply : Bool
  locked : Bool
  deriving DecidableEq, Repr

/-- The part of a fabric port that no register shows (R155, R183–R199). `queue` holds packets that wait for credit, with their VC;
`part` the packet a VC has begun and the bytes of it still to send; `replay` the frames sent and not acknowledged; `sent` the frames
sent since the port last began to carry traffic, with the counter and scrambler of the next codeword; `rx` the packet bytes received
per VC; `rxSome` that some frame has been received in order; `phase` the training phase that runs, 0 for none; `waitTrain` a port
that waits for its turn (R189); `ids` the valid identity blocks in a row, `idSent` the last one sent; `eq` and `savedEq` the
equalizer settings in use and saved; `timingT1` when a package sent its timing frame of Verify, `timingOut` the last timing frame
sent (R437). -/
structure Port where
  weirEnable : Bool := false
  txSeq : Nat := 0
  rxSeq : Nat := 0
  rxSome : Bool := false
  replay : List KeptFrame := []
  sent : List Bytes := []
  cwNext : Nat := 0
  scrambler : Nat := 0
  asked : Bool := false
  part : SMap (Pkt × Bytes) := []
  queue : List (Nat × Pkt) := []
  lastVc : Nat := 5
  credits : SMap Nat := []
  owed : SMap Nat := []
  rx : SMap Bytes := []
  uncorr : List Nat := []
  phase : Nat := 0
  waitTrain : Bool := false
  parked : Bool := false
  parkedRetry : Bool := false
  relocking : Bool := false
  draining : Bool := false
  holdStart : Option Nat := none
  heldSerial : Nat := 0
  heldPort : Nat := 0
  trainStart : Nat := 0
  lastAttempt : Nat := 0
  fellBack : Bool := false
  ids : Nat := 0
  idSent : Bytes := []
  flight : Nat := 0
  timingT1 : Option Nat := none
  timingOut : Option TimingFrame := none
  savedSerial : Nat := 0
  savedPort : Nat := 0
  savedRate : Nat := 0
  eq : Nat := 0
  savedEq : Nat := 0
  savedValid : Bool := false
  deriving DecidableEq, Repr

/-- Sideband pins an element drives (R445–R448). `fatalBits` lists the EVT_STAT bits (page address × 32 + bit) that hold
ERR_FATAL_N, `fatalStrike` a package strike the hub requested; `corrWait` counts ERR_CORR_N pulses that wait. -/
structure Pins where
  hb : Bool := false
  fatalBits : List Nat := []
  fatalStrike : Bool := false
  corrPulse : Bool := false
  corrWait : Nat := 0
  thermtrip : Bool := false
  brake : Bool := false
  deriving DecidableEq, Repr

/-- What a package and a Weir have in common. `isWeir` says which; `rack` and `pos` are its rack number and its slot or
plane (R15, R16, R18); `shape` holds the span's width and height codes; `serial` is a Weir's fused serial. -/
structure Base where
  isWeir : Bool := false
  rack : Nat := 0
  pos : Nat := 0
  serial : Nat := 0
  shapeW : Nat := 0
  shapeH : Nat := 0
  regs : Regs := []
  pwr : PowerIn := {}
  kin : Kindle := {}
  msp : Msp := {}
  time : TimeSt := {}
  ports : SMap Port := []
  pins : Pins := {}
  deriving DecidableEq, Repr

/-! ## The package -/

/-- A piece of a memory request, which goes to its die by itself (R83): its transfer, its place in it, who asks, the package memory
offset, and the words or sectors found in error. -/
structure Piece where
  xfer : Nat
  pos : Nat
  who : Requester
  off : Nat
  op : MemOp
  errs : List (Nat × EccErr)
  deriving DecidableEq, Repr

/-- A request whose pieces do not all end at once: the pieces left, the first status that is not OK, and the data by place (R83). -/
structure Transfer where
  who : Requester
  off : Nat
  read : Bool
  left : Nat
  status : Nat := 0
  data : SMap Bytes := []
  deriving DecidableEq, Repr

/-- A stack's state beside its registers: retraining attempts, the scrubber's position, recent uncorrectable sectors and
requests that wait (R118, R122, R284). -/
structure Stack where
  retries : Nat := 0
  scrubPos : Nat := 0
  ueTimes : List (Nat × Nat) := []
  waiting : List Piece := []
  deriving DecidableEq, Repr

/-- Memory and what surrounds it: scrubbed granules of DRAM, words and sectors that read uncorrectable or correctable, lines repaired
and a repair in progress, requests that wait with the transfers they belong to, and the data of the last read served. -/
structure MemSt where
  cells : Memory := []
  dramClean : List Nat := []
  sramBad : List Nat := []
  sramFix : List Nat := []
  dramBad : List Nat := []
  dramFix : List Nat := []
  repaired : List (Nat × Nat) := []
  repairing : SMap (Nat × Nat) := []
  sramWait : List (Nat × Piece) := []
  zeroWait : List (Nat × Nat × Piece) := []
  xfers : SMap Transfer := []
  nextXfer : Nat := 0
  stackSt : SMap Stack := []
  lastRead : Bytes := []
  lastStatus : Nat := 0
  deriving DecidableEq, Repr

/-- A flit but for what it takes when it leaves: TYPE, VC, CREDITS and data (R61). -/
structure FlitItem where
  type : Nat
  vc : Nat := 0
  credits : Nat := 0
  data : Bytes := []
  deriving DecidableEq, Repr

/-- One end of a die link (R60–R64, R154, R155). `out` lists the modules that a repair at either end keeps out of the rotation, `retraining`
the one that this end retrains, `waiting` those of this end that wait for their turn; `queue` the packets of each VC that wait to be sent, each with the
input port and VC whose buffer it holds; `rxBuf` what each VC has received of a packet; `owed` the credits to return; `sent` the slices of the flits
sent, oldest first. -/
structure DiePort where
  modules : Nat := 15
  fenced : Nat := 0
  out : List Nat := []
  retraining : Option Nat := none
  waiting : List Nat := []
  fails : List (Nat × Nat) := []
  spares : List Nat := [2, 2, 2, 2]
  txSeq : Nat := 0
  rxSeq : Nat := 0
  rxSome : Bool := false
  replay : List (Nat × FlitItem) := []
  asked : Bool := false
  queue : SMap (List (Bytes × Option (Nat × Nat))) := []
  lastVc : Nat := 5
  credits : SMap Nat := []
  rxBuf : SMap Bytes := []
  owed : SMap Nat := []
  sent : List (List Bytes) := []
  deriving DecidableEq, Repr

/-- The budget a die holds, and what the hub knows of its reports (R77–R81, R355). `held` is the number of beats in four it
holds, or quarters of its rate it gives up (log 43). `samples` counts the interval's power samples, with their sum, highest power and the temperature
of the last; `slow` sums the held beats, or the 1,024ths of the clock, of each sample (R79; log 172). -/
structure DieBudget where
  seen : Bool := false
  seq : Nat := 0
  budget : Nat := 0
  fallback : Nat := 0
  tLimit : Nat := 0
  metronome : Bool := false
  validity : Nat := 0
  inFallback : Bool := false
  ignored : Nat := 0
  halved : Bool := false
  unattainable : Bool := false
  limited : Bool := false
  held : Nat := 0
  missing : Nat := 0
  reported : Bool := false
  silent : Bool := false
  samples : Nat := 0
  sum : Nat := 0
  peak : Nat := 0
  temp : Nat := 0
  slow : Nat := 0
  deriving DecidableEq, Repr

/-- The dies, their links and the clock mode change (R57–R81). -/
structure DieSt where
  links : SMap DiePort := []
  budgets : SMap DieBudget := []
  changing : Bool := false
  outOfService : Bool := false
  deriving DecidableEq, Repr

/-- A queued descriptor's progress (R90, R93). -/
inductive Stage where
  | fetched | decoded | waiting | issued | finished | retired
  deriving DecidableEq, Repr

/-- A descriptor a hopper has fetched: its index, or its SEQ in a host hopper, its 64 bytes, and how it went. -/
structure HopEntry where
  idx : Nat
  bytes : Bytes
  stage : Stage := .fetched
  status : Nat := 0
  detail : Nat := 0
  saturated : Bool := false
  waitStart : Nat := 0
  irq : Bool := false
  noRecord : Bool := false
  deriving DecidableEq, Repr

/-- A sequencer core (R86–R88, R140, R141). `armed` is its peg, the value and whether the wait is satisfied; `icache` the lines of
tile SRAM that its instruction cache may hold. -/
structure SeqCore where
  pc : Nat := 0
  mtvec : Nat := 0
  mepc : Nat := 0
  mcause : Nat := 0
  mtval : Nat := 0
  icache : SMap Bytes := []
  held : Bool := true
  scratch : List Host.Cell := []
  armed : Option (Nat × Nat × Bool) := none
  deriving DecidableEq, Repr

/-- A source on a peg's waiter list (R142). -/
inductive Waiter where
  | hopper (ref : HopRef) (v : Nat)
  | core (c v : Nat)
  deriving DecidableEq, Repr

/-- One peg (R134). -/
structure Peg where
  counter : Word := 0
  target : Word := 0
  waiters : List Waiter := []
  deriving DecidableEq, Repr

/-- Tiles: hopper queues by hopper number, cores by 2t + c, pegs by package number, fenced physical engines by tile,
and the hopper an engine served last, by the engine's number (R90). -/
structure TileSt where
  hops : SMap (List HopEntry) := []
  cores : SMap SeqCore := []
  pegs : SMap Peg := []
  fencedEngines : SMap Nat := []
  engTurn : SMap Nat := []
  deriving DecidableEq, Repr

/-- A descriptor or request a connection carries: whose it is, and how far it has been split (R214). -/
structure ConnOp where
  ref : Option HopRef
  idx : Nat
  op : POp
  len : Nat
  loc : Nat
  remote : Nat
  sent : Nat
  firstPsn : Option Nat
  lastPsn : Nat
  pending : Nat
  bump : Bool
  peg : Nat
  add : Nat
  status : Nat
  write : Option Bytes
  deriving DecidableEq, Repr

/-- A connection context (R206, R217–R226, R233). `psn` is NEXT_PSN or EXPECT_PSN, `loopExpect` what a loopback connection
expects; `unacked` holds request packets not yet acknowledged; `reading` the read requests whose data are not all in, each with
its read tag and the offsets of the pieces written; `toAck`, `ackCm` and `ackPort` what the next acknowledgement answers;
`retxActed` the values that a STALE_EPOCH or OUT_OF_ORDER answer has named. -/
structure Conn where
  pitch : Nat := 0
  target : Bool := false
  ordered : Bool := false
  commit : Bool := false
  broken : Bool := false
  peerRack : Nat := 0
  peerSlot : Nat := 0
  plane : Nat := 0
  spray : Nat := 0
  psn : Nat := 0
  window : Nat := 0
  retries : Nat := 0
  lastAcked : Nat := 0
  grown : Nat := 0
  halvePsn : Nat := 0
  queue : List ConnOp := []
  unacked : List Pkt := []
  reading : List (Pkt × List Nat) := []
  rr : Nat := 0
  reject : Nat := 0
  oooAnswered : Option Nat := none
  marked : List Nat := []
  toAck : Nat := 0
  ackCm : Bool := false
  ackPort : Nat := 18
  loopExpect : Nat := 0
  retxActed : List Nat := []
  deriving DecidableEq, Repr

/-- A management connection (R210, R211). -/
structure Mgmt where
  valid : Bool := false
  broken : Bool := false
  port : Nat := 0
  genOut : Nat := 0
  genIn : Nat := 0
  oooAnswered : Option Nat := none
  nextPsn : Nat := 0
  expectPsn : Nat := 0
  estab : Nat := 0
  syncOwed : Bool := false
  retries : Nat := 0
  queue : List ConnOp := []
  unacked : List Pkt := []
  retxActed : List Nat := []
  deriving DecidableEq, Repr

/-- The collective a group runs (R243–R246, R256): descriptor, phase 1 arrival or 2 data, DATA still to send (block, offset,
length) and the LAST packets owed per plane, DATA unanswered per plane, RESULTs expected (source rank, offset, length) and
those written (source rank, offset), words of the GO table by packet, the descriptors a barrier waits for (hopper key, index),
the counts received and those supplied, and a status that its result already has. -/
structure CollRun where
  ref : HopRef
  idx : Nat
  seq : Nat
  phase : Nat := 1
  arrived : Bool := false
  t0 : Nat := 0
  toSend : List (Nat × Nat × Nat) := []
  lastOwed : List Nat := []
  outstanding : SMap Nat := []
  expect : List (Nat × Nat × Nat) := []
  got : List (Nat × Nat) := []
  table : SMap Bytes := []
  reduced : Bool := false
  dropped : Nat := 0
  saturated : Bool := false
  counts : List Nat := []
  supplied : List Nat := []
  barrierWaits : List (Nat × Nat) := []
  fault : Nat := 0
  deriving DecidableEq, Repr

/-- A group context at a member package (R235, R259). Bit maps are numbers. -/
structure Grp where
  pitch : Nat := 0
  commit : Bool := false
  broken : Bool := false
  countsFirst : Bool := false
  drop : Bool := false
  planes : Nat := 0
  deadline : Nat := 100000
  seq : Nat := 0
  members : Nat := 0
  missing : Nat := 0
  dropped : Nat := 0
  oldMembers : Nat := 0
  brokenSeq : Option Nat := none
  lastDone : Option Nat := none
  busy : Bool := false
  failed : Bool := false
  pushWait : List Nat := []
  setupOwed : List Nat := []
  queue : List (HopRef × Nat) := []
  run : Option CollRun := none
  deriving DecidableEq, Repr

/-- Fabric state of a package: contexts, selections (three copies each: PCIe, hub, fabric), packets accepted at an ingress port
(18: by loopback) and not yet delivered, held packets to be injected again and retransmissions that find no port (R162, R169,
R197). `stalls` holds the stall episodes by pitch: since when, the first bound met and its connection, and whether it was raised;
`waits` the operations that wait at a bound: a connection, or 4,096 and a hopper, its pitch, the bound, and since when. The turns
are those of R214 (per link die) and R228 (read tags per link die, descriptor places). -/
structure FabSt where
  conns : SMap Conn := []
  mgmt : SMap Mgmt := []
  grps : SMap Grp := []
  connSel : SMap Nat := []
  grpSel : SMap Nat := []
  mgmtSel : SMap Nat := []
  stalls : SMap (Nat × Nat × Nat × Bool) := []
  delivered : List (Nat × Pkt) := []
  waitPath : List Pkt := []
  retxWait : List Pkt := []
  waits : List (Nat × Nat × Nat × Nat) := []
  rmaTurn : SMap Nat := []
  tagTurn : SMap Nat := []
  placeTurn : Nat := 0
  deriving DecidableEq, Repr

/-- A fence table entry (R266). -/
structure Fence where
  absorb : Bool
  pitch : Nat
  rack : Nat
  slots : Nat
  deriving DecidableEq, Repr

/-- A DRAM range of a pitch (R262). -/
structure Range where
  pitch : Nat
  start : Nat
  len : Nat
  deriving DecidableEq, Repr

/-- A strike in progress (R272–R279). `code` is the REACH written; `reach` what it strikes: 0 or 1 a core, 2 a tile, 3 a pitch,
4 a pitch across the span, 5 the package; `step` is 3 while it drains and 4 while it absorbs; `go` says that a write of
STRIKE_CTRL on `page` requested it (R55). -/
structure Strike where
  sid : Nat
  page : Nat
  code : Nat
  reach : Nat
  pitch : Nat
  tile : Nat
  requester : Nat
  step : Nat
  t0 : Nat
  abandoned : Bool
  nAbandoned : Nat
  absorbed : Nat
  groups : List Nat
  conns : List Nat
  peers : List (Nat × Nat)
  released : Bool
  late : Bool
  joined : List Nat
  replyTo : Option (Via × Bytes)
  answerTo : Option (Nat × Nat)
  go : Bool := false
  deriving DecidableEq, Repr

/-- Hub state beyond its pages (R263–R280, R441). `ring` holds (RSEQ, 32 bytes). -/
structure HubSt where
  ring : List (Nat × Bytes) := []
  ringFrozen : Bool := false
  ringSel : SMap Nat := []
  ringLatch : SMap Bytes := []
  fences : List Fence := []
  ranges : List Range := []
  hosted : List (Nat × Nat) := []
  quarantine : List (Nat × Nat) := []
  strikes : List Strike := []
  nextSid : Nat := 0
  resetRecordOwed : Bool := false
  savedDram : List Nat := []
  deriving DecidableEq, Repr

/-- What the package sends to its host: a posted memory write, or an MSI-X message of a function's vector. -/
inductive HostMsg where
  | write (addr : Nat) (data : Bytes)
  | msix (fn vec : Nat)
  deriving DecidableEq, Repr

/-- Per virtual function: fetch-fault records that wait for ring space (hopper, reason, expected and found SEQ), events
lost since the last KIND 3, holdoff and pending of the two vectors, whether CQ_FULL was raised for this wait, whether the
shadow lags behind the registers. -/
structure Vf where
  waitFaults : List (Nat × Nat × Nat × Nat) := []
  lostSince : Nat := 0
  holdoff : List Bool := [false, false]
  pendingVec : List Bool := [false, false]
  cqWait : Bool := false
  shadowDirty : Bool := false
  deriving DecidableEq, Repr

/-- Host interface state beyond its pages (R324–R341). `mboxCmd` is the command the mailbox holds for the hub, `mboxAfter` the
pitch commands in the MSP inbox that arrived before it (R264). -/
structure HostSt where
  vfs : SMap Vf := []
  d3 : List Nat := []
  cfgVfs : Nat := 16
  cfgBar2 : Nat := 4
  outMsgs : List HostMsg := []
  mboxCmd : Option Bytes := none
  mboxAfter : Nat := 0
  bar2Read : Bytes := []
  deriving DecidableEq, Repr

/-- A load notice (R361). -/
structure Notice where
  atNs : Nat
  power : Nat
  pitch : Nat
  durMs : Nat
  inForce : Bool
  started : Nat
  deriving DecidableEq, Repr

/-- Power and thermal working state (R348–R368). Temperatures in 0.125 °C, power in 0.125 W, newest first; the estimates and
their sums in 2^−32 of 0.0001 K/W (log 44); caps in W as computed, before the floor. -/
structure PwrSt where
  pWindow : List Nat := []
  pHist : List Nat := []
  rDie : Nat := 300 * 2 ^ 32
  rStack : Nat := 250 * 2 ^ 32
  samples : List Nat := []
  sumDie : Int := 0
  sumStack : Int := 0
  learnStart : Nat := 0
  tInHist : List (Nat × Nat) := []
  tInAt : Nat := 0
  tInStale : Bool := false
  capDie : Nat := 1600
  capStack : Nat := 1600
  lastChanged : Nat := 400
  notice : Option Notice := none
  noSlew : Bool := false
  criticalSince : Option Nat := none
  okSince : Option Nat := none
  drift : Bool := false
  faultMarks : List Nat := []
  lastGood : SMap Nat := []
  budgetSeq : Nat := 0
  deriving DecidableEq, Repr

/-- Return seal working state (R460). -/
structure SealSt where
  bundle : Bytes := []
  sid : Option Nat := none
  deriving DecidableEq, Repr

/-- One VX-20 package. -/
structure Package where
  base : Base := {}
  mem : MemSt := {}
  dies : DieSt := {}
  tl : TileSt := {}
  fab : FabSt := {}
  hub : HubSt := {}
  host : HostSt := {}
  pwr : PwrSt := {}
  sealed : SealSt := {}
  deriving DecidableEq, Repr

/-! ## The Weir -/

/-- A barrier or reduction context's working state beyond its 32-byte block (R243–R256): ARRIVE packets taken; DATA by block,
offset and down-port, and partials by block, offset and rack, not yet combined; who has sent its last data (a rank, or
2,048 and a rack); the ranks dropped. -/
structure WCtx where
  arrivals : List Pkt := []
  inputs : List (Nat × Nat × Nat × Pkt) := []
  partials : List (Nat × Nat × Nat × Pkt) := []
  lasts : List Nat := []
  dropped : Nat := 0
  arriveStart : Option Nat := none
  dataStart : Option Nat := none
  goSent : Bool := false
  form : Nat × Nat × Nat := (0, 0, 0)
  source : Nat := 0
  upSent : Bool := false
  deriving DecidableEq, Repr

/-- One Weir chip: its reduction contexts, the directions whose next sprayed packet takes the higher up-port, and collective
packets it has accepted and not yet applied (R164, R245). -/
structure Weir where
  base : Base := {}
  ctxs : SMap WCtx := []
  alternate : List Nat := []
  taken : List (Nat × Pkt) := []
  deriving DecidableEq, Repr

/-! ## Controllers -/

/-- One position of a tray, as its tray controller sees it (R376–R386). `porstHolds` lists the causes that hold PORST_N:
1 thermal, 2 leak, 3 flow loss, 4 hot swap. `slotA` and `slotB` point into the image copies of the position's type. The
saved settings and EXPECT values are entries of blob sections 3, 4 and 5. -/
structure Position where
  present : Bool := true
  resetHeld : Bool := false
  porstHolds : List Nat := []
  hbSeen : Bool := false
  lastEdge : Nat := 0
  attempts : List Nat := []
  attemptRunning : Bool := false
  packageFailed : Bool := false
  tripAt : Option Nat := none
  tripWaitsClear : Bool := false
  fatalEdges : Nat := 0
  corrEdges : Nat := 0
  corrLogged : Option Nat := none
  lastRseq : Nat := 0
  serial : Nat := 0
  slotA : Nat := 0
  slotB : Nat := 1
  savedPorts : Bytes := []
  savedDram : Bytes := []
  expects : Bytes := []
  rcCap : Nat := 0
  notice : Option Notice := none
  readyResult : Nat := 0
  deriving DecidableEq, Repr

/-- Tray coolant control (R363–R365). `conds` lists the rows of R365 in force, `faulty` the sensors that gave no reading in
the order of R363; `flowCap` says that flow stayed low with the valve full open. -/
structure CoolSt where
  inlet : Nat := 0
  flow : Nat := 0
  flowTarget : Nat := 0
  valveFull : Bool := false
  valveOpen : Bool := false
  flowCap : Bool := false
  isolationClosed : Bool := false
  conds : List Nat := []
  faulty : List Nat := []
  deriving DecidableEq, Repr

/-- A sideband segment (R416). -/
structure Segment where
  stage : Nat := 0
  isolatorOff : Bool := false
  stuck : Bool := false
  clocks : Nat := 0
  lastAddr : Nat := 255
  sda : Bool := false
  scl : Bool := false
  deriving DecidableEq, Repr

/-- A MAC descriptor (R418). -/
structure MacDesc where
  buf : Bytes := []
  bufLen : Nat := 0
  frameLen : Nat := 0
  own : Bool := false
  first : Bool := false
  last : Bool := false
  vlan : Bool := false
  sent : Bool := false
  malformed : Bool := false
  timeLo : Nat := 0
  deriving DecidableEq, Repr

/-- The TC's Ethernet MAC (R417–R420). -/
structure Mac where
  linkUp : Bool := true
  rxRing : List MacDesc := []
  txRing : List MacDesc := []
  rxHead : Nat := 0
  txHead : Nat := 0
  sending : Option Nat := none
  rxNobufStart : Nat := 0
  rxNobufMid : Nat := 0
  rxErr : Nat := 0
  txMalformed : Nat := 0
  deriving DecidableEq, Repr

/-- A tray controller (R373–R386). Its log holds the 32-byte records, oldest first; `bundles` the seal bundles attached to it,
by position (R460); `serial` its fused serial (R373); `trial` the slot of a trial image; `slotImages` the bytes of the image in a slot, as stored (R375, R383). -/
structure TrayCtl where
  serial : Nat := 0
  positions : SMap Position := []
  cool : CoolSt := {}
  log : List Bytes := []
  lseq : Nat := 0
  logDropped : Nat := 0
  activeSlot : Nat := 0
  trial : Option Nat := none
  slotVersions : List Nat := [0, 0]
  trialRollback : Nat := 0
  thermometer : Nat := 0
  copies : SMap Bytes := []
  slotImages : SMap Bytes := []
  segs : SMap Segment := []
  psuHealthy : List Bool := [true, true, true, true, true, true]
  psuLost : List Nat := []
  smbalert : Bool := false
  mac : Mac := {}
  hotSwitchOpen : Bool := false
  led : Bool := false
  bundles : SMap Bytes := []
  now : Nat := 0
  deriving DecidableEq, Repr

/-- The state of a tray in the rack controller's eyes (R395). -/
inductive TrayState where
  | inService | draining | readyForRemoval | absent | inserted
  deriving DecidableEq, Repr

/-- A message to Redfish subscribers, or an action's answer (R389, R390): a name, and the slot, tray or plane. -/
structure RfMsg where
  name : String
  subject : Nat
  http : Nat
  deriving DecidableEq, Repr

/-- A rack controller and its time master (R387–R399, R435). Trays go by tray-controller number; `swap` is the tray being
swapped and the step of its removal, 0 once the removal is over; `saved` holds port and DRAM settings by package serial;
`lost` says that the rack controller or its management Ethernet is lost (R21); `attested` lists the trays attested since they were inserted, `inletHigh` those that raised INLET_HIGH; `brakeAt` is when BRAKE_N went low. -/
structure RackCtl where
  trays : SMap TrayState := []
  degraded : Bool := false
  setPoint : Nat := 128000
  req : SMap Nat := []
  capSent : SMap Nat := []
  capRaise : List (Nat × Nat) := []
  swap : Option (Tray × Nat) := none
  lost : Bool := false
  msgs : List RfMsg := []
  saved : SMap (Bytes × Bytes) := []
  attested : List Nat := []
  brakeAt : Option Nat := none
  inletHigh : List Nat := []
  time : TimeSt := {}
  firstLock : Bool := false
  ptpLocked : Bool := false
  planesEnabled : Bool := false
  ownLog : List (Nat × Nat) := []
  deriving DecidableEq, Repr

/-- A change to the span's route tables (R163, R396–R398, R455–R457): VALID of a destination, a plane of a destination, or a
plane of every destination. -/
inductive Edit where
  | valid (dest : Nat) (on : Bool)
  | plane (dest plane : Nat) (on : Bool)
  | planeOff (plane : Nat)
  deriving DecidableEq, Repr

/-- What follows an epoch change (R396–R399, R457). -/
inductive After where
  | nothing
  | removed (rack : Nat) (tray : Tray)
  | lost (rack : Nat) (tray : Tray)
  | returned (rack : Nat) (tray : Tray)
  | spanned (racks : List Nat)
  deriving DecidableEq, Repr

/-- The epoch change the coordinator runs (R168, R393, R394): `n` is the epoch written; `step` 1 opens, 2 writes the tables,
3 seals, 4 switches, 5 waits. Elements go by number, Weirs from 1,024 up: `members` take part, `done` have done the step. -/
structure EpochChange where
  n : Nat
  step : Nat
  members : List Nat
  done : List Nat
  edits : List Edit
  after : After
  deriving DecidableEq, Repr

/-- Why a step stops: nothing the manual describes stops the block, so no reason is listed. -/
inductive Fault where
  deriving DecidableEq, Repr

/-- Why a command has no meaning. -/
inductive Refusal where
  /-- The command has no meaning yet. Raised by the dispatch only. Safe. -/
  | notModelled (mnemonic : String)
  deriving DecidableEq, Repr

/-- The whole machine: a span of racks, its elements by number over the span. `epoch` is the epoch that is active in the span, `table` the route entries
as the rack controllers hold them by destination, `waits` the epoch changes that wait for the one that runs; `free` counts the
free values taken, `pending` the commands that wait, first in first out. -/
structure State where
  pkgs : SMap Package
  weirs : SMap Weir
  tcs : SMap TrayCtl
  rcs : SMap RackCtl
  epochChange : Option EpochChange
  waits : List (List Edit × After)
  epoch : Nat
  table : SMap Nat
  spanRacks : List Nat
  free : Nat
  pending : List Instr
  deriving DecidableEq, Repr

/-- The machine right after reset: every element at its reset value, a single rack, no command waiting (log 4). -/
def State.reset : State :=
  { pkgs := [], weirs := [], tcs := [], rcs := [], epochChange := none, waits := [], epoch := 0, table := [], spanRacks := [0], free := 0, pending := [] }

/-- Package `k` at reset: rack `k / 64`, slot `k % 64` (R15, R24; log 4). -/
def Package.reset (k : Nat) : Package := { base := { rack := k / 64, pos := k % 64 } }

/-- Weir `k` at reset: rack `k / 18`, plane `k % 18` (R16; log 4). -/
def Weir.reset (k : Nat) : Weir := { base := { isWeir := true, rack := k / 18, pos := k % 18 } }

end Sys2Proof.Machine
end

