-- ==== Sys2Proof/Machine/Ops.lean ====
section
/-! DEFINITION. Plain operations: maps, bit fields, byte order, memory, registers, and the frames a command acts in. -/

namespace Sys2Proof.Machine

/-! ## Maps with rising keys -/

/-- The entry of key `k`, if the map lists one. -/
def mfind (k : Nat) : SMap α → Option α
  | [] => none
  | (j, v) :: m => if j = k then some v else mfind k m

/-- The value of key `k`; `d` where the map lists none. -/
def mget (d : α) (m : SMap α) (k : Nat) : α := (mfind k m).getD d

/-- The map with `v` at key `k`, keys kept rising. -/
def mset (m : SMap α) (k : Nat) (v : α) : SMap α :=
  match m with
  | [] => [(k, v)]
  | (j, u) :: rest =>
    if k < j then (k, v) :: (j, u) :: rest
    else if k = j then (k, v) :: rest
    else (j, u) :: mset rest k v

/-- The map without key `k`. -/
def mdel (m : SMap α) (k : Nat) : SMap α := m.filter fun e => e.1 ≠ k

/-- The value of `k` changed by `f`, from `d` where the map lists none. -/
def mupd (d : α) (m : SMap α) (k : Nat) (f : α → α) : SMap α := mset m k (f (mget d m k))

/-- The keys rise strictly. -/
def keysRise : SMap α → Bool
  | [] => true
  | [_] => true
  | (j, _) :: (k, v) :: m => decide (j < k) && keysRise ((k, v) :: m)

/-- Element `i` of a list, `d` beyond its end. -/
def nth (d : α) (l : List α) (i : Nat) : α := (l[i]?).getD d

/-- The list with element `i` replaced; unchanged beyond its end. -/
def setNth (l : List α) (i : Nat) (v : α) : List α := l.set i v

/-! ## Bit fields and byte order (R8) -/

/-- Bits `hi` to `lo` of a number. -/
def fld (v hi lo : Nat) : Nat := v / 2 ^ lo % 2 ^ (hi + 1 - lo)

/-- Bit `i` of a number. -/
def bitOf (v i : Nat) : Bool := v / 2 ^ i % 2 = 1

/-- The number with bits `hi` to `lo` replaced by the low bits of `x`. -/
def setFld (v hi lo x : Nat) : Nat :=
  v / 2 ^ (hi + 1) * 2 ^ (hi + 1) + x % 2 ^ (hi + 1 - lo) * 2 ^ lo + v % 2 ^ lo

/-- The number with bit `i` set to `b`. -/
def setBit (v i : Nat) (b : Bool) : Nat := setFld v i i (if b then 1 else 0)

/-- A Bool as a bit. -/
def b2n (b : Bool) : Nat := if b then 1 else 0

/-- The mask of bits `hi` to `lo`. -/
def maskOf (hi lo : Nat) : Nat := (2 ^ (hi + 1 - lo) - 1) * 2 ^ lo

/-- `v` with the bits of mask `m` taken from `x`. -/
def mergeBits (v x m : Nat) : Nat := (v &&& (m ^^^ (v ||| x ||| m))) ||| (x &&& m)

/-- The bits set in a number, among bits 0 to `n` − 1, rising. -/
def bitList (v n : Nat) : List Nat := (List.range n).filter fun i => bitOf v i

/-- The number whose bits are those listed. -/
def ofBits (l : List Nat) : Nat := l.foldl (fun a i => a ||| 2 ^ i) 0

/-- How many bits are set among bits 0 to `n` − 1. -/
def popcount (v n : Nat) : Nat := (bitList v n).length

/-- The least and the greater of two numbers, and saturation. -/
def satAdd (limit a b : Nat) : Nat := min limit (a + b)

/-- A value of `n` bytes, little-endian (R8). -/
def le (n v : Nat) : Bytes :=
  match n with
  | 0 => []
  | k + 1 => BitVec.ofNat 8 v :: le k (v / 256)

/-- The number little-endian bytes spell (R8). -/
def ofLe : Bytes → Nat
  | [] => 0
  | b :: bs => b.toNat + 256 * ofLe bs

/-- The number in `n` bytes from byte `off`; absent bytes read as zero. -/
def fieldAt (b : Bytes) (off n : Nat) : Nat := ofLe ((b.drop off).take n)

/-- Byte `i`; zero beyond the end. -/
def byteAt (b : Bytes) (i : Nat) : Nat := fieldAt b i 1

/-- `n` zero bytes. -/
def zeros (n : Nat) : Bytes := List.replicate n 0

/-- A word from a number, modulo 2^32. -/
def w32 (v : Nat) : Word := BitVec.ofNat 32 v

/-- The words as bytes, little-endian. -/
def wordsToBytes (ws : List Word) : Bytes := ws.flatMap fun w => le 4 w.toNat

/-- The bytes as words, little-endian; a short last word is filled with zeros. -/
def bytesToWords (n : Nat) (b : Bytes) : List Word :=
  (List.range n).map fun i => w32 (fieldAt b (4 * i) 4)

/-- `a` lies after `b` in serial-number order of `n` bits (R47, R431; RFC 1982). -/
def serialGt (n a b : Nat) : Bool :=
  let d := (a + 2 ^ n - b % 2 ^ n) % 2 ^ n
  decide (d ≠ 0 ∧ d < 2 ^ (n - 1))

/-- The distance from `b` forward to `a`, modulo 2^n. -/
def serialDist (n a b : Nat) : Nat := (a + 2 ^ n - b % 2 ^ n) % 2 ^ n

/-- A signed number as `n` bits. -/
def toTwos (n : Nat) (i : Int) : Nat := (i % (2 ^ n : Nat)).toNat

/-- The signed number that `n` bits spell. -/
def ofTwos (n v : Nat) : Int := if v % 2 ^ n < 2 ^ (n - 1) then (v % 2 ^ n : Int) else (v % 2 ^ n : Int) - (2 ^ n : Nat)

/-- The least element of a list of numbers, `d` for none. -/
def leastOf (d : Nat) (l : List Nat) : Nat := l.foldl min d

/-! ## Memory: one canonical list of cells -/

/-- The byte at an address; one that nothing lists reads zero (R281, R282; log 8). -/
def memByte (m : Memory) (a : Nat) : Byte := (mfind a m).getD 0

/-- The memory with byte `b` at `a`; a zero byte takes the entry away. -/
def memSet (m : Memory) (a : Nat) (b : Byte) : Memory := if b = 0 then mdel m a else mset m a b

/-- `n` bytes from address `a`. -/
def memRead (m : Memory) (a n : Nat) : Bytes := (List.range n).map fun i => memByte m (a + i)

/-- The memory with the bytes written from address `a`. -/
def memWrite (m : Memory) (a : Nat) (b : Bytes) : Memory :=
  match b with
  | [] => m
  | x :: xs => memWrite (memSet m a x) (a + 1) xs

/-- The memory with `n` bytes from `a` made zero. -/
def memZero (m : Memory) (a n : Nat) : Memory := m.filter fun c => decide (c.1 < a ∨ a + n ≤ c.1)

/-- The canonical form: addresses rise strictly and no listed byte is zero. -/
def memWf (m : Memory) : Bool := keysRise m && m.all fun c => decide (c.2 ≠ 0)

/-! ## Frames a command acts in -/

/-- A result that only continues. -/
abbrev Res := Host.Outcome State Fault Refusal

/-- Package `k` of the span. -/
def pkgOf (s : State) (k : Nat) : Package := mget (Package.reset k) s.pkgs k

/-- Weir `k` of the span. -/
def weirOf (s : State) (k : Nat) : Weir := mget (Weir.reset k) s.weirs k

/-- Tray controller `k` of the span. -/
def tcOf (s : State) (k : Nat) : TrayCtl := mget {} s.tcs k

/-- Rack controller `k` of the span. -/
def rcOf (s : State) (k : Nat) : RackCtl := mget {} s.rcs k

/-- Package `k` replaced. -/
def setPkg (s : State) (k : Nat) (p : Package) : State := { s with pkgs := mset s.pkgs k p }

/-- Weir `k` replaced. -/
def setWeir (s : State) (k : Nat) (w : Weir) : State := { s with weirs := mset s.weirs k w }

/-- Tray controller `k` replaced. -/
def setTc (s : State) (k : Nat) (t : TrayCtl) : State := { s with tcs := mset s.tcs k t }

/-- Rack controller `k` replaced. -/
def setRc (s : State) (k : Nat) (r : RackCtl) : State := { s with rcs := mset s.rcs k r }

/-- A command of package `k` that moves no byte of its memory: the memory is carried over. -/
def onPkg (k : Nat) (f : Package → Package) (s : State) : Res :=
  .next (setPkg s k { f (pkgOf s k) with mem := (pkgOf s k).mem })

/-- A command of package `k` that may move bytes of its memory. -/
def onPkgMem (k : Nat) (f : Package → Package) (s : State) : Res := .next (setPkg s k (f (pkgOf s k)))

/-- A command of package `k` that uses open values: it takes the counter of free values and gives it on (log 7). -/
def onPkgFree (k : Nat) (f : Nat → Package → Package) (s : State) : Res :=
  .next { setPkg s k (f s.free (pkgOf s k)) with free := s.free + 1 }

/-- A command of Weir `k`. -/
def onWeir (k : Nat) (f : Weir → Weir) (s : State) : Res := .next (setWeir s k (f (weirOf s k)))

/-- A command of what package and Weir share, at element `e`; a package's memory is carried over. -/
def onElem (e : Elem) (fp : Package → Package) (fw : Weir → Weir) (s : State) : Res :=
  match e with
  | .pkg k => onPkg k fp s
  | .weir k => onWeir k fw s

/-- A command of tray controller `k`. -/
def onTc (k : Nat) (f : TrayCtl → TrayCtl) (s : State) : Res := .next (setTc s k (f (tcOf s k)))

/-- A command of rack controller `k`. -/
def onRc (k : Nat) (f : RackCtl → RackCtl) (s : State) : Res := .next (setRc s k (f (rcOf s k)))

end Sys2Proof.Machine
end

