-- ==== Sys2Proof/Machine/Crc.lean ====
section
/-! DEFINITION. The two cyclic redundancy checks: CRC-32 of IEEE 802.3 and CRC-16 of polynomial 0x1021 (R61, R184, R190,
R304, R381). -/

namespace Sys2Proof.Machine

/-- The reflected CRC-32 register takes bits in. -/
def crc32Shift : List Bool → Nat → Nat
  | [], r => r
  | d :: l, r => if bitOf r 0 = d then crc32Shift l (r / 2) else crc32Shift l (r / 2 ^^^ 0xEDB88320)

/-- CRC-32 of some bytes, each taken lowest bit first (IEEE 802.3). -/
def crc32 (b : Bytes) : Nat :=
  crc32Shift (b.flatMap fun x => (List.range 8).map fun i => bitOf x.toNat i) 0xFFFFFFFF ^^^ 0xFFFFFFFF

/-- The CRC-16 register takes bits in. -/
def crc16Shift : List Bool → Nat → Nat
  | [], r => r
  | d :: l, r => if bitOf r 15 = d then crc16Shift l (2 * r % 2 ^ 16) else crc16Shift l (2 * r % 2 ^ 16 ^^^ 0x1021)

/-- CRC-16 of some bytes, each taken highest bit first: polynomial 0x1021, initial value 0xFFFF. -/
def crc16 (b : Bytes) : Nat := crc16Shift (b.flatMap fun x => (List.range 8).map fun i => bitOf x.toNat (7 - i)) 0xFFFF

end Sys2Proof.Machine
end

