-- ==== Sys2Proof/Machine/RingNet.lean ====
section
/-! DEFINITION. The network inside a package: the eight rings, routes with their datelines, turns and virtual channels; and the ring stops,
which send packets as flits under credits and replay (R60–R63, R65, R67, R153–R160). -/

namespace Sys2Proof.Machine

/-! ## The rings (R65) -/

/-- The die at position `i` of ring `g`: rows 0–3, then columns 0–3 (R65). -/
def ringDie (g i : Nat) : Nat :=
  let r := g % 4
  if g < 4 then nth 0 [18, 4 * r, 4 * r + 2, 19, 4 * r + 3, 4 * r + 1] (i % 6)
  else nth 0 [16, r, 8 + r, 17, 12 + r, 4 + r] (i % 6)

/-- The port of the die at a position that faces the next or the previous one (R65; log 62). -/
def ringPort (g d : Nat) (next : Bool) : Nat :=
  let side := if next then 0 else 1
  if 16 ≤ d then 2 * (g % 4) + side else if g < 4 then side else 2 + side

/-- The position of a die on a ring. -/
def ringPos (g d : Nat) : Option Nat := (List.range 6).find? fun i => decide (ringDie g i = d)

/-- The two ends of die link `n`: the link from position n mod 6 of ring n / 6 to the next position. -/
def linkEnds (n : Nat) : List (Nat × Nat) :=
  let g := n / 6
  let d := ringDie g (n % 6)
  let d' := ringDie g (n % 6 + 1)
  [(d, ringPort g d true), (d', ringPort g d' false)]

/-- The other end of the die link at a port of a die. -/
def linkPeer (d q : Nat) : Option (Nat × Nat) :=
  ((List.range 48).find? fun n => (linkEnds n).contains (d, q)).bind fun n => (linkEnds n).find? fun e => decide (e ≠ (d, q))

/-! ## Routes (R67, R153, R156–R160) -/

/-- One hop of an in-package route: the die and port it leaves, where it arrives, and its VC. -/
structure RingHop where
  die : Nat
  port : Nat
  next : Nat
  nextPort : Nat
  vc : Nat
  deriving DecidableEq, Repr

/-- `n` hops of a leg on ring `g` from position `i`, in one direction: DL is 0 until the leg crosses the link between positions 5 and 0,
and 1 from that hop on (R153, R156; log 169). -/
def ringWalk (cls g : Nat) (plus : Bool) : Bool → Nat → Nat → List RingHop
  | _, 0, _ => []
  | dl, n + 1, i =>
    let j := if plus then (i + 1) % 6 else (i + 5) % 6
    let dl := dl || decide (if plus then i = 5 else i = 0)
    let a := ringDie g i
    let b := ringDie g j
    { die := a, port := ringPort g a plus, next := b, nextPort := ringPort g b (!plus), vc := 2 * cls + b2n dl }
      :: ringWalk cls g plus dl n j

/-- A leg on a ring from one of its dies to another: the shorter way round, + where both are equal (R157). -/
def ringLeg (cls g a b : Nat) : List RingHop :=
  match ringPos g a, ringPos g b with
  | some i, some j =>
    let d := (j + 6 - i) % 6
    if d ≤ 3 then ringWalk cls g true false d i else ringWalk cls g false false (6 - d) i
  | _, _ => []

/-- The turn tile between link die `l` and memory die `m`, by bits [12:11] of the exposed DRAM offset (R159). -/
def turnTile (l m off : Nat) : Nat :=
  let col := (if m = 19 then 2 else 0) + fld off 11 11
  let row := if l = 16 then fld off 12 12 else 3 - fld off 12 12
  4 * row + col

/-- The legs of a route: the ring, and the dies it leaves and reaches on it (R157, R159). -/
def ringLegs (cls src dst off : Nat) : List (Nat × Nat × Nat) :=
  if src = dst then []
  else if src < 16 ∧ dst < 16 then
    if src / 4 = dst / 4 then [(src / 4, src, dst)]
    else if src % 4 = dst % 4 then [(4 + src % 4, src, dst)]
    else if cls = 1 then
      let t := 4 * (src / 4) + dst % 4
      [(src / 4, src, t), (4 + dst % 4, t, dst)]
    else
      let t := 4 * (dst / 4) + src % 4
      [(4 + src % 4, src, t), (dst / 4, t, dst)]
  else if src < 16 then (if dst < 18 then [(4 + src % 4, src, dst)] else [(src / 4, src, dst)])
  else if dst < 16 then (if src < 18 then [(4 + dst % 4, src, dst)] else [(dst / 4, src, dst)])
  else if src < 18 ∧ dst < 18 then [(4, src, dst)]
  else if 18 ≤ src ∧ 18 ≤ dst then [(0, src, dst)]
  else if src < 18 then
    let t := turnTile src dst off
    [(4 + t % 4, src, t), (t / 4, t, dst)]
  else
    let t := turnTile dst src off
    [(t / 4, src, t), (4 + t % 4, t, dst)]

/-- The class whose VCs a leg uses: a management packet from a memory die to a link die takes its column leg on the response VCs
(R158). -/
def legClass (cls src dst g : Nat) : Nat := if cls = 3 ∧ 18 ≤ src ∧ 16 ≤ dst ∧ dst < 18 ∧ 4 ≤ g then 1 else cls

/-- The route of a packet of a class from die to die; `off` is the exposed DRAM offset it carries (R157–R160). -/
def ringRoute (cls src dst off : Nat) : List RingHop :=
  (ringLegs cls src dst off).flatMap fun l => ringLeg (legClass cls src dst l.1) l.1 l.2.1 l.2.2

/-- The hop of a route that leaves a die. -/
def hopFrom (d : Nat) (route : List RingHop) : Option RingHop := route.find? fun h => decide (h.die = d)

/-! ## Packets on the rings -/

/-- An in-package packet as the model lays it out: class, destination, source, offset bits [12:11], its length, then what it carries
(log 170). -/
def ringPacket (cls src dst off : Nat) (body : Bytes) : Bytes :=
  le 1 cls ++ le 1 dst ++ le 1 src ++ le 1 (fld off 12 11) ++ le 2 (8 + body.length) ++ zeros 2 ++ body

/-- Its length, and its route. -/
def ringLen (b : Bytes) : Nat := fieldAt b 4 2
def ringRouteOf (b : Bytes) : List RingHop := ringRoute (byteAt b 0) (byteAt b 2) (byteAt b 1) (byteAt b 3 * 2 ^ 11)

/-! ## Ports of die links (R60–R63, R155) -/

/-- A die has this many die-link ports: four on a tile, eight on an edge die (R65). -/
def diePorts (d : Nat) : Nat := if d < 16 then 4 else if d < 20 then 8 else 0

/-- The end of a die link at a port of a die, and it replaced. -/
def Package.link (p : Package) (d q : Nat) : DiePort := mget {} p.dies.links (8 * d + q)
def Package.setLink (p : Package) (d q : Nat) (x : DiePort) : Package :=
  { p with dies := { p.dies with links := mset p.dies.links (8 * d + q) x } }

/-- The active modules of a port, in ascending number: not fenced, and not out of the rotation for a repair at either end (R61, R63). -/
def DiePort.active (x : DiePort) : List Nat := (bitList x.modules 4).filter fun m => !bitOf x.fenced m && !x.out.contains m

/-- The data bytes of a flit over the active modules: 62 of each slice, less the header (R61). -/
def DiePort.room (x : DiePort) : Nat := 62 * x.active.length - 4

/-- The slices of a flit, one for each active module, each with its CRC (R61). -/
def DiePort.slices (x : DiePort) (seq : Nat) (f : FlitItem) : List Bytes :=
  let head := le 4 (seq + (x.rxSeq + 255) % 256 * 2 ^ 8 + b2n x.rxSome * 2 ^ 16 + f.vc * 2 ^ 17 + f.type * 2 ^ 20 + f.credits * 2 ^ 24)
  let bytes := (head ++ f.data ++ zeros (62 * x.active.length)).take (62 * x.active.length)
  (List.range x.active.length).map fun k =>
    let s := (bytes.drop (62 * k)).take 62
    s ++ le 2 (crc16 s)

/-- A flit that takes a SEQ leaves, and stays in the replay buffer (R61, R62). -/
def DiePort.emit (x : DiePort) (f : FlitItem) : DiePort :=
  { x with txSeq := (x.txSeq + 1) % 256, replay := x.replay ++ [(x.txSeq, f)], sent := x.sent ++ [x.slices x.txSeq f] }

/-- A replay request leaves: TYPE 2 with the last SEQ in order; it takes no SEQ of its own (R62; log 171). -/
def DiePort.ask (x : DiePort) : DiePort := { x with asked := true, sent := x.sent ++ [x.slices x.txSeq { type := 2 }] }

/-- The pieces of some bytes, each of at most `n`; `fuel` bounds their number. -/
def pieces (n : Nat) : Nat → Bytes → List Bytes
  | 0, _ => []
  | fuel + 1, b => if b.length ≤ n then [b] else b.take n :: pieces n fuel (b.drop n)

/-- Flits up to SEQ `ack` leave the replay buffer (R62). -/
def DiePort.acked (x : DiePort) (ack : Nat) : DiePort :=
  { x with replay := x.replay.filter fun e => serialGt 8 e.1 ack }

/-- A flit as it is sent again: where fewer modules are left than carried it, its data are split over more flits (R62, R63; log 171). -/
def DiePort.resplit (x : DiePort) (f : FlitItem) : List FlitItem :=
  match pieces x.room f.data.length f.data with
  | [] => [f]
  | b :: bs => { f with data := b } :: bs.map fun b => { f with credits := 0, data := b }

/-- A replay request: what follows ACK is sent again in order, from the SEQ after it (R62). -/
def DiePort.replayFrom (x : DiePort) (ack : Nat) : DiePort :=
  let y := x.acked ack
  if y.active.isEmpty then y
  else (y.replay.flatMap fun e => y.resplit e.2).foldl DiePort.emit
    { y with replay := [], txSeq := match y.replay with
      | e :: _ => e.1
      | [] => y.txSeq }

/-! ## Ring stops (R154, R155) -/

/-- Credits of a packet's bytes (R155). -/
def ringCredits (b : Bytes) : Nat := (b.length + 63) / 64

/-- The first packet of a VC's queue may start: it has its credits, and its flits stay within 64 unacknowledged ones (R62, R155). -/
def DiePort.vcReady (x : DiePort) (v : Nat) : Bool :=
  match mget [] x.queue v with
  | [] => false
  | e :: _ => decide (ringCredits e.1 ≤ mget 0 x.credits v ∧ x.replay.length + (e.1.length + x.room - 1) / x.room ≤ 64)

/-- The VC whose packet goes next: management first, the others in turn (R154). -/
def DiePort.nextVc (x : DiePort) : Option Nat :=
  ([6, 7] ++ (List.range 6).map fun i => (x.lastVc + 1 + i) % 6).find? x.vcReady

/-- One turn of a port of a ring stop: a credit-only flit for what it owes, or else one packet; its place in the buffer of the port it
came by is then owed there (R154, R155). None where nothing may go. -/
def stopTurn (p : Package) (d q : Nat) : Option Package :=
  let x := p.link d q
  if x.active.isEmpty ∨ 64 ≤ x.replay.length then none
  else
    match x.owed.find? fun e => decide (e.2 ≠ 0) with
    | some (v, n) =>
      let k := min 255 n
      some (p.setLink d q { x.emit { type := 3, vc := v, credits := k } with owed := mset x.owed v (n - k) })
    | none =>
      match x.nextVc with
      | none => none
      | some v =>
        match mget [] x.queue v with
        | [] => none
        | (b, from') :: rest =>
          let y := (pieces x.room b.length b).foldl (fun x c => x.emit { type := 1, vc := v, data := c }) x
          let p := p.setLink d q { y with
            queue := mset x.queue v rest, credits := mset x.credits v (mget 0 x.credits v - ringCredits b)
            lastVc := if v < 6 then v else x.lastVc }
          some (match from' with
            | none => p
            | some (i, u) =>
              let z := p.link d i
              p.setLink d i { z with owed := mupd 0 z.owed u (· + ringCredits b) })

/-- What a die's ring stop has to send: packets and credits, an upper bound of its turns. -/
def stopWork (p : Package) (d : Nat) : Nat :=
  ((List.range (diePorts d)).map fun q =>
    let x := p.link d q
    (x.queue.map fun e => 2 * e.2.length).sum + (x.owed.map fun e => e.2 + 1).sum + 1).sum

/-- The ports of a die's ring stop send while they may. -/
def pumpStop (d : Nat) : Nat → Package → Package
  | 0, p => p
  | n + 1, p =>
    match (List.range (diePorts d)).findSome? (stopTurn p d) with
    | some p => pumpStop d n p
    | none => p

/-- The same, for as many turns as there is work. -/
def pump (p : Package) (d : Nat) : Package := pumpStop d (stopWork p d) p

/-- A packet joins the queue of its next hop at die `d`; `from'` is the input port and VC whose buffer it still holds. False where its
route leaves no more, so that this is its destination. -/
def ringQueue (p : Package) (d : Nat) (b : Bytes) (from' : Option (Nat × Nat)) : Package × Bool :=
  match hopFrom d (ringRouteOf b) with
  | none => (p, false)
  | some h =>
    let x := p.link d h.port
    (p.setLink d h.port { x with queue := mupd [] x.queue h.vc (· ++ [(b, from')]) }, true)

end Sys2Proof.Machine
end

