-- ==== Sys2Proof/Machine/Codewords.lean ====
section
/-! DEFINITION. The codewords of a fabric port: framing bits, scrambler, Reed–Solomon parity and lanes (R183). The order of bits
in a symbol and the code's field and roots, which R183 takes from IEEE 802.3 Clause 119, are log 157's. -/

namespace Sys2Proof.Machine

/-- The 20 framing bits of codeword `n`: the counter in [15:0], the marker 0b1010 in [19:16] (R183). -/
def framingBits (n : Nat) : Nat := n % 2 ^ 16 + 0xA * 2 ^ 16

/-- The low `n` bits of a number, lowest first. -/
def bitsOf : Nat → Nat → List Bool
  | 0, _ => []
  | n + 1, v => (v % 2 = 1) :: bitsOf n (v / 2)

/-- The number whose bits these are, lowest first. -/
def ofBools : List Bool → Nat
  | [] => 0
  | b :: l => b2n b + 2 * ofBools l

/-- The 5,140 message bits of codeword `n`: the frame's 640 bytes, then the framing bits (R183; log 186). -/
def messageBits (frame : Bytes) (n : Nat) : List Bool := bitsOf 5120 (ofLe frame) ++ bitsOf 20 (framingBits n)

/-- The bit that the scrambler x^58 + x^39 + 1 adds: of the last 58 scrambled bits, newest in bit 0, those 39 and 58 back. -/
def scrambleBit (r : Nat) : Bool := (bitOf r 38).xor (bitOf r 57)

/-- The scrambler's 58 bits once another scrambled bit has passed. -/
def scrambleNext (r : Nat) (s : Bool) : Nat := (2 * r + b2n s) % 2 ^ 58

/-- Bits as they leave the self-synchronous scrambler (R183). -/
def scramble : Nat → List Bool → List Bool
  | _, [] => []
  | r, d :: l => let s := d.xor (scrambleBit r); s :: scramble (scrambleNext r s) l

/-- What the receiver's descrambler makes of them (R183). -/
def descramble : Nat → List Bool → List Bool
  | _, [] => []
  | r, s :: l => s.xor (scrambleBit r) :: descramble (scrambleNext r s) l

/-- The scrambler's bits after some scrambled bits. -/
def scramblerAfter (r : Nat) (l : List Bool) : Nat := l.foldl scrambleNext r

/-- Twice an element of GF(2^10), whose polynomial is x^10 + x^3 + 1. -/
def gfDouble (a : Nat) : Nat := if 512 ≤ a then (2 * a % 1024) ^^^ 9 else 2 * a

/-- A product in GF(2^10), by the `n` low bits of `b`. -/
def gfMul : Nat → Nat → Nat → Nat
  | 0, _, _ => 0
  | n + 1, a, b => (if b % 2 = 1 then a else 0) ^^^ gfMul n (gfDouble a) (b / 2)

/-- Coefficients below the leading one, highest first, of the product of (x − α^j) for the `n` lowest j. -/
def rsGenerator : Nat → List Nat
  | 0 => []
  | n + 1 =>
    let g := rsGenerator n
    let root := (List.range n).foldl (fun a _ => gfDouble a) 1
    List.zipWith (fun a b => a ^^^ b) (g ++ [0]) (((1 :: g).map fun c => gfMul 10 c root))

/-- One message symbol enters the division by the generator. -/
def rsStep (g r : List Nat) (m : Nat) : List Nat :=
  let f := m ^^^ r.headD 0
  List.zipWith (fun a c => a ^^^ gfMul 10 f c) (r.tail ++ [0]) g

/-- The 30 parity symbols of 514 message symbols (R183). -/
def rsParity (msg : List Nat) : List Nat := msg.foldl (rsStep (rsGenerator 30)) (List.replicate 30 0)

/-- Ten-bit symbols of bits, the first bit lowest. -/
def symbolsOf : Nat → List Bool → List Nat
  | 0, _ => []
  | n + 1, l => ofBools (l.take 10) :: symbolsOf n (l.drop 10)

/-- Codeword `n` of a frame: 514 scrambled message symbols and 30 of parity (R183). -/
def codeword (r n : Nat) (frame : Bytes) : List Nat :=
  let msg := symbolsOf 514 (scramble r (messageBits frame n))
  msg ++ rsParity msg

/-- The lane that symbol `i` travels on (R183). -/
def laneOf (i : Nat) : Nat := i % 4

/-- The symbols of a codeword that lane `l` carries, in order. -/
def laneSymbols (cw : List Nat) (l : Nat) : List Nat :=
  (List.range cw.length).filterMap fun i => if laneOf i = l then cw[i]? else none

/-- Errors in at most 15 of the 544 symbols are corrected: half of the 30 of parity (R183). -/
def correctableErrors (n : Nat) : Bool := decide (n ≤ 15)

end Sys2Proof.Machine
end

