-- ==== Sys2Proof/Machine/Numeric.lean ====
section
/-! DEFINITION. Number formats and exact arithmetic: decoding, rounding to nearest even, exact sums and products, and the
element-wise functions of the vector units (R102, R104–R107). -/

namespace Sys2Proof.Machine

/-- An exact number: NaN, a signed infinity, or ± m × 2^e (a zero keeps its sign). -/
inductive Val where
  | nan
  | inf (neg : Bool)
  | fin (neg : Bool) (m : Nat) (e : Int)
  deriving DecidableEq, Repr

/-- A floating format: exponent bits, mantissa bits, bias, and whether it has infinities (R105). -/
structure FloatFmt where
  ebits : Nat
  mbits : Nat
  bias : Nat
  hasInf : Bool
  nan : Nat
  deriving DecidableEq, Repr

/-- FP32, BF16, FP16, E4M3 and E5M2 (R105). -/
def fp32 : FloatFmt := ⟨8, 23, 127, true, 0x7FC00000⟩
def bf16 : FloatFmt := ⟨8, 7, 127, true, 0x7FC0⟩
def fp16 : FloatFmt := ⟨5, 10, 15, true, 0x7E00⟩
def e4m3 : FloatFmt := ⟨4, 3, 7, false, 0x7F⟩
def e5m2 : FloatFmt := ⟨5, 2, 15, true, 0x7E⟩

/-- The floating format of a code: that of the elements, for MXFP8 (R105). -/
def floatOf : Nat → Option FloatFmt
  | 0 => some fp32
  | 1 => some bf16
  | 2 => some fp16
  | 3 => some e4m3
  | 4 => some e5m2
  | 5 => some e4m3
  | 6 => some e5m2
  | _ => none

/-- A block format: 32 elements share an E8M0 scale (R105, R107). -/
def isBlock (code : Nat) : Bool := code = 5 || code = 6 || code = 7 || code = 9

/-- The format code is reserved (R105). -/
def fmtReserved (code : Nat) : Bool := decide (10 < code)

/-- Bits of one element (R105, R107). -/
def fmtBits (code : Nat) : Nat :=
  match code with
  | 0 => 32 | 1 => 16 | 2 => 16 | 9 => 4 | 10 => 32 | _ => 8

/-- Bytes of `n` elements. -/
def fmtLen (code n : Nat) : Nat := (fmtBits code * n + 7) / 8

/-- The alignment of an operand's start: its element size, 1 for the block formats (R100). -/
def fmtAlign (code : Nat) : Nat := if isBlock code then 1 else fmtBits code / 8

/-- A float's value from its bits (R105, R106): subnormals are read as they are. -/
def FloatFmt.decode (f : FloatFmt) (v : Nat) : Val :=
  let neg := decide (v / 2 ^ (f.ebits + f.mbits) % 2 = 1)
  let ex := v / 2 ^ f.mbits % 2 ^ f.ebits
  let man := v % 2 ^ f.mbits
  if f.hasInf && ex = 2 ^ f.ebits - 1 then (if man = 0 then .inf neg else .nan)
  else if !f.hasInf && ex = 2 ^ f.ebits - 1 && man = 2 ^ f.mbits - 1 then .nan
  else if ex = 0 then .fin neg man (1 - (f.bias : Int) - f.mbits)
  else .fin neg (2 ^ f.mbits + man) ((ex : Int) - f.bias - f.mbits)

/-- A signed integer as an exact number times 2^e. -/
def ofInt (i : Int) (e : Int) : Val := .fin (decide (i < 0)) i.natAbs e

/-- The signed integer of `n` bits. -/
def twos (n v : Nat) : Int := if v % 2 ^ n < 2 ^ (n - 1) then (v % 2 ^ n : Nat) else (v % 2 ^ n : Nat) - (2 ^ n : Nat)

/-- One element's value before its block scale (R105, R107). -/
def decodeElem (code raw : Nat) : Val :=
  match floatOf code with
  | some f => f.decode raw
  | none =>
    match code with
    | 7 => ofInt (twos 8 raw) (-6)
    | 8 => ofInt (twos 8 raw) 0
    | 9 => ofInt (twos 4 raw) 0
    | _ => ofInt (twos 32 raw) 0

/-- A value times the power of two of an E8M0 scale byte; 0xFF makes it NaN (R107). -/
def scaleBy (scale : Nat) (v : Val) : Val :=
  if scale = 0xFF then .nan
  else match v with
    | .fin n m e => .fin n m (e + scale - 127)
    | x => x

/-- m × 2^(−d) rounded to nearest, ties to even. -/
def rneShift (m d : Nat) : Nat :=
  let q := m / 2 ^ d
  let r := m % 2 ^ d
  if 2 * r < 2 ^ d then q else if 2 ^ d < 2 * r then q + 1 else if q % 2 = 0 then q else q + 1

/-- m × 2^e in units of 2^q, rounded to nearest even. -/
def rneAt (m : Nat) (e q : Int) : Nat := if q ≤ e then m * 2 ^ (e - q).toNat else rneShift m (q - e).toNat

/-- A value rounded once into a floating format (R106). -/
def FloatFmt.encode (f : FloatFmt) (v : Val) : Nat :=
  let sign := fun (n : Bool) => if n then 2 ^ (f.ebits + f.mbits) else 0
  match v with
  | .nan => f.nan
  | .inf n => if f.hasInf then sign n + (2 ^ f.ebits - 1) * 2 ^ f.mbits else f.nan
  | .fin n m e =>
    if m = 0 then sign n
    else
      let emin : Int := 1 - (f.bias : Int)
      let top : Int := e + Nat.log2 m
      let q : Int := (if top < emin then emin else top) - f.mbits
      let r := rneAt m e q
      -- the rounded magnitude as an encoding: a carry out of the mantissa moves into the exponent by itself
      let mag := if r < 2 ^ f.mbits then r else ((q + f.mbits + f.bias).toNat - 1) * 2 ^ f.mbits + r
      let limit := if f.hasInf then (2 ^ f.ebits - 1) * 2 ^ f.mbits else 2 ^ (f.ebits + f.mbits) - 2
      sign n + min mag limit

/-- A value rounded to an integer of `n` bits, two's complement; the second value says that it saturated (R106). -/
def encodeInt (n : Nat) (v : Val) : Nat × Bool :=
  let hi : Int := 2 ^ (n - 1) - 1
  let lo : Int := -(2 ^ (n - 1))
  match v with
  | .nan => (0, false)
  | .inf neg => ((if neg then lo else hi) % (2 ^ n : Int) |>.toNat, true)
  | .fin neg m e =>
    let r : Int := rneAt m e 0
    let i := if neg then -r else r
    if hi < i then ((hi % (2 ^ n : Int)).toNat, true)
    else if i < lo then ((lo % (2 ^ n : Int)).toNat, true)
    else ((i % (2 ^ n : Int)).toNat, false)

/-- A value converted to a format code: its bits, and whether it saturated (R106). -/
def encodeElem (code : Nat) (v : Val) : Nat × Bool :=
  match floatOf code with
  | some f => (f.encode v, false)
  | none => if code = 10 then encodeInt 32 v else encodeInt 8 v

/-- Negation, the sign, and the value without it. -/
def Val.neg : Val → Val
  | .nan => .nan
  | .inf n => .inf !n
  | .fin n m e => .fin (!n) m e
def Val.abs : Val → Val
  | .nan => .nan
  | .inf _ => .inf false
  | .fin _ m e => .fin false m e
def Val.isNeg : Val → Bool
  | .nan => false
  | .inf n => n
  | .fin n _ _ => n

/-- The exact product; ∞ × 0 is NaN (R102). -/
def Val.mul : Val → Val → Val
  | .nan, _ => .nan
  | _, .nan => .nan
  | .inf a, .inf b => .inf (a != b)
  | .inf a, .fin b m _ => if m = 0 then .nan else .inf (a != b)
  | .fin a m _, .inf b => if m = 0 then .nan else .inf (a != b)
  | .fin a m e, .fin b k f => .fin (a != b) (m * k) (e + f)

/-- The exact sum of terms, with the NaN, infinity and signed-zero rules of R102. -/
def sumExact (ts : List Val) : Val :=
  if ts.any fun t => t = .nan then .nan
  else
    let pos := ts.any fun t => t = .inf false
    let neg := ts.any fun t => t = .inf true
    if pos && neg then .nan
    else if pos then .inf false
    else if neg then .inf true
    else
      let emin := ts.foldl (fun a t => match t with | .fin _ _ e => if e < a then e else a | _ => a) (0 : Int)
      let total := ts.foldl (fun (a : Int) t => match t with
        | .fin n m e => let x : Int := (m * 2 ^ (e - emin).toNat : Nat); if n then a - x else a + x
        | _ => a) 0
      if total = 0 then .fin (!ts.isEmpty && ts.all fun t => match t with | .fin n m _ => n && m = 0 | _ => false) 0 0
      else .fin (decide (total < 0)) total.natAbs emin

/-- A value rounded to FP32 and read back: the arithmetic of the vector units and of an accumulator (R102, R104). -/
def roundFp32 (v : Val) : Val := fp32.decode (fp32.encode v)

/-- −2^31 to 2^31 − 1, saturating: the INT8 path's accumulator, and whether it saturated (R102). -/
def satAdd32 (a b : Int) : Int × Bool :=
  let s := a + b
  if (2 ^ 31 - 1 : Int) < s then (2 ^ 31 - 1, true) else if s < -(2 ^ 31 : Int) then (-(2 ^ 31), true) else (s, false)

/-- An exact integer of a value without fraction. -/
def Val.toInt : Val → Int
  | .fin n m e => let x : Int := if 0 ≤ e then (m * 2 ^ e.toNat : Nat) else (m / 2 ^ (-e).toNat : Nat); if n then -x else x
  | _ => 0

/-- x lies below y, among values that are not NaN; −0 lies below +0 (R104). -/
def Val.lt (x y : Val) : Bool :=
  match x, y with
  | .inf a, .inf b => a && !b
  | .inf a, _ => a
  | _, .inf b => !b
  | .fin a m e, .fin b k f =>
    let emin := if e < f then e else f
    let i : Int := (m * 2 ^ (e - emin).toNat : Nat)
    let j : Int := (k * 2 ^ (f - emin).toNat : Nat)
    let u := if a then -i else i
    let v := if b then -j else j
    if u = v then m = 0 && a && !b else decide (u < v)
  | _, _ => false

/-- MAX and MIN; NaN where either input is NaN (R104). -/
def Val.max (x y : Val) : Val := if x = .nan ∨ y = .nan then .nan else if x.lt y then y else x
def Val.min (x y : Val) : Val := if x = .nan ∨ y = .nan then .nan else if y.lt x then y else x

/-! ## EXP, RECIP and RSQRT (R104): the FP32 value next to the exact result, moved by the open offset of log 7 -/

/-- 1 ÷ (m × 2^e), with a sticky bit below far more bits than FP32 holds. -/
def recipVal (m : Nat) (e : Int) : Val :=
  let k := Nat.log2 m + 64
  let q := 2 ^ k / m
  .fin false (2 * q + (if 2 ^ k % m = 0 then 0 else 1)) (-(k : Int) - 1 - e)

/-- The largest r with r × r ≤ n, by `fuel` bits from the top. -/
def sqrtAux (n : Nat) : Nat → Nat → Nat
  | 0, r => r
  | k + 1, r => sqrtAux n k (if (r + 2 ^ k) * (r + 2 ^ k) ≤ n then r + 2 ^ k else r)

/-- 1 ÷ √(m × 2^e), with a sticky bit. -/
def rsqrtVal (m : Nat) (e : Int) : Val :=
  -- an even exponent first: m × 2^e = m' × 2^(2h)
  let m' := if e % 2 = 0 then m else 2 * m
  let h := (if e % 2 = 0 then e else e - 1) / 2
  let n := 2 ^ 256 / m'
  let r := sqrtAux n 129 0
  .fin false (2 * r + (if r * r = n ∧ 2 ^ 256 % m' = 0 then 0 else 1)) (-129 - h)

/-- A fixed-point product with 256 fraction bits. -/
def fixMul (a b : Int) : Int := a * b / 2 ^ 256

/-- The Taylor sum of e^y for a small fixed-point y: terms y^i ÷ i!. -/
def expTaylor (y : Int) : Nat → Nat → Int → Int → Int
  | 0, _, _, acc => acc
  | k + 1, i, term, acc => let t := fixMul term y / (i : Int); expTaylor y k (i + 1) t (acc + t)

/-- `n` squarings of a fixed-point number. -/
def fixSquare : Nat → Int → Int
  | 0, x => x
  | n + 1, x => fixSquare n (fixMul x x)

/-- e^x for a value between −128 and 128: the Taylor sum of x ÷ 1,024, squared ten times. -/
def expVal (neg : Bool) (m : Nat) (e : Int) : Val :=
  let a : Int := (if 0 ≤ e + 246 then (m * 2 ^ (e + 246).toNat : Nat) else (m / 2 ^ (-(e + 246)).toNat : Nat))
  let y := if neg then -a else a
  .fin false (fixSquare 10 (expTaylor y 40 1 (2 ^ 256) (2 ^ 256))).toNat (-256)

/-- Two units in the last place of an exact value, in FP32 (R104). -/
def twoUlp : Val → Val
  | .fin _ m e => .fin false 2 ((if m = 0 then -126 else max (-126) (e + Nat.log2 m)) - 23)
  | v => v

/-- An FP32 value lies within 2 units in the last place of an exact one; an infinity does where the exact value lies that near to the
first magnitude beyond FP32 (R104, R106). -/
def nearEnough (w v : Val) : Bool :=
  match w with
  | .nan => false
  | .inf n => n == v.isNeg && !(sumExact [v.abs, twoUlp v]).lt (.fin false 1 128)
  | .fin n _ _ => n == v.isNeg && !(twoUlp v).lt (sumExact [w, v.neg]).abs

/-- The result of the fixed algorithm for an exact value: the open bits where they lie near enough, else the nearest FP32 value
(R104; log 7). -/
def nearVal (sub x : Nat) (v : Val) : Val :=
  let w := fp32.decode (Config.transcendBits sub (BitVec.ofNat 32 x)).toNat
  if nearEnough w v then w else roundFp32 v

/-- EXP, RECIP and RSQRT of an FP32 operand (sub-operations 5, 6, 7). NaN stays NaN; e^∞ and 1 ÷ 0 are infinite, e^(−∞) and 1 ÷ ∞ are
zero, with the sign IEEE 754 gives them (log 160); the square root of a negative number has no stated result and is open. -/
def transcend (sub x : Nat) : Val :=
  match fp32.decode x with
  | .fin neg m e =>
    if sub = 5 then
      if m = 0 then nearVal sub x (.fin false 1 0)
      else if (Val.fin false m e).lt (.fin false 120 0) then nearVal sub x (expVal neg m e)
      else if neg then nearVal sub x (.fin false 1 (-173))
      else .inf false
    else if m = 0 then .inf neg
    else if sub = 6 then nearVal sub x (if neg then (recipVal m e).neg else recipVal m e)
    else if neg then fp32.decode (Config.specialResult sub (BitVec.ofNat 32 x)).toNat
    else nearVal sub x (rsqrtVal m e)
  | .nan => .nan
  | .inf neg =>
    if sub = 5 then (if neg then .fin false 0 0 else .inf false)
    else if sub = 6 then .fin neg 0 0
    else if neg then fp32.decode (Config.specialResult sub (BitVec.ofNat 32 x)).toNat
    else .fin false 0 0

end Sys2Proof.Machine
end

