-- ==== Sys2Proof/Machine/RegTable.lean ====
section
/-! DEFINITION. The register tables of control space: each page kind's registers and fields with access and reset codes,
as the chapters' tables give them (R11, R13, R37), and the pages' identities (R32, R36). -/

namespace Sys2Proof.Machine

/-- Access codes (R11). `rwMsp` and `w1sMsp` store only what the MSP CS window writes (R350, R400, R461). -/
inductive Acc where
  | rw | ro | w1c | w1s | wo | rwl | rwMsp | w1sMsp
  deriving DecidableEq, Repr

/-- Reset codes (R13). `lock` is that of PAGE_CTRL.LOCK: K on some classes, W on the others (R40). -/
inductive RCode where
  | p | w | k | e | lock | none
  deriving DecidableEq, Repr

/-- One field: bits `hi` to `lo`, access, reset code and value, and whether it is quiesce-only (R53). -/
structure RField where
  hi : Nat
  lo : Nat
  acc : Acc
  code : RCode
  val : Nat
  quiesce : Bool := false
  deriving DecidableEq, Repr

/-- One 32-bit register, or `n` of them `stride` bytes apart, from page offset `off`. -/
structure RegRow where
  off : Nat
  n : Nat
  stride : Nat
  fields : List RField
  deriving DecidableEq, Repr

/-- The kinds of page (R32, R36). -/
inductive PKind where
  | hub0 | hubRsv | linkRsv0 | linkRsv | tile0 | tile1 | tile2 | tile8 | tile9 | mem0 | memStack | memRsv | pegs | route0 | routeTab | routeRsv | link1 | port | mgmt | rma | conn | grp | tile4 | tile5 | ember | kindle | fuse0 | fuse3 | ltile | tile3 | pf | vf | hifRsv | power | diePwr | fuse2 | hubMgmt | hubRing | hubSeal | fuse1 | debug
  deriving DecidableEq, Repr

/-- The common page header (R37, R38). EVT_EN.BLOCK_EN resets as the page kind says (`PKind.evtEnReset`). PAGE_VER.MINOR, for which the
manual states no value, reads 0 on every page (DESIGN CHOICE, log 175). -/
def hdrRows : List RegRow :=
  [
   -- PAGE_ID (R38): CLASS, INSTANCE, BLOCK_TYPE
   ⟨0x000, 1, 0x4, [⟨5, 0, .ro, .p, 0, false⟩, ⟨13, 6, .ro, .p, 0, false⟩, ⟨23, 14, .ro, .p, 0, false⟩]⟩,
   -- PAGE_VER (R38): MINOR, MAJOR
   ⟨0x004, 1, 0x4, [⟨7, 0, .ro, .p, 0, false⟩, ⟨15, 8, .ro, .p, 1, false⟩]⟩,
   -- PAGE_CTRL (R40): ENABLE, FREEZE, LOCK
   ⟨0x008, 1, 0x4, [⟨0, 0, .rw, .k, 0, false⟩, ⟨1, 1, .rw, .k, 0, false⟩, ⟨2, 2, .w1s, .lock, 0, false⟩]⟩,
   -- PAGE_STAT (R41): BUSY, DRAINED, FENCED, STRIKING, HOLLOW
   ⟨0x00C, 1, 0x4, [⟨0, 0, .ro, .k, 0, false⟩, ⟨1, 1, .ro, .k, 1, false⟩, ⟨2, 2, .ro, .k, 0, false⟩, ⟨3, 3, .ro, .k, 0, false⟩, ⟨4, 4, .ro, .w, 0, false⟩]⟩,
   -- EVT_STAT (R42): BLOCK_EVT, CFG_REFUSED, CROSS_PITCH, CAPT_LOST
   ⟨0x010, 1, 0x4, [⟨23, 0, .w1c, .k, 0, false⟩, ⟨24, 24, .w1c, .k, 0, false⟩, ⟨25, 25, .w1c, .k, 0, false⟩, ⟨26, 26, .w1c, .k, 0, false⟩]⟩,
   -- EVT_EN (R42): BLOCK_EN, COMMON_EN
   ⟨0x014, 1, 0x4, [⟨23, 0, .rw, .w, 0, false⟩, ⟨26, 24, .rw, .w, 7, false⟩]⟩,
   -- EVT_FORCE (R42): FORCE
   ⟨0x018, 1, 0x4, [⟨26, 0, .w1s, .k, 0, false⟩]⟩,
   -- EVT_ROUTE (R44): TO_PF, TO_VF, TO_PIN, MSIX_VEC
   ⟨0x01C, 1, 0x4, [⟨0, 0, .rw, .w, 1, false⟩, ⟨1, 1, .rw, .w, 0, false⟩, ⟨2, 2, .rw, .w, 0, false⟩, ⟨26, 16, .rw, .w, 0, false⟩]⟩,
   -- ERR_CAPT0 (R46): EVT_BIT, VALID, SRC_VALID, PITCH, SRC_RACK, SRC_SLOT
   ⟨0x020, 1, 0x4, [⟨4, 0, .ro, .k, 0, false⟩, ⟨5, 5, .ro, .k, 0, false⟩, ⟨7, 7, .ro, .k, 0, false⟩, ⟨19, 8, .ro, .k, 0, false⟩, ⟨23, 20, .ro, .k, 0, false⟩, ⟨29, 24, .ro, .k, 0, false⟩]⟩,
   -- ERR_CAPT1 (R46): TIME_LO
   ⟨0x024, 1, 0x4, [⟨31, 0, .ro, .k, 0, false⟩]⟩,
   -- ERR_CAPT2 (R46): CAPT2
   ⟨0x028, 1, 0x4, [⟨31, 0, .ro, .k, 0, false⟩]⟩,
   -- ERR_CAPT3 (R46): CAPT3
   ⟨0x02C, 1, 0x4, [⟨31, 0, .ro, .k, 0, false⟩]⟩,
   -- SEQ_IN (R47): COUNT
   ⟨0x030, 1, 0x4, [⟨31, 0, .ro, .w, 0, false⟩]⟩,
   -- SEQ_OUT (R47): COUNT
   ⟨0x034, 1, 0x4, [⟨31, 0, .ro, .w, 0, false⟩]⟩,
   -- PITCH_OWNER (R47): PITCH
   ⟨0x038, 1, 0x4, [⟨11, 0, .rwl, .k, 0, false⟩]⟩,
   -- STRIKE_CTRL (R55): GO, REACH, DRAIN_ABANDONED, LAST_RESULT
   ⟨0x03C, 1, 0x4, [⟨0, 0, .w1s, .k, 0, false⟩, ⟨3, 1, .rw, .k, 2, false⟩, ⟨4, 4, .ro, .w, 0, false⟩, ⟨7, 5, .ro, .w, 0, false⟩]⟩
  ]

/-- Registers of page kind `hub0`: class 0x00, instance 0x00 (R35 02_pages_and_addresses.md). -/
def rowsHub0 : List RegRow :=
  [
   -- CTL_FAULT_CNT (R35): COUNT
   ⟨0x080, 1, 0x4, [⟨31, 0, .ro, .w, 0, false⟩]⟩,
   -- CTL_FAULT_INFO (R35): OFFSET, REASON, SOURCE
   ⟨0x084, 1, 0x4, [⟨25, 0, .ro, .w, 0, false⟩, ⟨29, 26, .ro, .w, 0, false⟩, ⟨31, 30, .ro, .w, 0, false⟩]⟩
  ]

/-- Registers of page kind `tile0`: class 0x10-0x1F, instance 0x00 (R109 04_tiles_and_formats.md). -/
def rowsTile0 : List RegRow :=
  [
   -- TILE_INFO (R109): DIE_ID, LOGICAL, ME_PRESENT
   ⟨0x080, 1, 0x4, [⟨3, 0, .ro, .p, 0, false⟩, ⟨7, 4, .ro, .w, 0, false⟩, ⟨16, 8, .ro, .w, 0, false⟩]⟩,
   -- ME_MAP (R109): PHYS
   ⟨0x084, 1, 0x4, [⟨31, 0, .rw, .w, 0, true⟩]⟩,
   -- ME_HOLLOW (R109): HOLLOW
   ⟨0x088, 1, 0x4, [⟨7, 0, .ro, .w, 0, false⟩]⟩,
   -- SRAM_CE_CNT (R109): COUNT
   ⟨0x090, 1, 0x4, [⟨31, 0, .ro, .w, 0, false⟩]⟩,
   -- SRAM_UE_CNT (R109): COUNT
   ⟨0x094, 1, 0x4, [⟨31, 0, .ro, .w, 0, false⟩]⟩,
   -- PERF_MATRIX_BUSY (R109): COUNT
   ⟨0x098, 1, 0x4, [⟨31, 0, .ro, .k, 0, false⟩]⟩,
   -- PERF_MATRIX_BUSY_HI (R109): COUNT, WRAPPED
   ⟨0x09C, 1, 0x4, [⟨15, 0, .ro, .k, 0, false⟩, ⟨16, 16, .w1c, .w, 0, false⟩]⟩
  ]

/-- Registers of page kind `tile1`: class 0x10-0x1F, instance 0x01 (R111 04_tiles_and_formats.md). -/
def rowsTile1 : List RegRow :=
  [
   -- HOP_BASE (R111): BASE
   ⟨0x080, 4, 0x20, [⟨30, 12, .rw, .k, 0, true⟩]⟩,
   -- HOP_CFG (R111): LOG2SIZE, RUN, RESUME
   ⟨0x084, 4, 0x20, [⟨3, 0, .rw, .k, 6, true⟩, ⟨8, 8, .rw, .k, 0, false⟩, ⟨9, 9, .wo, .k, 0, false⟩]⟩,
   -- HOP_TAIL (R111): TAIL
   ⟨0x088, 4, 0x20, [⟨31, 0, .rw, .k, 0, false⟩]⟩,
   -- HOP_HEAD (R111): HEAD
   ⟨0x08C, 4, 0x20, [⟨31, 0, .ro, .k, 0, false⟩]⟩,
   -- HOP_DONE (R111): DONE
   ⟨0x090, 4, 0x20, [⟨31, 0, .ro, .k, 0, false⟩]⟩,
   -- HOP_STAT (R111): HALTED, WAITING, LAST_STATUS
   ⟨0x094, 4, 0x20, [⟨0, 0, .ro, .k, 0, false⟩, ⟨1, 1, .ro, .k, 0, false⟩, ⟨15, 8, .ro, .k, 0, false⟩]⟩,
   -- HOP_WAIT_LIMIT (R111): LIMIT_US
   ⟨0x098, 4, 0x20, [⟨23, 0, .rw, .k, 0, false⟩]⟩
  ]

/-- Registers of page kind `tile2`: class 0x10-0x1F, instance 0x02 (R112 04_tiles_and_formats.md). -/
def rowsTile2 : List RegRow :=
  [
   -- CORE_CTRL (R112): RUN
   ⟨0x080, 2, 0x10, [⟨0, 0, .rw, .k, 0, false⟩]⟩,
   -- RESET_PC (R112): PC
   ⟨0x084, 2, 0x10, [⟨30, 2, .rw, .k, 0, false⟩]⟩,
   -- CORE_STAT (R112): RUNNING, FAULTED, WFI, CAUSE
   ⟨0x088, 2, 0x10, [⟨0, 0, .ro, .k, 0, false⟩, ⟨1, 1, .ro, .k, 0, false⟩, ⟨2, 2, .ro, .k, 0, false⟩, ⟨15, 8, .ro, .k, 0, false⟩]⟩,
   -- FAULT_PC (R112): PC
   ⟨0x08C, 2, 0x10, [⟨31, 0, .ro, .k, 0, false⟩]⟩
  ]

/-- Registers of page kind `tile8`: class 0x10-0x1F, instance 0x08 (R133 05_stacks_and_long_sequences.md). -/
def rowsTile8 : List RegRow :=
  [
   -- ATT_STAT (R133): BLOCK, RUNNING
   ⟨0x080, 1, 0x4, [⟨12, 0, .ro, .k, 0, false⟩, ⟨16, 16, .ro, .k, 0, false⟩]⟩,
   -- ATT_BLOCKS (R133): COUNT
   ⟨0x088, 1, 0x4, [⟨31, 0, .ro, .k, 0, false⟩]⟩,
   -- ATT_BLOCKS_HI (R133): COUNT, WRAPPED
   ⟨0x08C, 1, 0x4, [⟨15, 0, .ro, .k, 0, false⟩, ⟨16, 16, .w1c, .w, 0, false⟩]⟩
  ]

/-- Registers of page kind `mem0`: class 0x22,0x23, instance 0x00 (R130 05_stacks_and_long_sequences.md). -/
def rowsMem0 : List RegRow :=
  [
   -- MEM_INFO (R130): PRESENT, PIN_RATE
   ⟨0x080, 1, 0x4, [⟨3, 0, .ro, .w, 0, false⟩, ⟨15, 8, .ro, .p, 0x3c, false⟩]⟩,
   -- MEM_CFG (R130): OFFLINE, ILV_HASH
   ⟨0x084, 1, 0x4, [⟨3, 0, .rw, .w, 0, true⟩, ⟨5, 4, .rw, .w, 0, true⟩]⟩,
   -- PATROL_CFG (R130): PERIOD_H
   ⟨0x088, 1, 0x4, [⟨7, 0, .rw, .w, 0x18, false⟩]⟩
  ]

/-- Registers of page kind `memStack`: class 0x22,0x23, instance 0x01-0x04 (R131 05_stacks_and_long_sequences.md). -/
def rowsMemStack : List RegRow :=
  [
   -- STACK_STAT (R131): TRAINED, HOLLOW, OFFLINE, HOT, TEMP
   ⟨0x080, 1, 0x4, [⟨0, 0, .ro, .w, 0, false⟩, ⟨1, 1, .ro, .w, 0, false⟩, ⟨2, 2, .ro, .w, 0, false⟩, ⟨3, 3, .ro, .w, 0, false⟩, ⟨15, 8, .ro, .w, 0, false⟩]⟩,
   -- DRAM_CE_CNT (R131): COUNT
   ⟨0x084, 1, 0x4, [⟨31, 0, .ro, .w, 0, false⟩]⟩,
   -- DRAM_UE_CNT (R131): COUNT
   ⟨0x088, 1, 0x4, [⟨31, 0, .ro, .w, 0, false⟩]⟩,
   -- PATROL_POS (R131): GRANULE
   ⟨0x08C, 1, 0x4, [⟨14, 0, .ro, .w, 0, false⟩]⟩,
   -- LAST_UE (R131): OFFSET
   ⟨0x090, 1, 0x4, [⟨31, 0, .ro, .w, 0, false⟩]⟩,
   -- LAST_UE_HI (R131): OFFSET
   ⟨0x094, 1, 0x4, [⟨15, 0, .ro, .w, 0, false⟩]⟩
  ]

/-- Registers of page kind `pegs`: class 0x30, instance 0x00-0x0F (R150 06_pegs.md). -/
def rowsPegs : List RegRow :=
  [
   -- PEG_INFO (R150): FIRST
   ⟨0x080, 1, 0x4, [⟨12, 0, .ro, .p, 0, false⟩]⟩,
   -- PEG_SEL (R150): LOCAL
   ⟨0x084, 1, 0x4, [⟨8, 0, .rw, .k, 0, false⟩]⟩,
   -- PEG_VIEW_COUNT (R150): COUNT
   ⟨0x088, 1, 0x4, [⟨31, 0, .ro, .k, 0, false⟩]⟩,
   -- PEG_VIEW_TARGET (R150): TARGET
   ⟨0x08C, 1, 0x4, [⟨31, 0, .ro, .k, 0, false⟩]⟩,
   -- PEG_VIEW_WAIT (R150): HOPPERS, CORES, HOST
   ⟨0x090, 1, 0x4, [⟨3, 0, .ro, .k, 0, false⟩, ⟨5, 4, .ro, .k, 0, false⟩, ⟨14, 8, .ro, .k, 0, false⟩]⟩,
   -- PEG_OPS (R150): COUNT
   ⟨0x098, 1, 0x4, [⟨31, 0, .ro, .k, 0, false⟩]⟩,
   -- PEG_OPS_HI (R150): COUNT, WRAPPED
   ⟨0x09C, 1, 0x4, [⟨15, 0, .ro, .k, 0, false⟩, ⟨16, 16, .w1c, .w, 0, false⟩]⟩,
   -- PEG_ALLOC (R150): PITCH, NOTIFY, COMMIT
   ⟨0x400, 512, 0x4, [⟨11, 0, .rw, .k, 0, false⟩, ⟨12, 12, .rw, .k, 0, false⟩, ⟨16, 16, .rw, .k, 0, false⟩]⟩
  ]

/-- Registers of page kind `route0`: class 0x38, instance 0x00 (R180 07_fabric_routing.md). -/
def rowsRoute0 : List RegRow :=
  [
   -- ROUTE_EPOCH (R180): ACTIVE, OPEN0, OPEN1
   ⟨0x080, 1, 0x4, [⟨0, 0, .rw, .w, 0, false⟩, ⟨1, 1, .rw, .w, 1, false⟩, ⟨2, 2, .rw, .w, 1, false⟩]⟩,
   -- EPOCH_INFLIGHT (R180): COUNT
   ⟨0x084, 2, 0x4, [⟨15, 0, .ro, .w, 0, false⟩]⟩,
   -- STALE_CNT (R180): COUNT
   ⟨0x08C, 1, 0x4, [⟨31, 0, .ro, .w, 0, false⟩]⟩,
   -- NO_ROUTE_CNT (R180): COUNT
   ⟨0x090, 1, 0x4, [⟨31, 0, .ro, .w, 0, false⟩]⟩
  ]

/-- Registers of page kind `routeTab`: class 0x38, instance 0x10-0x17 (R163 07_fabric_routing.md). -/
def rowsRouteTab : List RegRow :=
  [
   -- ROUTE_ENTRY (R163): PLANE_MASK, VALID
   ⟨0x400, 256, 0x4, [⟨17, 0, .rw, .w, 0, false⟩, ⟨18, 18, .rw, .w, 0, false⟩]⟩
  ]

/-- Registers of page kind `link1`: class 0x20,0x21, instance 0x01 (R181 07_fabric_routing.md). -/
def rowsLink1 : List RegRow :=
  [
   -- PARSE_DEEP_CNT (R181): COUNT
   ⟨0x080, 1, 0x4, [⟨31, 0, .ro, .w, 0, false⟩]⟩,
   -- PARSE_POISON_CNT (R181): COUNT
   ⟨0x084, 1, 0x4, [⟨31, 0, .ro, .w, 0, false⟩]⟩
  ]

/-- Registers of page kind `port`: class 0x20,0x21, instance 0x10-0x18 (R201 08_ports_and_training.md). -/
def rowsPort : List RegRow :=
  [
   -- PORT_CFG (R201): POLARITY_INV, HALF_RATE, FEC_DETECT_ONLY, FORCE_FULL
   ⟨0x080, 1, 0x4, [⟨3, 0, .rw, .w, 0, true⟩, ⟨4, 4, .rw, .w, 0, true⟩, ⟨5, 5, .rw, .w, 0, true⟩, ⟨6, 6, .rw, .w, 0, false⟩]⟩,
   -- PORT_STAT (R202): STATE, ATTEMPT, FAST, FAIL_PHASE, DOWN_CAUSE
   ⟨0x084, 1, 0x4, [⟨3, 0, .ro, .w, 0, false⟩, ⟨5, 4, .ro, .w, 0, false⟩, ⟨6, 6, .ro, .w, 0, false⟩, ⟨11, 8, .ro, .w, 0, false⟩, ⟨15, 12, .ro, .w, 0, false⟩]⟩,
   -- PORT_HOLD (R201): HOLD_US
   ⟨0x088, 1, 0x4, [⟨16, 0, .rw, .w, 0x7d0, false⟩]⟩,
   -- PORT_HELD (R201): FRAMES
   ⟨0x08C, 1, 0x4, [⟨15, 0, .ro, .w, 0, false⟩]⟩,
   -- PARTNER_ID (R201): BLOCK
   ⟨0x090, 5, 0x4, [⟨31, 0, .ro, .w, 0, false⟩]⟩,
   -- EXPECT_SERIAL_LO (R201): SERIAL
   ⟨0x0A4, 1, 0x4, [⟨31, 0, .rw, .w, 0, false⟩]⟩,
   -- EXPECT_SERIAL_HI (R201): SERIAL
   ⟨0x0A8, 1, 0x4, [⟨31, 0, .rw, .w, 0, false⟩]⟩,
   -- EXPECT_CTL (R201): PORT, VALID
   ⟨0x0AC, 1, 0x4, [⟨7, 0, .rw, .w, 0, false⟩, ⟨8, 8, .rw, .w, 0, false⟩]⟩,
   -- TRAIN_TIME (R201): US
   ⟨0x0B0, 1, 0x4, [⟨19, 0, .ro, .w, 0, false⟩]⟩,
   -- UNCORR_CW (R201): COUNT
   ⟨0x0B4, 1, 0x4, [⟨31, 0, .ro, .w, 0, false⟩]⟩,
   -- REPLAY_CNT (R201): COUNT
   ⟨0x0B8, 1, 0x4, [⟨31, 0, .ro, .w, 0, false⟩]⟩,
   -- DOWN_CNT (R201): COUNT
   ⟨0x0BC, 1, 0x4, [⟨31, 0, .ro, .w, 0, false⟩]⟩,
   -- HOLD_EXPIRED_CNT (R201): COUNT
   ⟨0x0C0, 1, 0x4, [⟨31, 0, .ro, .w, 0, false⟩]⟩,
   -- TRAIN_FAIL_CNT (R201): COUNT
   ⟨0x0C4, 1, 0x4, [⟨31, 0, .ro, .w, 0, false⟩]⟩,
   -- REROUTED_CNT (R201): COUNT
   ⟨0x0C8, 1, 0x4, [⟨31, 0, .ro, .w, 0, false⟩]⟩,
   -- ORDERED_FAILED_CNT (R201): COUNT
   ⟨0x0CC, 1, 0x4, [⟨31, 0, .ro, .w, 0, false⟩]⟩,
   -- FEC_CORR_SYM (R201): COUNT
   ⟨0x0D0, 1, 0x4, [⟨31, 0, .ro, .w, 0, false⟩]⟩,
   -- FEC_CORR_SYM_HI (R201): COUNT, WRAPPED
   ⟨0x0D4, 1, 0x4, [⟨15, 0, .ro, .w, 0, false⟩, ⟨16, 16, .w1c, .w, 0, false⟩]⟩
  ]

/-- Registers of page kind `mgmt`: class 0x20,0x21, instance 0x05 (R211 09_remote_memory_access.md). -/
def rowsMgmt : List RegRow :=
  [
   -- MGMT_SEL (R211): INDEX
   ⟨0x080, 1, 0x4, [⟨9, 0, .rw, .w, 0, false⟩]⟩,
   -- MGMT_STAT (R211): VALID, BROKEN, PORT, GEN_OUT, GEN_IN
   ⟨0x084, 1, 0x4, [⟨0, 0, .ro, .k, 0, false⟩, ⟨1, 1, .ro, .k, 0, false⟩, ⟨6, 2, .ro, .k, 0, false⟩, ⟨15, 8, .ro, .k, 0, false⟩, ⟨23, 16, .ro, .k, 0, false⟩]⟩,
   -- MGMT_NEXT_PSN (R211): PSN
   ⟨0x088, 1, 0x4, [⟨23, 0, .ro, .k, 0, false⟩]⟩,
   -- MGMT_EXPECT_PSN (R211): PSN
   ⟨0x08C, 1, 0x4, [⟨23, 0, .ro, .k, 0, false⟩]⟩,
   -- MGMT_ESTAB_CNT (R211): COUNT
   ⟨0x090, 1, 0x4, [⟨31, 0, .ro, .w, 0, false⟩]⟩
  ]

/-- Registers of page kind `rma`: class 0x20,0x21, instance 0x02 (R231 09_remote_memory_access.md). -/
def rowsRma : List RegRow :=
  [
   -- RMA_RETRY (R231): TIMEOUT_US, RETRY_MAX
   ⟨0x080, 1, 0x4, [⟨15, 0, .rw, .w, 0xfa0, false⟩, ⟨19, 16, .rw, .w, 3, false⟩]⟩,
   -- RMA_WIN (R231): INIT_CREDITS
   ⟨0x084, 1, 0x4, [⟨6, 0, .rw, .w, 8, false⟩]⟩,
   -- STALL_LIMIT (R231): LIMIT_MS
   ⟨0x088, 1, 0x4, [⟨23, 0, .rw, .w, 0x64, false⟩]⟩,
   -- READ_TAGS_FREE (R231): COUNT
   ⟨0x08C, 1, 0x4, [⟨13, 0, .ro, .w, 0x2000, false⟩]⟩,
   -- QDESC_COUNT (R231): COUNT
   ⟨0x090, 1, 0x4, [⟨16, 0, .ro, .w, 0, false⟩]⟩,
   -- RETRANS_CNT (R231): COUNT
   ⟨0x094, 1, 0x4, [⟨31, 0, .ro, .w, 0, false⟩]⟩,
   -- DUP_CNT (R231): COUNT
   ⟨0x098, 1, 0x4, [⟨31, 0, .ro, .w, 0, false⟩]⟩,
   -- OOO_CNT (R231): COUNT
   ⟨0x09C, 1, 0x4, [⟨31, 0, .ro, .w, 0, false⟩]⟩,
   -- HALVE_CNT (R231): COUNT
   ⟨0x0A0, 1, 0x4, [⟨31, 0, .ro, .w, 0, false⟩]⟩,
   -- BROKEN_CNT (R231): COUNT
   ⟨0x0A4, 1, 0x4, [⟨31, 0, .ro, .w, 0, false⟩]⟩,
   -- STALL_TAG (R231): COUNT
   ⟨0x0C0, 1, 0x4, [⟨31, 0, .ro, .k, 0, false⟩]⟩,
   -- STALL_TAG_HI (R231): COUNT, WRAPPED
   ⟨0x0C4, 1, 0x4, [⟨15, 0, .ro, .k, 0, false⟩, ⟨16, 16, .w1c, .w, 0, false⟩]⟩,
   -- STALL_DESC (R231): COUNT
   ⟨0x0C8, 1, 0x4, [⟨31, 0, .ro, .k, 0, false⟩]⟩,
   -- STALL_DESC_HI (R231): COUNT, WRAPPED
   ⟨0x0CC, 1, 0x4, [⟨15, 0, .ro, .k, 0, false⟩, ⟨16, 16, .w1c, .w, 0, false⟩]⟩,
   -- STALL_WIN (R231): COUNT
   ⟨0x0D0, 1, 0x4, [⟨31, 0, .ro, .k, 0, false⟩]⟩,
   -- STALL_WIN_HI (R231): COUNT, WRAPPED
   ⟨0x0D4, 1, 0x4, [⟨15, 0, .ro, .k, 0, false⟩, ⟨16, 16, .w1c, .w, 0, false⟩]⟩,
   -- STALL_PATH (R231): COUNT
   ⟨0x0D8, 1, 0x4, [⟨31, 0, .ro, .k, 0, false⟩]⟩,
   -- STALL_PATH_HI (R231): COUNT, WRAPPED
   ⟨0x0DC, 1, 0x4, [⟨15, 0, .ro, .k, 0, false⟩, ⟨16, 16, .w1c, .w, 0, false⟩]⟩
  ]

/-- Registers of page kind `conn`: class 0x20,0x21, instance 0x03 (R233 09_remote_memory_access.md). -/
def rowsConn : List RegRow :=
  [
   -- CONN_SEL (R233): INDEX
   ⟨0x080, 1, 0x4, [⟨10, 0, .rw, .w, 0, false⟩]⟩,
   -- CONN_CTL (R233): PITCH, ROLE, ORDERED, COMMIT, BROKEN
   ⟨0x084, 1, 0x4, [⟨11, 0, .rw, .k, 0, false⟩, ⟨12, 12, .rw, .k, 0, false⟩, ⟨13, 13, .rw, .k, 0, false⟩, ⟨16, 16, .rw, .k, 0, false⟩, ⟨17, 17, .ro, .k, 0, false⟩]⟩,
   -- CONN_PEER (R233): RACK, SLOT, PLANE, SPRAY_MASK
   ⟨0x088, 1, 0x4, [⟨3, 0, .rw, .k, 0, false⟩, ⟨9, 4, .rw, .k, 0, false⟩, ⟨13, 10, .rw, .k, 0, false⟩, ⟨24, 16, .rw, .k, 0, false⟩]⟩,
   -- CONN_PSN (R233): PSN
   ⟨0x08C, 1, 0x4, [⟨23, 0, .rw, .k, 0, false⟩]⟩,
   -- CONN_STATE (R233): WINDOW, CHARGE, RETRIES
   ⟨0x090, 1, 0x4, [⟨6, 0, .ro, .k, 0, false⟩, ⟨18, 8, .ro, .k, 0, false⟩, ⟨23, 20, .ro, .k, 0, false⟩]⟩,
   -- CONN_ACK (R233): OLDEST
   ⟨0x094, 1, 0x4, [⟨23, 0, .ro, .k, 0, false⟩]⟩,
   -- CONN_QUEUED (R233): COUNT
   ⟨0x098, 1, 0x4, [⟨16, 0, .ro, .k, 0, false⟩]⟩
  ]

/-- Registers of page kind `grp`: class 0x20,0x21, instance 0x04 (R259 10_weir_collectives.md). -/
def rowsGrp : List RegRow :=
  [
   -- GRP_SEL (R259): INDEX
   ⟨0x080, 1, 0x4, [⟨9, 0, .rw, .w, 0, false⟩]⟩,
   -- GRP_CTL (R259): PITCH, COMMIT, BROKEN, COUNTS_FIRST, DROP
   ⟨0x084, 1, 0x4, [⟨11, 0, .rw, .k, 0, false⟩, ⟨16, 16, .rw, .k, 0, false⟩, ⟨17, 17, .ro, .k, 0, false⟩, ⟨18, 18, .rw, .k, 0, false⟩, ⟨19, 19, .rw, .k, 0, false⟩]⟩,
   -- GRP_PLANES (R259): PLANES
   ⟨0x088, 1, 0x4, [⟨8, 0, .rw, .k, 0, false⟩]⟩,
   -- GRP_DEADLINE (R259): US
   ⟨0x08C, 1, 0x4, [⟨23, 0, .rw, .k, 0x186a0, false⟩]⟩,
   -- GRP_SEQ (R259): NEXT_SEQ
   ⟨0x090, 1, 0x4, [⟨15, 0, .rw, .k, 0, false⟩]⟩,
   -- GRP_RANK (R259): RANK, SIZE
   ⟨0x094, 1, 0x4, [⟨9, 0, .ro, .k, 0, false⟩, ⟨26, 16, .ro, .k, 0, false⟩]⟩,
   -- GRP_CMD (R259): CMD, BUSY, FAILED
   ⟨0x098, 1, 0x4, [⟨1, 0, .wo, .k, 0, false⟩, ⟨8, 8, .ro, .k, 0, false⟩, ⟨9, 9, .ro, .k, 0, false⟩]⟩,
   -- GRP_MEMBERS (R259): MAP
   ⟨0x100, 32, 0x4, [⟨31, 0, .rw, .k, 0, false⟩]⟩,
   -- GRP_MISSING (R259): MAP
   ⟨0x180, 32, 0x4, [⟨31, 0, .ro, .k, 0, false⟩]⟩,
   -- GRP_DROPPED (R259): MAP
   ⟨0x200, 32, 0x4, [⟨31, 0, .ro, .k, 0, false⟩]⟩
  ]

/-- Registers of page kind `tile4`: class 0x10-0x1F, instance 0x04 (R287 11_pitches_and_strikes.md). -/
def rowsTile4 : List RegRow :=
  [
   -- SCRUB_COUNT (R287): COUNT
   ⟨0x080, 1, 0x4, [⟨14, 0, .ro, .k, 0x5000, false⟩]⟩,
   -- SCRUB_NEXT (R287): GRANULE
   ⟨0x084, 1, 0x4, [⟨14, 0, .ro, .k, 0, false⟩]⟩,
   -- SCRUB_MAP (R287): MAP
   ⟨0x100, 160, 0x4, [⟨31, 0, .ro, .k, 0xffffffff, false⟩]⟩
  ]

/-- Registers of page kind `tile5`: class 0x10-0x1F, instance 0x05-0x07 (R287 11_pitches_and_strikes.md). -/
def rowsTile5 : List RegRow :=
  [
   -- SCRUB_MAP (R287): MAP
   ⟨0x100, 160, 0x4, [⟨31, 0, .ro, .k, 0xffffffff, false⟩]⟩
  ]

/-- Registers of page kind `ember`: class 0x01, instance 0x00 (R317 12_reset_kindling_bring_up.md). -/
def rowsEmber : List RegRow :=
  [
   -- RESET_COUNT (R317): COUNT
   ⟨0x080, 1, 0x4, [⟨31, 0, .ro, .e, 0, false⟩]⟩,
   -- LAST_CAUSE (R317): CAUSE, REACH, ESCALATED, DURING
   ⟨0x084, 1, 0x4, [⟨3, 0, .ro, .e, 0, false⟩, ⟨5, 4, .ro, .e, 0, false⟩, ⟨6, 6, .ro, .e, 0, false⟩, ⟨8, 7, .ro, .e, 0, false⟩]⟩,
   -- LAST_UPTIME (R317): MS
   ⟨0x088, 1, 0x4, [⟨31, 0, .ro, .e, 0, false⟩]⟩,
   -- GLITCH_CNT (R317): RESET_N, PORST_N
   ⟨0x08C, 1, 0x4, [⟨15, 0, .ro, .e, 0, false⟩, ⟨31, 16, .ro, .e, 0, false⟩]⟩,
   -- EMBER_STAT (R317): COLD
   ⟨0x090, 1, 0x4, [⟨0, 0, .w1c, .e, 1, false⟩]⟩
  ]

/-- Registers of page kind `kindle`: class 0x01, instance 0x01 (R318 12_reset_kindling_bring_up.md). -/
def rowsKindle : List RegRow :=
  [
   -- KINDLE_STAT (R318): PHASE, STRAP_TRIES, HUB, OTHER_FAILED, IMG_SLOT, IMG_FALLBACK, WAIT_REFCLK, BLOB_DEFAULTS, BLOB_TRIES
   ⟨0x080, 1, 0x4, [⟨2, 0, .ro, .w, 0, false⟩, ⟨5, 3, .ro, .w, 0, false⟩, ⟨6, 6, .ro, .w, 0, false⟩, ⟨7, 7, .ro, .w, 0, false⟩, ⟨8, 8, .ro, .w, 0, false⟩, ⟨9, 9, .ro, .w, 0, false⟩, ⟨10, 10, .ro, .w, 0, false⟩, ⟨11, 11, .ro, .w, 0, false⟩, ⟨23, 16, .ro, .w, 0, false⟩]⟩,
   -- BRINGUP_STAT (R318): STEP, RESULT, FULL, HOLDING, AFTER_REACH1, FAIL_STEP
   ⟨0x084, 1, 0x4, [⟨2, 0, .ro, .w, 0, false⟩, ⟨4, 3, .ro, .w, 0, false⟩, ⟨5, 5, .ro, .w, 0, false⟩, ⟨6, 6, .ro, .w, 0, false⟩, ⟨7, 7, .ro, .w, 0, false⟩, ⟨10, 8, .ro, .w, 0, false⟩]⟩,
   -- BRINGUP_TIME (R318): MS
   ⟨0x088, 1, 0x4, [⟨23, 0, .ro, .w, 0, false⟩]⟩,
   -- BRINGUP_CTL (R318): RELEASE, FORCE_FULL_NEXT
   ⟨0x08C, 1, 0x4, [⟨0, 0, .wo, .w, 0, false⟩, ⟨1, 1, .rw, .p, 0, false⟩]⟩
  ]

/-- Registers of page kind `fuse0`: class 0x03, instance 0x00 (R319 12_reset_kindling_bring_up.md). -/
def rowsFuse0 : List RegRow :=
  [
   -- FUSE_REACH (R319): PIN_REACH_FUSE, POR_REACH, PIN_REACH_EFF, FROM_STRAP
   ⟨0x080, 1, 0x4, [⟨1, 0, .ro, .p, 0, false⟩, ⟨3, 2, .ro, .p, 3, false⟩, ⟨5, 4, .ro, .w, 3, false⟩, ⟨6, 6, .ro, .w, 0, false⟩]⟩,
   -- STRAP_STAT (R319): BAND, CODE, AMBIGUOUS
   ⟨0x084, 1, 0x4, [⟨3, 0, .ro, .w, 0, false⟩, ⟨13, 4, .ro, .w, 0, false⟩, ⟨14, 14, .ro, .w, 0, false⟩]⟩
  ]

/-- Registers of page kind `fuse3`: class 0x03, instance 0x03 (R319 12_reset_kindling_bring_up.md). -/
def rowsFuse3 : List RegRow :=
  [
   -- FACT_GOOD (R319): TILES, HUBS
   ⟨0x080, 1, 0x4, [⟨15, 0, .ro, .p, 0xffff, false⟩, ⟨17, 16, .ro, .p, 3, false⟩]⟩
  ]

/-- Registers of page kind `ltile`: class 0x00, instance 0x01 (R320 12_reset_kindling_bring_up.md). -/
def rowsLtile : List RegRow :=
  [
   -- LTILE_COUNT (R320): COUNT
   ⟨0x080, 1, 0x4, [⟨4, 0, .ro, .w, 0, false⟩]⟩,
   -- LTILE_MAP (R320): MAP
   ⟨0x084, 2, 0x4, [⟨31, 0, .ro, .w, 0, false⟩]⟩
  ]

/-- Registers of page kind `tile3`: class 0x10-0x1F, instance 0x03 (R321 12_reset_kindling_bring_up.md). -/
def rowsTile3 : List RegRow :=
  [
   -- REPAIR_SUM (R321): FACTORY, BRINGUP
   ⟨0x080, 1, 0x4, [⟨11, 0, .ro, .w, 0, false⟩, ⟨23, 12, .ro, .w, 0, false⟩]⟩,
   -- REPAIR_ADD (R321): BANK, ROW
   ⟨0x084, 1, 0x4, [⟨6, 0, .wo, .none, 0, true⟩, ⟨25, 8, .wo, .none, 0, true⟩]⟩,
   -- REPAIR_LAST (R321): RESULT
   ⟨0x088, 1, 0x4, [⟨2, 0, .ro, .w, 0, false⟩]⟩,
   -- REPAIR_FREE (R321): FREE
   ⟨0x100, 20, 0x4, [⟨31, 0, .ro, .w, 0, false⟩]⟩
  ]

/-- Registers of page kind `pf`: class 0x04, instance 0x00 (R343 13_host_queues.md). -/
def rowsPf : List RegRow :=
  [
   -- HIF_CFG (R343): MAX_VFS, BAR2_LOG2, X8X8
   ⟨0x080, 1, 0x4, [⟨4, 0, .rw, .w, 0x10, true⟩, ⟨11, 8, .rw, .w, 4, true⟩, ⟨12, 12, .ro, .w, 0, false⟩]⟩,
   -- HIF_LINK (R343): SPEED, WIDTH, FLIT
   ⟨0x084, 1, 0x4, [⟨2, 0, .ro, .w, 0, false⟩, ⟨7, 3, .ro, .w, 0, false⟩, ⟨8, 8, .ro, .w, 0, false⟩]⟩,
   -- HIF_LOSS_CNT (R343): COUNT
   ⟨0x088, 1, 0x4, [⟨31, 0, .ro, .w, 0, false⟩]⟩,
   -- WIN_BASE (R343): BASE
   ⟨0x090, 1, 0x4, [⟨31, 0, .rw, .w, 0, false⟩]⟩,
   -- WIN_BASE_HI (R343): BASE
   ⟨0x094, 1, 0x4, [⟨15, 0, .rw, .w, 0, false⟩]⟩,
   -- MBOX_CMD (R343): CMD
   ⟨0x100, 8, 0x4, [⟨31, 0, .rw, .w, 0, false⟩]⟩,
   -- MBOX_REPLY (R343): REPLY
   ⟨0x120, 8, 0x4, [⟨31, 0, .ro, .w, 0, false⟩]⟩,
   -- MBOX_CTL (R343): GO, BUSY, DONE, OVERRUN, MSIX_VEC
   ⟨0x140, 1, 0x4, [⟨0, 0, .wo, .w, 0, false⟩, ⟨1, 1, .ro, .w, 0, false⟩, ⟨2, 2, .w1c, .w, 0, false⟩, ⟨3, 3, .w1c, .w, 0, false⟩, ⟨26, 16, .rw, .w, 0, false⟩]⟩
  ]

/-- Registers of page kind `vf`: class 0x04, instance 0x01-0x10 (R344 13_host_queues.md). -/
def rowsVf : List RegRow :=
  [
   -- HH_BASE_LO (R344): BASE
   ⟨0x080, 4, 0x40, [⟨31, 12, .rw, .k, 0, false⟩]⟩,
   -- HH_BASE_HI (R344): BASE
   ⟨0x084, 4, 0x40, [⟨31, 0, .rw, .k, 0, false⟩]⟩,
   -- HH_CFG (R344): LOG2SIZE, TILE, COMMIT
   ⟨0x088, 4, 0x40, [⟨3, 0, .rw, .k, 6, false⟩, ⟨11, 8, .rw, .k, 0, false⟩, ⟨16, 16, .rw, .k, 0, false⟩]⟩,
   -- HH_CTL (R344): RUN, RESUME
   ⟨0x08C, 4, 0x40, [⟨0, 0, .rw, .k, 0, false⟩, ⟨1, 1, .wo, .k, 0, false⟩]⟩,
   -- HH_POSTED (R344): POSTED
   ⟨0x090, 4, 0x40, [⟨31, 0, .rw, .w, 0, false⟩]⟩,
   -- HH_ACC (R344): ACC
   ⟨0x094, 4, 0x40, [⟨31, 0, .rw, .w, 0, false⟩]⟩,
   -- HH_DONE (R344): DONE
   ⟨0x098, 4, 0x40, [⟨31, 0, .ro, .w, 0, false⟩]⟩,
   -- HH_STAT (R344): HALTED, WAITING, LAST_STATUS, FAIL_CNT
   ⟨0x09C, 4, 0x40, [⟨0, 0, .ro, .w, 0, false⟩, ⟨1, 1, .ro, .w, 0, false⟩, ⟨15, 8, .ro, .w, 0, false⟩, ⟨31, 16, .ro, .w, 0, false⟩]⟩,
   -- HH_FAIL_SEQ (R344): SEQ
   ⟨0x0A0, 4, 0x40, [⟨31, 0, .ro, .w, 0, false⟩]⟩,
   -- HCQ_BASE_LO (R344): BASE
   ⟨0x180, 1, 0x4, [⟨31, 12, .rw, .k, 0, false⟩]⟩,
   -- HCQ_BASE_HI (R344): BASE
   ⟨0x184, 1, 0x4, [⟨31, 0, .rw, .k, 0, false⟩]⟩,
   -- HCQ_CFG (R344): LOG2SIZE, COMMIT, HOLDOFF_US
   ⟨0x188, 1, 0x4, [⟨4, 0, .rw, .k, 8, false⟩, ⟨8, 8, .rw, .k, 0, false⟩, ⟨25, 16, .rw, .k, 0, false⟩]⟩,
   -- HCQ_PROD (R344): CSEQ
   ⟨0x18C, 1, 0x4, [⟨31, 0, .rw, .w, 0, false⟩]⟩,
   -- HCQ_CONS (R344): CSEQ
   ⟨0x190, 1, 0x4, [⟨31, 0, .rw, .w, 0, false⟩]⟩,
   -- HEQ_BASE_LO (R344): BASE
   ⟨0x1A0, 1, 0x4, [⟨31, 12, .rw, .k, 0, false⟩]⟩,
   -- HEQ_BASE_HI (R344): BASE
   ⟨0x1A4, 1, 0x4, [⟨31, 0, .rw, .k, 0, false⟩]⟩,
   -- HEQ_CFG (R344): LOG2SIZE, COMMIT, HOLDOFF_US
   ⟨0x1A8, 1, 0x4, [⟨3, 0, .rw, .k, 6, false⟩, ⟨8, 8, .rw, .k, 0, false⟩, ⟨25, 16, .rw, .k, 0, false⟩]⟩,
   -- HEQ_PROD (R344): ESEQ
   ⟨0x1AC, 1, 0x4, [⟨31, 0, .rw, .w, 0, false⟩]⟩,
   -- HEQ_CONS (R344): ESEQ
   ⟨0x1B0, 1, 0x4, [⟨31, 0, .rw, .w, 0, false⟩]⟩,
   -- HEQ_LOST (R344): COUNT
   ⟨0x1B4, 1, 0x4, [⟨31, 0, .ro, .w, 0, false⟩]⟩,
   -- SHADOW_BASE_LO (R344): BASE
   ⟨0x1C0, 1, 0x4, [⟨31, 6, .rw, .k, 0, false⟩]⟩,
   -- SHADOW_BASE_HI (R344): BASE
   ⟨0x1C4, 1, 0x4, [⟨31, 0, .rw, .k, 0, false⟩]⟩,
   -- SHADOW_CTL (R344): ENABLE
   ⟨0x1C8, 1, 0x4, [⟨0, 0, .rw, .k, 0, false⟩]⟩,
   -- WIN_BASE (R344): BASE
   ⟨0x1D0, 1, 0x4, [⟨31, 0, .rw, .k, 0, false⟩]⟩,
   -- WIN_BASE_HI (R344): BASE
   ⟨0x1D4, 1, 0x4, [⟨15, 0, .rw, .k, 0, false⟩]⟩,
   -- HIF_DROPPED (R344): COUNT
   ⟨0x1D8, 1, 0x4, [⟨31, 0, .ro, .w, 0, false⟩]⟩
  ]

/-- Registers of page kind `power`: class 0x02, instance 0x00 (R369 14_power_and_cooling.md). -/
def rowsPower : List RegRow :=
  [
   -- PWR_CTL (R369): CLK_MODE, RELEARN
   ⟨0x080, 1, 0x4, [⟨0, 0, .rw, .w, 0, true⟩, ⟨8, 8, .wo, .w, 0, false⟩]⟩,
   -- CAP_TC (R369): W
   ⟨0x084, 1, 0x4, [⟨10, 0, .rwMsp, .w, 0x320, false⟩]⟩,
   -- CAP_HOST (R369): W
   ⟨0x088, 1, 0x4, [⟨10, 0, .rw, .w, 0x640, false⟩]⟩,
   -- CAP_EFF (R369): W, LIMITER
   ⟨0x08C, 1, 0x4, [⟨10, 0, .ro, .w, 0x190, false⟩, ⟨23, 16, .ro, .w, 0, false⟩]⟩,
   -- P_IN (R369): P
   ⟨0x090, 1, 0x4, [⟨15, 0, .ro, .w, 0, false⟩]⟩,
   -- T_IN (R369): T, T_FC
   ⟨0x094, 1, 0x4, [⟨15, 0, .rwMsp, .w, 0x140, false⟩, ⟨31, 16, .ro, .w, 0x140, false⟩]⟩,
   -- R_EST (R369): DIE, STACK
   ⟨0x098, 1, 0x4, [⟨15, 0, .ro, .w, 0x12c, false⟩, ⟨31, 16, .ro, .w, 0xfa, false⟩]⟩,
   -- FANTAIL_CFG (R369): T_LIM_DIE, MARGIN_DIE, T_LIM_STACK, MARGIN_STACK
   ⟨0x09C, 1, 0x4, [⟨7, 0, .rw, .w, 0x5f, false⟩, ⟨15, 8, .rw, .w, 5, false⟩, ⟨23, 16, .rw, .w, 0x58, false⟩, ⟨31, 24, .rw, .w, 3, false⟩]⟩,
   -- FANTAIL_STAT (R369): LEARNING, VALID_SAMPLES
   ⟨0x0A0, 1, 0x4, [⟨0, 0, .ro, .w, 1, false⟩, ⟨31, 16, .ro, .w, 0, false⟩]⟩,
   -- THERMAL_STAT (R369): BRAKED, CRITICAL, HOT_DIE
   ⟨0x0A4, 1, 0x4, [⟨0, 0, .ro, .w, 0, false⟩, ⟨1, 1, .ro, .w, 0, false⟩, ⟨12, 8, .ro, .w, 0, false⟩]⟩,
   -- FANTAIL_SLEW (R369): SLEW_W
   ⟨0x0A8, 1, 0x4, [⟨7, 0, .rw, .w, 0x14, false⟩]⟩,
   -- LOAD_NOTICE (R369): NOTICE
   ⟨0x0B0, 4, 0x4, [⟨31, 0, .rw, .w, 0, false⟩]⟩,
   -- NOTICE_GRANT (R369): W, IN_FORCE
   ⟨0x0C0, 1, 0x4, [⟨10, 0, .ro, .w, 0, false⟩, ⟨16, 16, .ro, .w, 0, false⟩]⟩,
   -- BRAKE_CNT (R369): COUNT
   ⟨0x0C8, 1, 0x4, [⟨31, 0, .ro, .w, 0, false⟩]⟩,
   -- CRITICAL_CNT (R369): COUNT
   ⟨0x0CC, 1, 0x4, [⟨31, 0, .ro, .w, 0, false⟩]⟩
  ]

/-- Registers of page kind `diePwr`: class 0x02, instance 0x01-0x14 (R371 14_power_and_cooling.md). -/
def rowsDiePwr : List RegRow :=
  [
   -- DIE_BUDGET (R371): BUDGET, FALLBACK
   ⟨0x080, 1, 0x4, [⟨15, 0, .ro, .w, 0, false⟩, ⟨31, 16, .ro, .w, 0, false⟩]⟩,
   -- DIE_SEQ (R371): SENT, REPORTED
   ⟨0x084, 1, 0x4, [⟨15, 0, .ro, .w, 0, false⟩, ⟨31, 16, .ro, .w, 0, false⟩]⟩,
   -- DIE_POWER (R371): P_AVG, P_PEAK
   ⟨0x088, 1, 0x4, [⟨15, 0, .ro, .w, 0, false⟩, ⟨31, 16, .ro, .w, 0, false⟩]⟩,
   -- DIE_THERMAL (R371): T_MAX, SLOW
   ⟨0x08C, 1, 0x4, [⟨15, 0, .ro, .w, 0, false⟩, ⟨31, 16, .ro, .w, 0, false⟩]⟩,
   -- DIE_FLAGS (R371): FLAGS, MISSED
   ⟨0x090, 1, 0x4, [⟨7, 0, .ro, .w, 0, false⟩, ⟨31, 16, .ro, .w, 0, false⟩]⟩
  ]

/-- Registers of page kind `fuse2`: class 0x03, instance 0x02 (R372 14_power_and_cooling.md). -/
def rowsFuse2 : List RegRow :=
  [
   -- R_FUSE (R372): R_FUSE_DIE, R_FUSE_STACK
   ⟨0x080, 1, 0x4, [⟨15, 0, .ro, .p, 0x12c, false⟩, ⟨31, 16, .ro, .p, 0xfa, false⟩]⟩,
   -- T_FUSE (R372): DIE_T_MAX, TRIP_DIE, TRIP_STACK
   ⟨0x084, 1, 0x4, [⟨7, 0, .ro, .p, 0x5f, false⟩, ⟨15, 8, .ro, .p, 0x6e, false⟩, ⟨23, 16, .ro, .p, 0x69, false⟩]⟩,
   -- P_MAX (R372): P_MAX_TILE, P_MAX_LINK
   ⟨0x088, 1, 0x4, [⟨15, 0, .ro, .p, 0x320, false⟩, ⟨31, 16, .ro, .p, 0x190, false⟩]⟩,
   -- P_MAX_MEM (R372): P_MAX_MEM
   ⟨0x08C, 1, 0x4, [⟨15, 0, .ro, .p, 0x320, false⟩]⟩
  ]

/-- Registers of page kind `hubMgmt`: class 0x00, instance 0x02 (R400 15_dormivex_controllers.md). -/
def rowsHubMgmt : List RegRow :=
  [
   -- DRAIN_PLANES (R400): MASK
   ⟨0x080, 1, 0x4, [⟨17, 0, .rwMsp, .w, 0, false⟩]⟩,
   -- PLANE_ORD (R400): COUNT
   ⟨0x100, 18, 0x4, [⟨11, 0, .ro, .w, 0, false⟩]⟩
  ]

/-- Registers of page kind `hubRing`: class 0x00, instance 0x03 (R442 18_counters_and_the_week.md). -/
def rowsHubRing : List RegRow :=
  [
   -- RING_HEAD (R442): RSEQ
   ⟨0x080, 1, 0x4, [⟨31, 0, .ro, .p, 1, false⟩]⟩,
   -- RING_OVERWRITTEN (R442): COUNT
   ⟨0x084, 1, 0x4, [⟨31, 0, .ro, .p, 0, false⟩]⟩,
   -- RING_SEL (R442): RSEQ
   ⟨0x088, 1, 0x4, [⟨31, 0, .rw, .w, 0, false⟩]⟩,
   -- RING_DATA (R442): DATA
   ⟨0x0A0, 8, 0x4, [⟨31, 0, .ro, .w, 0, false⟩]⟩,
   -- GTIME (R442): NS
   ⟨0x0C0, 1, 0x4, [⟨31, 0, .ro, .none, 0, false⟩]⟩,
   -- GTIME_HI (R442): NS
   ⟨0x0C4, 1, 0x4, [⟨31, 0, .ro, .none, 0, false⟩]⟩,
   -- TIME_STAT (R442): LOCKED, PORT
   ⟨0x0C8, 1, 0x4, [⟨0, 0, .ro, .w, 0, false⟩, ⟨12, 8, .ro, .w, 0, false⟩]⟩,
   -- TIME_OFFSET (R442): NS
   ⟨0x0CC, 1, 0x4, [⟨31, 0, .ro, .w, 0, false⟩]⟩,
   -- TIME_STEPS (R442): COUNT
   ⟨0x0D0, 1, 0x4, [⟨31, 0, .ro, .w, 0, false⟩]⟩,
   -- TIME_FLIGHT (R442): NS
   ⟨0x0D4, 1, 0x4, [⟨15, 0, .ro, .w, 0, false⟩]⟩
  ]

/-- Registers of page kind `hubSeal`: class 0x00, instance 0x04 (R461 19_pins_and_service.md). -/
def rowsHubSeal : List RegRow :=
  [
   -- SEAL_CTL (R461): GO, BURN, REASON, REF
   ⟨0x080, 1, 0x4, [⟨0, 0, .w1sMsp, .w, 0, false⟩, ⟨1, 1, .w1sMsp, .w, 0, false⟩, ⟨15, 8, .rwMsp, .w, 0, false⟩, ⟨31, 16, .rwMsp, .w, 0, false⟩]⟩,
   -- SEAL_STAT (R461): STATE, KIB
   ⟨0x084, 1, 0x4, [⟨2, 0, .ro, .w, 0, false⟩, ⟨31, 16, .ro, .w, 0, false⟩]⟩,
   -- SEAL_OFFSET (R461): OFFSET
   ⟨0x088, 1, 0x4, [⟨19, 5, .rw, .w, 0, false⟩]⟩,
   -- SEAL_DATA (R461): DATA
   ⟨0x0A0, 8, 0x4, [⟨31, 0, .ro, .w, 0, false⟩]⟩
  ]

/-- Registers of page kind `fuse1`: class 0x03, instance 0x01 (R458 19_pins_and_service.md). -/
def rowsFuse1 : List RegRow :=
  [
   -- ID_SERIAL_LO (R458): SERIAL
   ⟨0x080, 1, 0x4, [⟨31, 0, .ro, .p, 0, false⟩]⟩,
   -- ID_SERIAL_HI (R458): SERIAL
   ⟨0x084, 1, 0x4, [⟨31, 0, .ro, .p, 0, false⟩]⟩,
   -- ID_PART (R458): PART, STEPPING, GRADE
   ⟨0x088, 1, 0x4, [⟨15, 0, .ro, .p, 0x14, false⟩, ⟨23, 16, .ro, .p, 0xb0, false⟩, ⟨31, 24, .ro, .p, 0, false⟩]⟩,
   -- ID_LOT (R458): LOT, WAFER
   ⟨0x08C, 1, 0x4, [⟨23, 0, .ro, .p, 0, false⟩, ⟨28, 24, .ro, .p, 0, false⟩]⟩,
   -- ID_DATE (R458): DAYS
   ⟨0x090, 1, 0x4, [⟨15, 0, .ro, .p, 0, false⟩]⟩,
   -- ID_FLAGS (R458): SEAL_CNT, UNSEAL_CNT, SEALED, DBG_OPEN
   ⟨0x094, 1, 0x4, [⟨3, 0, .ro, .p, 0, false⟩, ⟨7, 4, .ro, .p, 0, false⟩, ⟨8, 8, .ro, .p, 0, false⟩, ⟨9, 9, .ro, .w, 0, false⟩]⟩,
   -- SEAL_TIME (R458): SECONDS
   ⟨0x098, 1, 0x4, [⟨31, 0, .ro, .p, 0, false⟩]⟩,
   -- SEAL_DIGEST_LO (R458): DIGEST
   ⟨0x0A0, 1, 0x4, [⟨31, 0, .ro, .p, 0, false⟩]⟩,
   -- SEAL_DIGEST_HI (R458): DIGEST
   ⟨0x0A4, 1, 0x4, [⟨31, 0, .ro, .p, 0, false⟩]⟩
  ]

/-- The registers a page kind has beyond the header. -/
def PKind.rows : PKind → List RegRow
  | .hub0 => rowsHub0
  | .hubRsv => []
  | .linkRsv0 => []
  | .linkRsv => []
  | .tile0 => rowsTile0
  | .tile1 => rowsTile1
  | .tile2 => rowsTile2
  | .tile8 => rowsTile8
  | .tile9 => []
  | .mem0 => rowsMem0
  | .memStack => rowsMemStack
  | .memRsv => []
  | .pegs => rowsPegs
  | .route0 => rowsRoute0
  | .routeTab => rowsRouteTab
  | .routeRsv => []
  | .link1 => rowsLink1
  | .port => rowsPort
  | .mgmt => rowsMgmt
  | .rma => rowsRma
  | .conn => rowsConn
  | .grp => rowsGrp
  | .tile4 => rowsTile4
  | .tile5 => rowsTile5
  | .ember => rowsEmber
  | .kindle => rowsKindle
  | .fuse0 => rowsFuse0
  | .fuse3 => rowsFuse3
  | .ltile => rowsLtile
  | .tile3 => rowsTile3
  | .pf => rowsPf
  | .vf => rowsVf
  | .hifRsv => []
  | .power => rowsPower
  | .diePwr => rowsDiePwr
  | .fuse2 => rowsFuse2
  | .hubMgmt => rowsHubMgmt
  | .hubRing => rowsHubRing
  | .hubSeal => rowsHubSeal
  | .fuse1 => rowsFuse1
  | .debug => []

/-- BLOCK_TYPE of a page kind (R34, R36). -/
def PKind.blockType : PKind → Nat
  | .hub0 => 0x001
  | .hubRsv => 0x00D
  | .linkRsv0 => 0x040
  | .linkRsv => 0x04F
  | .tile0 => 0x010
  | .tile1 => 0x011
  | .tile2 => 0x012
  | .tile8 => 0x015
  | .tile9 => 0x016
  | .mem0 => 0x020
  | .memStack => 0x021
  | .memRsv => 0x022
  | .pegs => 0x030
  | .route0 => 0x038
  | .routeTab => 0x039
  | .routeRsv => 0x03A
  | .link1 => 0x041
  | .port => 0x042
  | .mgmt => 0x046
  | .rma => 0x043
  | .conn => 0x044
  | .grp => 0x045
  | .tile4 => 0x014
  | .tile5 => 0x014
  | .ember => 0x002
  | .kindle => 0x003
  | .fuse0 => 0x005
  | .fuse3 => 0x008
  | .ltile => 0x004
  | .tile3 => 0x013
  | .pf => 0x050
  | .vf => 0x051
  | .hifRsv => 0x052
  | .power => 0x060
  | .diePwr => 0x061
  | .fuse2 => 0x007
  | .hubMgmt => 0x00A
  | .hubRing => 0x00B
  | .hubSeal => 0x00C
  | .fuse1 => 0x006
  | .debug => 0x3F0

/-- The block events of a page kind that are errors, as EVT_STAT bits (R42, R110, R132, R133, R180, R181, R203, R232, R260,
R318, R345, R370, R442). -/
def PKind.errBits : PKind → Nat
  | .tile0 => 0x16
  | .tile1 => 0xFF
  | .tile2 => 0x3
  | .memStack => 0x6
  | .tile8 => 0x1
  | .route0 => 0x1
  | .link1 => 0x2
  | .port => 0x3E
  | .rma => 0x7
  | .grp => 0x1F
  | .kindle => 0x4
  | .pf => 0x4002
  | .vf => 0x4FFF
  | .power => 0x168
  | .hubRing => 0x2
  | .hub0 | .hubRsv | .linkRsv0 | .linkRsv | .tile9 | .mem0 | .memRsv | .pegs | .routeTab | .routeRsv | .mgmt | .conn | .tile4
  | .tile5 | .ember | .fuse0 | .fuse3 | .ltile | .tile3 | .hifRsv | .diePwr | .fuse2 | .hubMgmt | .hubSeal | .fuse1
  | .debug => 0

/-- What EVT_EN.BLOCK_EN resets to: 1 for error events, and for the others where a chapter says so (R318, R401, R442). -/
def PKind.evtEnReset : PKind → Nat
  | .kindle => 0xF
  | .hubMgmt => 3
  | .hubRing => 3
  | k => k.errBits

/-! ## Offsets of the registers within their pages, by the manual's names -/

/-- PAGE_ID (R38). -/
abbrev Off.PAGE_ID : Nat := 0x000
/-- PAGE_VER (R38). -/
abbrev Off.PAGE_VER : Nat := 0x004
/-- PAGE_CTRL (R40). -/
abbrev Off.PAGE_CTRL : Nat := 0x008
/-- PAGE_STAT (R41). -/
abbrev Off.PAGE_STAT : Nat := 0x00C
/-- EVT_STAT (R42). -/
abbrev Off.EVT_STAT : Nat := 0x010
/-- EVT_EN (R42). -/
abbrev Off.EVT_EN : Nat := 0x014
/-- EVT_FORCE (R42). -/
abbrev Off.EVT_FORCE : Nat := 0x018
/-- EVT_ROUTE (R44). -/
abbrev Off.EVT_ROUTE : Nat := 0x01C
/-- ERR_CAPT0 (R46). -/
abbrev Off.ERR_CAPT0 : Nat := 0x020
/-- ERR_CAPT1 (R46). -/
abbrev Off.ERR_CAPT1 : Nat := 0x024
/-- ERR_CAPT2 (R46). -/
abbrev Off.ERR_CAPT2 : Nat := 0x028
/-- ERR_CAPT3 (R46). -/
abbrev Off.ERR_CAPT3 : Nat := 0x02C
/-- SEQ_IN (R47). -/
abbrev Off.SEQ_IN : Nat := 0x030
/-- SEQ_OUT (R47). -/
abbrev Off.SEQ_OUT : Nat := 0x034
/-- PITCH_OWNER (R47). -/
abbrev Off.PITCH_OWNER : Nat := 0x038
/-- STRIKE_CTRL (R55). -/
abbrev Off.STRIKE_CTRL : Nat := 0x03C
/-- CTL_FAULT_CNT (R35). -/
abbrev Off.CTL_FAULT_CNT : Nat := 0x080
/-- CTL_FAULT_INFO (R35). -/
abbrev Off.CTL_FAULT_INFO : Nat := 0x084
/-- TILE_INFO (R109). -/
abbrev Off.TILE_INFO : Nat := 0x080
/-- ME_MAP (R109). -/
abbrev Off.ME_MAP : Nat := 0x084
/-- ME_HOLLOW (R109). -/
abbrev Off.ME_HOLLOW : Nat := 0x088
/-- SRAM_CE_CNT (R109). -/
abbrev Off.SRAM_CE_CNT : Nat := 0x090
/-- SRAM_UE_CNT (R109). -/
abbrev Off.SRAM_UE_CNT : Nat := 0x094
/-- PERF_MATRIX_BUSY (R109). -/
abbrev Off.PERF_MATRIX_BUSY : Nat := 0x098
/-- HOP_BASE (R111). -/
abbrev Off.HOP_BASE : Nat := 0x080
/-- HOP_CFG (R111). -/
abbrev Off.HOP_CFG : Nat := 0x084
/-- HOP_TAIL (R111). -/
abbrev Off.HOP_TAIL : Nat := 0x088
/-- HOP_HEAD (R111). -/
abbrev Off.HOP_HEAD : Nat := 0x08C
/-- HOP_DONE (R111). -/
abbrev Off.HOP_DONE : Nat := 0x090
/-- HOP_STAT (R111). -/
abbrev Off.HOP_STAT : Nat := 0x094
/-- HOP_WAIT_LIMIT (R111). -/
abbrev Off.HOP_WAIT_LIMIT : Nat := 0x098
/-- CORE_CTRL (R112). -/
abbrev Off.CORE_CTRL : Nat := 0x080
/-- RESET_PC (R112). -/
abbrev Off.RESET_PC : Nat := 0x084
/-- CORE_STAT (R112). -/
abbrev Off.CORE_STAT : Nat := 0x088
/-- FAULT_PC (R112). -/
abbrev Off.FAULT_PC : Nat := 0x08C
/-- ATT_STAT (R133). -/
abbrev Off.ATT_STAT : Nat := 0x080
/-- ATT_BLOCKS (R133). -/
abbrev Off.ATT_BLOCKS : Nat := 0x088
/-- MEM_INFO (R130). -/
abbrev Off.MEM_INFO : Nat := 0x080
/-- MEM_CFG (R130). -/
abbrev Off.MEM_CFG : Nat := 0x084
/-- PATROL_CFG (R130). -/
abbrev Off.PATROL_CFG : Nat := 0x088
/-- STACK_STAT (R131). -/
abbrev Off.STACK_STAT : Nat := 0x080
/-- DRAM_CE_CNT (R131). -/
abbrev Off.DRAM_CE_CNT : Nat := 0x084
/-- DRAM_UE_CNT (R131). -/
abbrev Off.DRAM_UE_CNT : Nat := 0x088
/-- PATROL_POS (R131). -/
abbrev Off.PATROL_POS : Nat := 0x08C
/-- LAST_UE (R131). -/
abbrev Off.LAST_UE : Nat := 0x090
/-- PEG_INFO (R150). -/
abbrev Off.PEG_INFO : Nat := 0x080
/-- PEG_SEL (R150). -/
abbrev Off.PEG_SEL : Nat := 0x084
/-- PEG_VIEW_COUNT (R150). -/
abbrev Off.PEG_VIEW_COUNT : Nat := 0x088
/-- PEG_VIEW_TARGET (R150). -/
abbrev Off.PEG_VIEW_TARGET : Nat := 0x08C
/-- PEG_VIEW_WAIT (R150). -/
abbrev Off.PEG_VIEW_WAIT : Nat := 0x090
/-- PEG_OPS (R150). -/
abbrev Off.PEG_OPS : Nat := 0x098
/-- PEG_ALLOC (R150). -/
abbrev Off.PEG_ALLOC : Nat := 0x400
/-- ROUTE_EPOCH (R180). -/
abbrev Off.ROUTE_EPOCH : Nat := 0x080
/-- EPOCH_INFLIGHT (R180). -/
abbrev Off.EPOCH_INFLIGHT : Nat := 0x084
/-- STALE_CNT (R180). -/
abbrev Off.STALE_CNT : Nat := 0x08C
/-- NO_ROUTE_CNT (R180). -/
abbrev Off.NO_ROUTE_CNT : Nat := 0x090
/-- ROUTE_ENTRY (R163). -/
abbrev Off.ROUTE_ENTRY : Nat := 0x400
/-- PARSE_DEEP_CNT (R181). -/
abbrev Off.PARSE_DEEP_CNT : Nat := 0x080
/-- PARSE_POISON_CNT (R181). -/
abbrev Off.PARSE_POISON_CNT : Nat := 0x084
/-- PORT_CFG (R201). -/
abbrev Off.PORT_CFG : Nat := 0x080
/-- PORT_STAT (R202). -/
abbrev Off.PORT_STAT : Nat := 0x084
/-- PORT_HOLD (R201). -/
abbrev Off.PORT_HOLD : Nat := 0x088
/-- PORT_HELD (R201). -/
abbrev Off.PORT_HELD : Nat := 0x08C
/-- PARTNER_ID (R201). -/
abbrev Off.PARTNER_ID : Nat := 0x090
/-- EXPECT_SERIAL_LO (R201). -/
abbrev Off.EXPECT_SERIAL_LO : Nat := 0x0A4
/-- EXPECT_SERIAL_HI (R201). -/
abbrev Off.EXPECT_SERIAL_HI : Nat := 0x0A8
/-- EXPECT_CTL (R201). -/
abbrev Off.EXPECT_CTL : Nat := 0x0AC
/-- TRAIN_TIME (R201). -/
abbrev Off.TRAIN_TIME : Nat := 0x0B0
/-- UNCORR_CW (R201). -/
abbrev Off.UNCORR_CW : Nat := 0x0B4
/-- REPLAY_CNT (R201). -/
abbrev Off.REPLAY_CNT : Nat := 0x0B8
/-- DOWN_CNT (R201). -/
abbrev Off.DOWN_CNT : Nat := 0x0BC
/-- HOLD_EXPIRED_CNT (R201). -/
abbrev Off.HOLD_EXPIRED_CNT : Nat := 0x0C0
/-- TRAIN_FAIL_CNT (R201). -/
abbrev Off.TRAIN_FAIL_CNT : Nat := 0x0C4
/-- REROUTED_CNT (R201). -/
abbrev Off.REROUTED_CNT : Nat := 0x0C8
/-- ORDERED_FAILED_CNT (R201). -/
abbrev Off.ORDERED_FAILED_CNT : Nat := 0x0CC
/-- FEC_CORR_SYM (R201). -/
abbrev Off.FEC_CORR_SYM : Nat := 0x0D0
/-- MGMT_SEL (R211). -/
abbrev Off.MGMT_SEL : Nat := 0x080
/-- MGMT_STAT (R211). -/
abbrev Off.MGMT_STAT : Nat := 0x084
/-- MGMT_NEXT_PSN (R211). -/
abbrev Off.MGMT_NEXT_PSN : Nat := 0x088
/-- MGMT_EXPECT_PSN (R211). -/
abbrev Off.MGMT_EXPECT_PSN : Nat := 0x08C
/-- MGMT_ESTAB_CNT (R211). -/
abbrev Off.MGMT_ESTAB_CNT : Nat := 0x090
/-- RMA_RETRY (R231). -/
abbrev Off.RMA_RETRY : Nat := 0x080
/-- RMA_WIN (R231). -/
abbrev Off.RMA_WIN : Nat := 0x084
/-- STALL_LIMIT (R231). -/
abbrev Off.STALL_LIMIT : Nat := 0x088
/-- READ_TAGS_FREE (R231). -/
abbrev Off.READ_TAGS_FREE : Nat := 0x08C
/-- QDESC_COUNT (R231). -/
abbrev Off.QDESC_COUNT : Nat := 0x090
/-- RETRANS_CNT (R231). -/
abbrev Off.RETRANS_CNT : Nat := 0x094
/-- DUP_CNT (R231). -/
abbrev Off.DUP_CNT : Nat := 0x098
/-- OOO_CNT (R231). -/
abbrev Off.OOO_CNT : Nat := 0x09C
/-- HALVE_CNT (R231). -/
abbrev Off.HALVE_CNT : Nat := 0x0A0
/-- BROKEN_CNT (R231). -/
abbrev Off.BROKEN_CNT : Nat := 0x0A4
/-- STALL_TAG (R231). -/
abbrev Off.STALL_TAG : Nat := 0x0C0
/-- STALL_DESC (R231). -/
abbrev Off.STALL_DESC : Nat := 0x0C8
/-- STALL_WIN (R231). -/
abbrev Off.STALL_WIN : Nat := 0x0D0
/-- STALL_PATH (R231). -/
abbrev Off.STALL_PATH : Nat := 0x0D8
/-- CONN_SEL (R233). -/
abbrev Off.CONN_SEL : Nat := 0x080
/-- CONN_CTL (R233). -/
abbrev Off.CONN_CTL : Nat := 0x084
/-- CONN_PEER (R233). -/
abbrev Off.CONN_PEER : Nat := 0x088
/-- CONN_PSN (R233). -/
abbrev Off.CONN_PSN : Nat := 0x08C
/-- CONN_STATE (R233). -/
abbrev Off.CONN_STATE : Nat := 0x090
/-- CONN_ACK (R233). -/
abbrev Off.CONN_ACK : Nat := 0x094
/-- CONN_QUEUED (R233). -/
abbrev Off.CONN_QUEUED : Nat := 0x098
/-- GRP_SEL (R259). -/
abbrev Off.GRP_SEL : Nat := 0x080
/-- GRP_CTL (R259). -/
abbrev Off.GRP_CTL : Nat := 0x084
/-- GRP_PLANES (R259). -/
abbrev Off.GRP_PLANES : Nat := 0x088
/-- GRP_DEADLINE (R259). -/
abbrev Off.GRP_DEADLINE : Nat := 0x08C
/-- GRP_SEQ (R259). -/
abbrev Off.GRP_SEQ : Nat := 0x090
/-- GRP_RANK (R259). -/
abbrev Off.GRP_RANK : Nat := 0x094
/-- GRP_CMD (R259). -/
abbrev Off.GRP_CMD : Nat := 0x098
/-- GRP_MEMBERS (R259). -/
abbrev Off.GRP_MEMBERS : Nat := 0x100
/-- GRP_MISSING (R259). -/
abbrev Off.GRP_MISSING : Nat := 0x180
/-- GRP_DROPPED (R259). -/
abbrev Off.GRP_DROPPED : Nat := 0x200
/-- SCRUB_COUNT (R287). -/
abbrev Off.SCRUB_COUNT : Nat := 0x080
/-- SCRUB_NEXT (R287). -/
abbrev Off.SCRUB_NEXT : Nat := 0x084
/-- SCRUB_MAP (R287). -/
abbrev Off.SCRUB_MAP : Nat := 0x100
/-- RESET_COUNT (R317). -/
abbrev Off.RESET_COUNT : Nat := 0x080
/-- LAST_CAUSE (R317). -/
abbrev Off.LAST_CAUSE : Nat := 0x084
/-- LAST_UPTIME (R317). -/
abbrev Off.LAST_UPTIME : Nat := 0x088
/-- GLITCH_CNT (R317). -/
abbrev Off.GLITCH_CNT : Nat := 0x08C
/-- EMBER_STAT (R317). -/
abbrev Off.EMBER_STAT : Nat := 0x090
/-- KINDLE_STAT (R318). -/
abbrev Off.KINDLE_STAT : Nat := 0x080
/-- BRINGUP_STAT (R318). -/
abbrev Off.BRINGUP_STAT : Nat := 0x084
/-- BRINGUP_TIME (R318). -/
abbrev Off.BRINGUP_TIME : Nat := 0x088
/-- BRINGUP_CTL (R318). -/
abbrev Off.BRINGUP_CTL : Nat := 0x08C
/-- FUSE_REACH (R319). -/
abbrev Off.FUSE_REACH : Nat := 0x080
/-- STRAP_STAT (R319). -/
abbrev Off.STRAP_STAT : Nat := 0x084
/-- FACT_GOOD (R319). -/
abbrev Off.FACT_GOOD : Nat := 0x080
/-- LTILE_COUNT (R320). -/
abbrev Off.LTILE_COUNT : Nat := 0x080
/-- LTILE_MAP (R320). -/
abbrev Off.LTILE_MAP : Nat := 0x084
/-- REPAIR_SUM (R321). -/
abbrev Off.REPAIR_SUM : Nat := 0x080
/-- REPAIR_ADD (R321). -/
abbrev Off.REPAIR_ADD : Nat := 0x084
/-- REPAIR_LAST (R321). -/
abbrev Off.REPAIR_LAST : Nat := 0x088
/-- REPAIR_FREE (R321). -/
abbrev Off.REPAIR_FREE : Nat := 0x100
/-- HIF_CFG (R343). -/
abbrev Off.HIF_CFG : Nat := 0x080
/-- HIF_LINK (R343). -/
abbrev Off.HIF_LINK : Nat := 0x084
/-- HIF_LOSS_CNT (R343). -/
abbrev Off.HIF_LOSS_CNT : Nat := 0x088
/-- PF_WIN_BASE (R343). -/
abbrev Off.PF_WIN_BASE : Nat := 0x090
/-- MBOX_CMD (R343). -/
abbrev Off.MBOX_CMD : Nat := 0x100
/-- MBOX_REPLY (R343). -/
abbrev Off.MBOX_REPLY : Nat := 0x120
/-- MBOX_CTL (R343). -/
abbrev Off.MBOX_CTL : Nat := 0x140
/-- HH_BASE_LO (R344). -/
abbrev Off.HH_BASE_LO : Nat := 0x080
/-- HH_BASE_HI (R344). -/
abbrev Off.HH_BASE_HI : Nat := 0x084
/-- HH_CFG (R344). -/
abbrev Off.HH_CFG : Nat := 0x088
/-- HH_CTL (R344). -/
abbrev Off.HH_CTL : Nat := 0x08C
/-- HH_POSTED (R344). -/
abbrev Off.HH_POSTED : Nat := 0x090
/-- HH_ACC (R344). -/
abbrev Off.HH_ACC : Nat := 0x094
/-- HH_DONE (R344). -/
abbrev Off.HH_DONE : Nat := 0x098
/-- HH_STAT (R344). -/
abbrev Off.HH_STAT : Nat := 0x09C
/-- HH_FAIL_SEQ (R344). -/
abbrev Off.HH_FAIL_SEQ : Nat := 0x0A0
/-- HCQ_BASE_LO (R344). -/
abbrev Off.HCQ_BASE_LO : Nat := 0x180
/-- HCQ_BASE_HI (R344). -/
abbrev Off.HCQ_BASE_HI : Nat := 0x184
/-- HCQ_CFG (R344). -/
abbrev Off.HCQ_CFG : Nat := 0x188
/-- HCQ_PROD (R344). -/
abbrev Off.HCQ_PROD : Nat := 0x18C
/-- HCQ_CONS (R344). -/
abbrev Off.HCQ_CONS : Nat := 0x190
/-- HEQ_BASE_LO (R344). -/
abbrev Off.HEQ_BASE_LO : Nat := 0x1A0
/-- HEQ_BASE_HI (R344). -/
abbrev Off.HEQ_BASE_HI : Nat := 0x1A4
/-- HEQ_CFG (R344). -/
abbrev Off.HEQ_CFG : Nat := 0x1A8
/-- HEQ_PROD (R344). -/
abbrev Off.HEQ_PROD : Nat := 0x1AC
/-- HEQ_CONS (R344). -/
abbrev Off.HEQ_CONS : Nat := 0x1B0
/-- HEQ_LOST (R344). -/
abbrev Off.HEQ_LOST : Nat := 0x1B4
/-- SHADOW_BASE_LO (R344). -/
abbrev Off.SHADOW_BASE_LO : Nat := 0x1C0
/-- SHADOW_BASE_HI (R344). -/
abbrev Off.SHADOW_BASE_HI : Nat := 0x1C4
/-- SHADOW_CTL (R344). -/
abbrev Off.SHADOW_CTL : Nat := 0x1C8
/-- VF_WIN_BASE (R344). -/
abbrev Off.VF_WIN_BASE : Nat := 0x1D0
/-- HIF_DROPPED (R344). -/
abbrev Off.HIF_DROPPED : Nat := 0x1D8
/-- PWR_CTL (R369). -/
abbrev Off.PWR_CTL : Nat := 0x080
/-- CAP_TC (R369). -/
abbrev Off.CAP_TC : Nat := 0x084
/-- CAP_HOST (R369). -/
abbrev Off.CAP_HOST : Nat := 0x088
/-- CAP_EFF (R369). -/
abbrev Off.CAP_EFF : Nat := 0x08C
/-- P_IN (R369). -/
abbrev Off.P_IN : Nat := 0x090
/-- T_IN (R369). -/
abbrev Off.T_IN : Nat := 0x094
/-- R_EST (R369). -/
abbrev Off.R_EST : Nat := 0x098
/-- FANTAIL_CFG (R369). -/
abbrev Off.FANTAIL_CFG : Nat := 0x09C
/-- FANTAIL_STAT (R369). -/
abbrev Off.FANTAIL_STAT : Nat := 0x0A0
/-- THERMAL_STAT (R369). -/
abbrev Off.THERMAL_STAT : Nat := 0x0A4
/-- FANTAIL_SLEW (R369). -/
abbrev Off.FANTAIL_SLEW : Nat := 0x0A8
/-- LOAD_NOTICE (R369). -/
abbrev Off.LOAD_NOTICE : Nat := 0x0B0
/-- NOTICE_GRANT (R369). -/
abbrev Off.NOTICE_GRANT : Nat := 0x0C0
/-- BRAKE_CNT (R369). -/
abbrev Off.BRAKE_CNT : Nat := 0x0C8
/-- CRITICAL_CNT (R369). -/
abbrev Off.CRITICAL_CNT : Nat := 0x0CC
/-- DIE_BUDGET (R371). -/
abbrev Off.DIE_BUDGET : Nat := 0x080
/-- DIE_SEQ (R371). -/
abbrev Off.DIE_SEQ : Nat := 0x084
/-- DIE_POWER (R371). -/
abbrev Off.DIE_POWER : Nat := 0x088
/-- DIE_THERMAL (R371). -/
abbrev Off.DIE_THERMAL : Nat := 0x08C
/-- DIE_FLAGS (R371). -/
abbrev Off.DIE_FLAGS : Nat := 0x090
/-- R_FUSE (R372). -/
abbrev Off.R_FUSE : Nat := 0x080
/-- T_FUSE (R372). -/
abbrev Off.T_FUSE : Nat := 0x084
/-- P_MAX (R372). -/
abbrev Off.P_MAX : Nat := 0x088
/-- P_MAX_MEM (R372). -/
abbrev Off.P_MAX_MEM : Nat := 0x08C
/-- DRAIN_PLANES (R400). -/
abbrev Off.DRAIN_PLANES : Nat := 0x080
/-- PLANE_ORD (R400). -/
abbrev Off.PLANE_ORD : Nat := 0x100
/-- RING_HEAD (R442). -/
abbrev Off.RING_HEAD : Nat := 0x080
/-- RING_OVERWRITTEN (R442). -/
abbrev Off.RING_OVERWRITTEN : Nat := 0x084
/-- RING_SEL (R442). -/
abbrev Off.RING_SEL : Nat := 0x088
/-- RING_DATA (R442). -/
abbrev Off.RING_DATA : Nat := 0x0A0
/-- GTIME (R442). -/
abbrev Off.GTIME : Nat := 0x0C0
/-- TIME_STAT (R442). -/
abbrev Off.TIME_STAT : Nat := 0x0C8
/-- TIME_OFFSET (R442). -/
abbrev Off.TIME_OFFSET : Nat := 0x0CC
/-- TIME_STEPS (R442). -/
abbrev Off.TIME_STEPS : Nat := 0x0D0
/-- TIME_FLIGHT (R442). -/
abbrev Off.TIME_FLIGHT : Nat := 0x0D4
/-- SEAL_CTL (R461). -/
abbrev Off.SEAL_CTL : Nat := 0x080
/-- SEAL_STAT (R461). -/
abbrev Off.SEAL_STAT : Nat := 0x084
/-- SEAL_OFFSET (R461). -/
abbrev Off.SEAL_OFFSET : Nat := 0x088
/-- SEAL_DATA (R461). -/
abbrev Off.SEAL_DATA : Nat := 0x0A0
/-- ID_SERIAL_LO (R458). -/
abbrev Off.ID_SERIAL_LO : Nat := 0x080
/-- ID_SERIAL_HI (R458). -/
abbrev Off.ID_SERIAL_HI : Nat := 0x084
/-- ID_PART (R458). -/
abbrev Off.ID_PART : Nat := 0x088
/-- ID_LOT (R458). -/
abbrev Off.ID_LOT : Nat := 0x08C
/-- ID_DATE (R458). -/
abbrev Off.ID_DATE : Nat := 0x090
/-- ID_FLAGS (R458). -/
abbrev Off.ID_FLAGS : Nat := 0x094
/-- SEAL_TIME (R458). -/
abbrev Off.SEAL_TIME : Nat := 0x098
/-- SEAL_DIGEST_LO (R458). -/
abbrev Off.SEAL_DIGEST_LO : Nat := 0x0A0
/-- SEAL_DIGEST_HI (R458). -/
abbrev Off.SEAL_DIGEST_HI : Nat := 0x0A4

end Sys2Proof.Machine
end

