-- ==== Sys2Proof/Machine/Registers.lean ====
section
/-! DEFINITION. Reading, writing and restoring registers: page kinds, reset values, fields, counters. -/

namespace Sys2Proof.Machine

/-- The first control-space offset of page (class, instance) (R30). -/
def pg (cls inst : Nat) : Nat := cls * 0x100000 + inst * 0x1000

/-- Class and instance of a control-space offset (R30). -/
def clsOf (a : Nat) : Nat := a / 0x100000
def instOf (a : Nat) : Nat := a / 0x1000 % 0x100

/-- The page of a control-space offset, and the offset within it (R30). -/
def pageOf (a : Nat) : Nat := a / 0x1000 * 0x1000
def offOf (a : Nat) : Nat := a % 0x1000

/-- Kind of the page of a class and instance; `hubL1` says that the active hub is on L1 (R32, R36). -/
def pageKind (hubL1 : Bool) (cls inst : Nat) : Option PKind :=
  if cls = 0 then
    match inst with
    | 0 => some .hub0 | 1 => some .ltile | 2 => some .hubMgmt | 3 => some .hubRing | 4 => some .hubSeal
    | n => if n ≤ 7 then some .hubRsv else none
  else if cls = 1 then
    match inst with
    | 0 => some .ember | 1 => some .kindle | _ => none
  else if cls = 2 then
    if inst = 0 then some .power else if inst ≤ 0x14 then some .diePwr else none
  else if cls = 3 then
    match inst with
    | 0 => some .fuse0 | 1 => some .fuse1 | 2 => some .fuse2 | 3 => some .fuse3 | _ => none
  else if cls = 4 then
    if inst = 0 then some .pf else if inst ≤ 0x10 then some .vf else if inst ≤ 0x1F then some .hifRsv else none
  else if 0x10 ≤ cls ∧ cls ≤ 0x1F then
    match inst with
    | 0 => some .tile0 | 1 => some .tile1 | 2 => some .tile2 | 3 => some .tile3 | 4 => some .tile4
    | 8 => some .tile8
    | n => if n ≤ 7 then some .tile5 else if n ≤ 0xF then some .tile9 else none
  else if cls = 0x20 ∨ cls = 0x21 then
    match inst with
    | 0 => some .linkRsv0 | 1 => some .link1 | 2 => some .rma | 3 => some .conn | 4 => some .grp
    | 5 => if hubL1 = decide (cls = 0x21) then some .mgmt else some .linkRsv
    | n => if 0x10 ≤ n ∧ n ≤ 0x18 then some .port else if n ≤ 0x3F then some .linkRsv else none
  else if cls = 0x22 ∨ cls = 0x23 then
    if inst = 0 then some .mem0 else if inst ≤ 4 then some .memStack else if inst ≤ 0xF then some .memRsv else none
  else if cls = 0x30 then
    if inst ≤ 0xF then some .pegs else none
  else if cls = 0x38 then
    if inst = 0 then some .route0 else if 0x10 ≤ inst ∧ inst ≤ 0x17 then some .routeTab
    else if inst ≤ 0x3F then some .routeRsv else none
  else if cls = 0x3F then
    if inst = 0 then some .debug else none
  else none

/-- The register that stands at offset `off`, in a list of rows. -/
def findRow (rows : List RegRow) (off : Nat) : Option RegRow :=
  rows.find? fun r => decide (r.off ≤ off ∧ (off - r.off) % r.stride = 0 ∧ (off - r.off) / r.stride < r.n)

/-- The register at page offset `off` of a page kind: its header, or its own registers (R37). -/
def rowAt (k : PKind) (off : Nat) : Option RegRow := findRow (if off < 0x80 then hdrRows else k.rows) off

/-- The reset value of a row from its fields (R13). -/
def RegRow.resetVal (r : RegRow) : Nat := r.fields.foldl (fun a f => a + f.val * 2 ^ f.lo) 0

/-- The mask of a row's fields that satisfy `p`. -/
def RegRow.mask (r : RegRow) (p : RField → Bool) : Nat :=
  r.fields.foldl (fun a f => if p f then a + maskOf f.hi f.lo else a) 0

/-- The reset value of a package register (R13); the identity fields and EVT_EN come from the page (R38, R42, R109, R150). -/
def pkgReset (a : Nat) : Nat :=
  match pageKind false (clsOf a) (instOf a) with
  | none => 0
  | some k =>
    let off := offOf a
    if off = 0 then clsOf a + instOf a * 2 ^ 6 + k.blockType * 2 ^ 14
    else if off = Off.EVT_EN then k.evtEnReset + 7 * 2 ^ 24
    else if k = .tile0 ∧ off = Off.TILE_INFO then clsOf a - 0x10
    else if k = .pegs ∧ off = Off.PEG_INFO then 512 * instOf a
    else ((rowAt k off).map RegRow.resetVal).getD 0

/-- The reset value of a Weir register (R167, R204, R322): both epochs open, its ports as a package's, the rest zero.
The ember fields stand at the offsets they have in a package. -/
def weirReset (a : Nat) : Nat :=
  if a = 0x10000 then 6
  else if 0x20000 ≤ a ∧ a < 0x20000 + 0x80 * 72 then
    ((findRow rowsPort ((a - 0x20000) % 0x80 + 0x80)).map RegRow.resetVal).getD 0
  else if a / 0x1000 = 0x100 then ((rowAt .ember (offOf a)).map RegRow.resetVal).getD 0
  else 0

/-- The register at an address. -/
def rd (b : Base) (a : Nat) : Nat :=
  match mfind a b.regs with
  | some w => w.toNat
  | none => if b.isWeir then weirReset a else pkgReset a

/-- The register at an address replaced. -/
def wr (b : Base) (a v : Nat) : Base := { b with regs := mset b.regs a (w32 v) }

/-- A field of a register, and the register with a field replaced. -/
def rdF (b : Base) (a hi lo : Nat) : Nat := fld (rd b a) hi lo
def wrF (b : Base) (a hi lo v : Nat) : Base := wr b a (setFld (rd b a) hi lo v)

/-- A 64-bit register: two words, lower offset first (R31). -/
def rd64 (b : Base) (a : Nat) : Nat := rd b a + rd b (a + 4) * 2 ^ 32
def wr64 (b : Base) (a v : Nat) : Base := wr (wr b a v) (a + 4) (v / 2 ^ 32)

/-- Whether the statistics counters of a page hold (R40). A Weir's counters never freeze. -/
def frozen (b : Base) (page : Nat) : Bool := !b.isWeir && bitOf (rd b (page + Off.PAGE_CTRL)) 1

/-- A saturating counter at an address moves up by `n`, whatever FREEZE holds (R430). -/
def bumpSat (b : Base) (a n : Nat) : Base := wr b a (satAdd 0xFFFFFFFF (rd b a) n)

/-- A saturating statistics counter moves up, unless its page is frozen (R40, R430). -/
def count (b : Base) (a n : Nat) : Base := if frozen b (pageOf a) then b else bumpSat b a n

/-- A saturating field of a register moves up by one (R431). -/
def bumpF (b : Base) (a hi lo : Nat) : Base :=
  wrF b a hi lo (satAdd (2 ^ (hi + 1 - lo) - 1) (rdF b a hi lo) 1)

/-- A flagged counter moves up by `n`: the base, and whether it wrapped modulo 2^48 (R430, R432). -/
def countWide (b : Base) (a n : Nat) : Base × Bool :=
  if frozen b (pageOf a) then (b, false)
  else
    let v := rd64 b a
    let c := v % 2 ^ 48 + n
    let wraps := decide (2 ^ 48 ≤ c)
    (wr64 b a (c % 2 ^ 48 + (if wraps ∨ bitOf v 48 then 2 ^ 48 else 0)), wraps)

/-- Whether LOCK of a page carries code K: on unit pages and VF pages (R40). -/
def lockIsK (cls inst : Nat) : Bool :=
  decide ((0x10 ≤ cls ∧ cls ≤ 0x1F) ∨ (0x20 ≤ cls ∧ cls ≤ 0x23) ∨ cls = 0x30 ∨ cls = 0x38 ∨ (cls = 4 ∧ 1 ≤ inst ∧ inst ≤ 0x10))

/-- The code of a field of the page at `a`, `lock` resolved (R40). -/
def codeAt (a : Nat) (c : RCode) : RCode :=
  if c = .lock then (if lockIsK (clsOf a) (instOf a) then .k else .w) else c

/-- Restore the registers on pages that `p` admits: every field whose code `c` admits returns to its stated value (R13). -/
def restoreRegs (regs : Regs) (p : Nat → Bool) (c : RCode → Bool) : Regs :=
  regs.filterMap fun e =>
    if !p e.1 then some e
    else
      match pageKind false (clsOf e.1) (instOf e.1) with
      | none => some e
      | some k =>
        match rowAt k (offOf e.1) with
        | none => some e
        | some r =>
          let m := r.mask fun f => c (codeAt e.1 f.code)
          let v := mergeBits e.2.toNat (pkgReset e.1) m
          if v = pkgReset e.1 then none else some (e.1, w32 v)

/-- The classes of unit pages that reach 1 restores (R13). -/
def unitClass (cls : Nat) : Bool :=
  decide ((0x10 ≤ cls ∧ cls ≤ 0x1F) ∨ (0x20 ≤ cls ∧ cls ≤ 0x23) ∨ cls = 0x30 ∨ cls = 0x38)

/-! ## Pages by name -/

/-- Page `i` of tile `t` (R32). -/
def tilePage (t i : Nat) : Nat := pg (0x10 + t) i
/-- Page `i` of link die `d` (R32). -/
def linkPage (d i : Nat) : Nat := pg (0x20 + d) i
/-- The page of package port `q` (R16, R201). -/
def portPage (q : Nat) : Nat := pg (0x20 + q / 9) (0x10 + q % 9)
/-- The page of virtual function `v`, 1 to 16 (R32). -/
def vfPage (v : Nat) : Nat := pg 4 v
/-- The page of stack `s` (R131). -/
def stackPage (s : Nat) : Nat := pg (0x22 + s / 4) (1 + s % 4)
/-- The peg page of tile `t` (R32). -/
def pegPage (t : Nat) : Nat := pg 0x30 t
/-- The routing page (R180), hub, physical-function, power, kindling and ember pages. -/
def routePage : Nat := pg 0x38 0
def hubPage (i : Nat) : Nat := pg 0 i
def pfPage : Nat := pg 4 0
def powerPage : Nat := pg 2 0
def kindlePage : Nat := pg 1 1
def emberPage : Nat := pg 1 0

/-- The address of register `off` (its package offset) of port `q`, in a package or a Weir (R201, R204). -/
def portReg (b : Base) (q off : Nat) : Nat :=
  if b.isWeir then 0x20000 + 0x80 * q + (off - 0x80) else portPage q + off

/-- A port's page ENABLE (R40, R199). -/
def portEnabled (b : Base) (q : Nat) : Bool :=
  if b.isWeir then (mget {} b.ports q).weirEnable else bitOf (rd b (portPage q + Off.PAGE_CTRL)) 0

/-- The pitch that owns a page (R47). -/
def ownerOf (b : Base) (page : Nat) : Nat := rdF b (page + Off.PITCH_OWNER) 11 0

/-- ENABLE of a page (R40). -/
def enabledPage (b : Base) (page : Nat) : Bool := bitOf (rd b (page + Off.PAGE_CTRL)) 0

/-- STRIKING and HOLLOW of a page (R41). -/
def strikingPage (b : Base) (page : Nat) : Bool := bitOf (rd b (page + Off.PAGE_STAT)) 3
def hollowPage (b : Base) (page : Nat) : Bool := bitOf (rd b (page + Off.PAGE_STAT)) 4

end Sys2Proof.Machine
end

