-- ==== Sys2Proof/Machine/Events.lean ====
section
/-! DEFINITION. Events: EVT_STAT, capture, event records and where they go, the hub event ring, a VF's event ring and
vectors, the error pins, and messages the hub puts in the MSP outbox (R42–R46, R335, R336, R411, R441, R447, R464). -/

namespace Sys2Proof.Machine

/-- The package's registers and base changed. -/
def Package.mapBase (p : Package) (f : Base → Base) : Package := { p with base := f p.base }

/-- A register of the package, and a register or field written without any of a control write's checks. -/
def Package.rd (p : Package) (a : Nat) : Nat := Machine.rd p.base a
def Package.rdF (p : Package) (a hi lo : Nat) : Nat := Machine.rdF p.base a hi lo
def Package.wr (p : Package) (a v : Nat) : Package := p.mapBase fun b => Machine.wr b a v
def Package.wrF (p : Package) (a hi lo v : Nat) : Package := p.mapBase fun b => Machine.wrF b a hi lo v
def Package.count (p : Package) (a : Nat) : Package := p.mapBase fun b => Machine.count b a 1

/-- Whether the active hub is the one on L1 (KINDLE_STAT.HUB, R318). -/
def Package.hubL1 (p : Package) : Bool := bitOf (p.rd (kindlePage + Off.KINDLE_STAT)) 6

/-- Global time of an element in ns (R434). -/
def Base.gtime (b : Base) : Nat := b.time.now

/-- The virtual function a hosted pitch holds; 0 for none (R263). -/
def Package.vfOf (p : Package) (pitch : Nat) : Nat := mget 0 p.hub.hosted pitch

/-! ## Messages to the tray controller (R410, R411) -/

/-- A message's words: header and content. -/
def mspMessage (type : Nat) (content : Bytes) : List Word :=
  let n := (content.length + 3) / 4
  w32 (type * 2 ^ 24 + n) :: bytesToWords n content

/-- The hub, or a Weir image, places a whole message in the outbox of 1,024 words; one that does not fit is dropped (log 9). -/
def sendTc (b : Base) (type : Nat) (content : Bytes) : Base :=
  let m := mspMessage type content
  if b.msp.outbox.length + m.length ≤ 1024 then { b with msp := { b.msp with outbox := b.msp.outbox ++ m } } else b

/-! ## The hub event ring (R441) -/

/-- A 32-bit serial number's successor that skips 0 (R441). -/
def nextRseq (n : Nat) : Nat := if (n + 1) % 2 ^ 32 = 0 then 1 else (n + 1) % 2 ^ 32

/-- The 32 bytes of a hub event ring record (R441). -/
def ringRecord (rseq time type sev page : Nat) (payload : Bytes) : Bytes :=
  le 4 rseq ++ le 8 time ++ le 1 type ++ le 1 sev ++ le 2 page ++ (payload ++ zeros 16).take 16

/-- A record joins the ring, unless sealing froze it (R460), under the next RSEQ; a full ring overwrites its oldest. Error and strike-request records are
copied to the tray controller (R411; log 10). The second value says that a record was overwritten. -/
def ringAppend (p : Package) (type sev page : Nat) (payload : Bytes) : Package × Bool :=
  if p.hub.ringFrozen then (p, false)
  else
    let head := hubPage 3 + Off.RING_HEAD
    let n := p.rd head
    let rec' := ringRecord n p.base.gtime type sev page payload
    let overw := decide (4096 ≤ p.hub.ring.length)
    let ring := (if overw then p.hub.ring.drop 1 else p.hub.ring) ++ [(n, rec')]
    let p := { p with hub := { p.hub with ring := ring } }
    let p := p.wr head (nextRseq n)
    let p := if overw then p.mapBase fun b => bumpSat b (hubPage 3 + Off.RING_OVERWRITTEN) 1 else p
    let p := if 2 ≤ sev then p.mapBase fun b => sendTc b 0x06 rec' else p
    (p, overw)

/-! ## Host messages -/

/-- Whether the host interface may issue requests for function `fn`: not in D3hot (R324). -/
def Package.dmaOk (p : Package) (fn : Nat) : Bool := !p.host.d3.contains fn

/-- A posted write into host memory for function `fn` (R324). -/
def hostWrite (p : Package) (fn addr : Nat) (data : Bytes) : Package :=
  if p.dmaOk fn then { p with host := { p.host with outMsgs := p.host.outMsgs ++ [.write addr data] } } else p

/-- An MSI-X message of function `fn`. -/
def hostMsix (p : Package) (fn vec : Nat) : Package :=
  if p.dmaOk fn then { p with host := { p.host with outMsgs := p.host.outMsgs ++ [.msix fn vec] } } else p

/-- The 64-byte shadow of VF `v` (R334). -/
def shadowBytes (p : Package) (v : Nat) : Bytes :=
  let a := vfPage v
  ((List.range 4).flatMap fun h => le 4 (p.rd (a + Off.HH_ACC + 0x40 * h)) ++ le 4 (p.rd (a + Off.HH_DONE + 0x40 * h)))
    ++ le 4 (p.rd (a + Off.HCQ_PROD)) ++ le 4 (p.rd (a + Off.HEQ_PROD)) ++ le 8 p.base.gtime ++ zeros 16

/-- VF `v`'s bookkeeping, and it replaced. -/
def Package.vf (p : Package) (v : Nat) : Vf := mget {} p.host.vfs v
def Package.setVf (p : Package) (v : Nat) (x : Vf) : Package :=
  { p with host := { p.host with vfs := mset p.host.vfs v x } }

/-- The device writes the shadow, where SHADOW_CTL.ENABLE is 1, and the function is not in D3hot (R324, R334). -/
def writeShadow (p : Package) (v : Nat) : Package :=
  let a := vfPage v
  if bitOf (p.rd (a + Off.SHADOW_CTL)) 0 && p.dmaOk v then
    let p := hostWrite p v (p.rd (a + Off.SHADOW_BASE_LO) / 64 * 64 + p.rd (a + Off.SHADOW_BASE_HI) * 2 ^ 32) (shadowBytes p v)
    p.setVf v { p.vf v with shadowDirty := false }
  else p

/-- A field of VF `v`'s shadow has changed (R334). -/
def touchShadow (p : Package) (v : Nat) : Package := p.setVf v { p.vf v with shadowDirty := true }

/-- VF `v` signals vector 0 or 1, after its shadow, unless the vector's holdoff runs (R334, R336) or the function is in D3hot (R324;
log 129): then it waits. -/
def vfSignal (p : Package) (v vec : Nat) : Package :=
  let x := p.vf v
  if nth false x.holdoff vec || !p.dmaOk v then p.setVf v { x with pendingVec := setNth x.pendingVec vec true }
  else
    let p := hostMsix (writeShadow p v) v vec
    let cfg := vfPage v + (if vec = 0 then Off.HCQ_CFG else Off.HEQ_CFG)
    if p.rdF cfg 25 16 = 0 then p
    else
      let x := p.vf v
      p.setVf v { x with holdoff := setNth x.holdoff vec true }

/-- Event records of VF `v` are lost: they are counted in HEQ_LOST (R335, R338), whatever FREEZE
holds: the manual does not say which counters are statistics counters (DEDUCED, log 176). -/
def vfEventLost (p : Package) (v n : Nat) : Package :=
  let p := p.mapBase fun b => bumpSat b (vfPage v + Off.HEQ_LOST) n
  let x := p.vf v
  p.setVf v { x with lostSince := x.lostSince + n }

/-- Whether the event ring of VF `v` has a place (R335). -/
def heqRoom (p : Package) (v : Nat) : Bool :=
  let a := vfPage v
  let e := (p.rd (a + Off.HEQ_PROD) + 1) % 2 ^ 32
  decide (serialDist 32 e (p.rd (a + Off.HEQ_CONS)) ≤ 2 ^ p.rdF (a + Off.HEQ_CFG) 3 0 - 1)

/-- A record is written into VF `v`'s event ring under the next ESEQ, and vector 1 is signalled (R335, R336). -/
def heqWrite (p : Package) (v : Nat) (head : Bytes) (tail : Bytes) : Package :=
  let a := vfPage v
  let e := (p.rd (a + Off.HEQ_PROD) + 1) % 2 ^ 32
  let base := p.rd (a + Off.HEQ_BASE_LO) / 4096 * 4096 + p.rd (a + Off.HEQ_BASE_HI) * 2 ^ 32
  let rec' := (head ++ le 4 e ++ le 8 p.base.gtime ++ tail ++ zeros 16).take 32
  let p := hostWrite p v (base + 32 * (e % 2 ^ p.rdF (a + Off.HEQ_CFG) 3 0)) rec'
  vfSignal (touchShadow (p.wr (a + Off.HEQ_PROD) e) v) v 1

/-- An event record for VF `v`: written, or counted as lost where the ring is full or not committed, or the function is in D3hot (R324, R335,
R338; logs 11 and 129). -/
def vfEvent (p : Package) (v : Nat) (head tail : Bytes) : Package :=
  if bitOf (p.rd (vfPage v + Off.HEQ_CFG)) 8 && p.dmaOk v && heqRoom p v then heqWrite p v head tail else vfEventLost p v 1

/-! ## Pins (R447) -/

/-- One qualifying record gives a pulse of ERR_CORR_N; up to 255 wait, and the rest merge. -/
def pulseCorr (x : Pins) : Pins :=
  if x.corrPulse then { x with corrWait := min 255 (x.corrWait + 1) } else { x with corrPulse := true }

/-! ## Page events -/

/-- What an event carries for its capture (R46, R464). -/
structure Capt where
  c2 : Nat := 0
  c3 : Nat := 0
  pitch : Nat := 0
  src : Option (Nat × Nat) := none
  deriving DecidableEq, Repr

/-- ERR_CAPT0 of an event (R46). -/
def capt0 (bit : Nat) (valid : Bool) (c : Capt) : Nat :=
  bit + b2n valid * 2 ^ 5 + c.pitch % 4096 * 2 ^ 8 +
    (match c.src with
     | some (r, s) => 2 ^ 7 + r % 16 * 2 ^ 20 + s % 64 * 2 ^ 24
     | none => 0)

/-- Whether bit `bit` of page `a` is an error event (R46). -/
def isErrEvt (hubL1 : Bool) (a bit : Nat) : Bool :=
  if bit = 24 ∨ bit = 25 then true
  else if 26 ≤ bit then false
  else bitOf (((pageKind hubL1 (clsOf a) (instOf a)).map PKind.errBits).getD 0) bit

/-- The record of an event goes to the hub event ring and where EVT_ROUTE says (R43–R45, R441, R447); the second value
says that the ring overwrote a record. -/
def sendRecordTo (p : Package) (a bit : Nat) (err forced : Bool) (c0 c2 c3 : Nat) : Package × Bool :=
  let z := fun x => if err && !forced then x else 0
  let payload := le 1 (bit + b2n forced * 32) ++ le 1 0 ++ le 4 (z c0) ++ le 4 (z c2) ++ le 4 (z c3) ++ le 2 0
  let (p, overw) := ringAppend p 1 (if err then 2 else 0) (a / 0x1000) payload
  let route := p.rd (a + Off.EVT_ROUTE)
  let p := if bitOf route 0 then hostMsix p 0 (fld route 26 16) else p
  let v := p.vfOf (ownerOf p.base a)
  let p :=
    if bitOf route 1 ∧ ownerOf p.base a ≠ 0 ∧ v ≠ 0 then
      vfEvent p v (le 1 1 ++ le 1 (bit + b2n forced * 32) ++ le 2 (a / 0x1000)) (le 4 (z c2) ++ le 4 (z c3))
    else p
  let p :=
    if bitOf route 2 then
      p.mapBase fun b =>
        { b with pins := if err then { b.pins with fatalBits := b.pins.fatalBits ++ [a * 32 + bit] } else pulseCorr b.pins }
    else p
  (p, overw)

/-- The record of an event is sent; an overwrite raises RING_OVERWRITE on the ring page while its bit is 0 (R442). -/
def sendRecord (p : Package) (a bit : Nat) (err forced : Bool) (c0 c2 c3 : Nat) : Package :=
  let (p, overw) := sendRecordTo p a bit err forced c0 c2 c3
  let r := hubPage 3
  if overw && !bitOf (p.rd (r + Off.EVT_STAT)) 2 then
    let p := p.wrF (r + Off.EVT_STAT) 2 2 1
    if bitOf (p.rd (r + Off.EVT_EN)) 2 then (sendRecordTo p r 2 false false 0 0 0).1 else p
  else p

/-- EVT_STAT bit `bit` of page `a` is set; a bit that rises with its EVT_EN bit set sends a record (R43). -/
def setEvtBit (p : Package) (a bit : Nat) (err forced : Bool) (c0 c2 c3 : Nat) : Package :=
  let st := p.rd (a + Off.EVT_STAT)
  let q := p.wr (a + Off.EVT_STAT) (setBit st bit true)
  if !bitOf st bit && bitOf (p.rd (a + Off.EVT_EN)) bit then sendRecord q a bit err forced c0 c2 c3 else q

/-- An event of page `a` occurs: an error event captures while VALID and FREEZE are 0, and else sets CAPT_LOST (R43, R46). -/
def raise (p : Package) (a bit : Nat) (c : Capt) : Package :=
  if isErrEvt p.hubL1 a bit then
    let can := !bitOf (p.rd (a + Off.ERR_CAPT0)) 5 && !frozen p.base a
    let q :=
      if can then
        (((p.wr (a + Off.ERR_CAPT0) (capt0 bit true c)).wr (a + Off.ERR_CAPT1) p.base.gtime).wr (a + Off.ERR_CAPT2) c.c2).wr
          (a + Off.ERR_CAPT3) c.c3
      else p
    let q := setEvtBit q a bit true false (capt0 bit can c) c.c2 c.c3
    if can then q else setEvtBit q a 26 false false 0 0 0
  else setEvtBit p a bit false false 0 0 0

/-- Several events of one cycle: the lowest-numbered error event captures (R46). -/
def raiseAll (p : Package) (evs : List (Nat × Nat × Capt)) : Package := evs.foldl (fun p e => raise p e.1 e.2.1 e.2.2) p

/-- A forced event: its bit is set and its record sent, without capture (R43). -/
def forceEvt (p : Package) (a bit : Nat) : Package := setEvtBit p a bit (isErrEvt p.hubL1 a bit) true 0 0 0

/-- Clearing EVT_STAT bits: each written 1 clears; the captured bit releases ERR_CAPT, and ERR_FATAL_N loses its holders
(R46, R447). -/
def clearEvt (p : Package) (a v : Nat) : Package :=
  let st := p.rd (a + Off.EVT_STAT)
  let p := p.wr (a + Off.EVT_STAT) (mergeBits st 0 (v % 2 ^ 27))
  let c0 := p.rd (a + Off.ERR_CAPT0)
  let p := if bitOf c0 5 && bitOf v (fld c0 4 0) then p.wr (a + Off.ERR_CAPT0) (setBit c0 5 false) else p
  p.mapBase fun b =>
    { b with pins := { b.pins with fatalBits := b.pins.fatalBits.filter fun x => !(x / 32 = a && bitOf v (x % 32)) } }

/-- A cross-pitch access is recorded on a page with its target address (R20, R46, R144, R269). -/
def crossPitch (p : Package) (a pitch target : Nat) (src : Option (Nat × Nat)) : Package :=
  raise p a 25 { c2 := target % 2 ^ 32, c3 := target / 2 ^ 32, pitch := pitch, src := src }

/-- A global fabric address (R24). -/
def globalAddr (rack slot space off : Nat) : Nat := rack * 2 ^ 56 + slot * 2 ^ 50 + space * 2 ^ 48 + off

/-- A flagged counter of a page moves up by `n`; a wrap raises event `bit` of the page (R430, R432). -/
def countFlagged (p : Package) (a n bit : Nat) : Package :=
  let (b, wraps) := countWide p.base a n
  let p := { p with base := b }
  if wraps then raise p (pageOf a) bit {} else p

end Sys2Proof.Machine
end

