-- ==== Sys2Proof/Machine/Memory.lean ====
section
/-! DEFINITION. Package memory space: the map, aliases, ownership, scrub bitmaps, ECC marks, hollow units, and the read and
write every engine, core and remote access goes through (R26–R28, R85, R115, R119, R120, R122, R281–R285, R313). -/

namespace Sys2Proof.Machine

/-! ## The map (R26, R27, R115) -/

/-- Bytes of exposed DRAM, and of one stack (R26). -/
def dramSize : Nat := 0x4800000000
def stackSize : Nat := 0x900000000
/-- Bytes of one tile's SRAM, where tile `t`'s window starts, and where the interleaved alias starts (R26). -/
def sramSize : Nat := 0x50000000
def sramBase (t : Nat) : Nat := 0x8000000000 + t * 0x80000000
def ilvBase : Nat := 0x10000000000

/-- Logical tiles that exist: sixteen until bring-up step 2 has numbered them (R313, R320; log 12). -/
def Package.tiles (p : Package) : Nat :=
  if 3 ≤ p.rdF (kindlePage + Off.BRINGUP_STAT) 2 0 then p.rdF (hubPage 1 + Off.LTILE_COUNT) 4 0 else 16

/-- A region of R26. -/
inductive Region where
  | dram | sram (t : Nat) | ilv
  deriving DecidableEq, Repr

/-- The region an offset lies in; a hidden tile's window is a hole (R26, R313). -/
def regionOf (p : Package) (off : Nat) : Option Region :=
  if off < dramSize then some .dram
  else if ilvBase ≤ off ∧ off < ilvBase + dramSize then some .ilv
  else if sramBase 0 ≤ off ∧ off < sramBase 16 ∧ (off - sramBase 0) % 0x80000000 < sramSize
      ∧ (off - sramBase 0) / 0x80000000 < p.tiles then
    some (.sram ((off - sramBase 0) / 0x80000000))
  else none

/-- An access lies wholly inside one region (R27). -/
def inRegion (p : Package) (off len : Nat) : Bool :=
  decide (0 < len) && (regionOf p off).isSome && decide (regionOf p off = regionOf p (off + len - 1))
    && decide (off + len ≤ 2 ^ 48) &&
    (match regionOf p off with
     | some (.sram t) => decide (off + len ≤ sramBase t + sramSize)
     | _ => true)

/-- The stack of a granule number of the interleaved alias (R115). -/
def ilvStack (hash g : Nat) : Nat :=
  if hash = 1 then g % 8
  else (List.range 10).foldl (fun s i => s ^^^ (g % 2 ^ 28 / 8 ^ i % 8)) 0

/-- The exposed offset an interleaved offset reaches (R115). -/
def ilvToExposed (hash x : Nat) : Nat :=
  let g := x / 0x800
  ilvStack hash g * stackSize + g / 8 * 0x800 + x % 0x800

/-- ILV_HASH of MEM_CFG on M0 (R116). -/
def Package.ilvHash (p : Package) : Nat := p.rdF (pg 0x22 0 + Off.MEM_CFG) 5 4

/-- The exposed or SRAM offset of the byte that a package memory offset reaches (R28). -/
def canon (p : Package) (off : Nat) : Nat := if ilvBase ≤ off then ilvToExposed p.ilvHash (off - ilvBase) else off

/-- The bytes an access reaches, in its order. -/
def canonRange (p : Package) (off len : Nat) : List Nat := (List.range len).map fun i => canon p (off + i)

/-- The stack of an exposed offset, and the tile of an SRAM offset. -/
def stackOf (c : Nat) : Nat := c / stackSize
def tileOf (c : Nat) : Nat := (c - sramBase 0) / 0x80000000

/-! ## Ownership (R28, R262, R263) -/

/-- Whether a pitch owns a byte: pitch 0 owns all; a tile's SRAM goes with the tile, DRAM with its ranges (R262, R263). -/
def ownsByte (p : Package) (pitch c : Nat) : Bool :=
  if pitch = 0 then true
  else if c < dramSize then p.hub.ranges.any fun r => decide (r.pitch = pitch ∧ r.start ≤ c ∧ c < r.start + r.len)
  else decide (ownerOf p.base (tilePage (tileOf c) 0) = pitch)

/-- The first byte of an access that a pitch does not own. -/
def firstForeign (p : Package) (pitch off len : Nat) : Option Nat :=
  ((List.range len).find? fun i => !ownsByte p pitch (canon p (off + i))).map fun i => off + i

/-- A pitch owns every byte of an access. -/
def ownsRange (p : Package) (pitch off len : Nat) : Bool := (firstForeign p pitch off len).isNone

/-! ## Hollow and waiting units -/

/-- A stack is hollow or offline (R122). -/
def stackDead (p : Package) (s : Nat) : Bool :=
  let st := p.rd (stackPage s + Off.STACK_STAT)
  bitOf st 1 || bitOf st 2

/-- The unit of a byte is hollow (R122, R285). -/
def deadAt (p : Package) (c : Nat) : Bool :=
  if c < dramSize then stackDead p (stackOf c) else hollowPage p.base (tilePage (tileOf c) 0)

/-- A byte's die serves accesses now: the memory die is enabled and the stack trained, hollow or offline, no repair runs in the tile
(R117, R122, R465). -/
def servesAt (p : Package) (c : Nat) : Bool :=
  if c < dramSize then
    enabledPage p.base (pg (0x22 + stackOf c / 4) 0) &&
      (stackDead p (stackOf c) || bitOf (p.rd (stackPage (stackOf c) + Off.STACK_STAT)) 0)
  else (mfind (tileOf c) p.mem.repairing).isNone

/-! ## Scrub bitmaps (R281–R284, R287) -/

/-- The scrub granule of a byte: 2 MiB of DRAM, 64 KiB of a tile's SRAM (R281). -/
def dramGranule (c : Nat) : Nat := c / 0x200000
def sramGranule (c : Nat) : Nat := (c - sramBase (tileOf c)) / 0x10000

/-- The scrub unit of a byte: its tile, or 16 and its stack; and its granule within the unit (R281). -/
def scrubUnit (c : Nat) : Nat × Nat :=
  if c < dramSize then (16 + stackOf c, dramGranule c % 18432) else (tileOf c, sramGranule c)

/-- A write waits for a byte's granule to be zeroed (R283). -/
def zeroQueued (p : Package) (c : Nat) : Bool := p.mem.zeroWait.any fun w => decide ((w.1, w.2.1) = scrubUnit c)

/-- Every byte of an access is served now, behind no earlier write that waits; else its engine stalls without error (R87, R117,
R118). -/
def memReady (p : Package) (off len : Nat) : Bool := (canonRange p off len).all fun c => servesAt p c && !zeroQueued p c

/-- The SCRUB_MAP register and bit of granule `g` of tile `t` (R287). -/
def scrubReg (t g : Nat) : Nat := tilePage t (4 + g / 5120) + Off.SCRUB_MAP + 4 * (g % 5120 / 32)

/-- A byte lies in an unscrubbed granule. -/
def unscrubbed (p : Package) (c : Nat) : Bool :=
  if c < dramSize then !p.mem.dramClean.contains (dramGranule c)
  else bitOf (p.rd (scrubReg (tileOf c) (sramGranule c))) (sramGranule c % 32)

/-- The granule's first byte and its length. -/
def granuleRange (c : Nat) : Nat × Nat :=
  if c < dramSize then (c / 0x200000 * 0x200000, 0x200000)
  else (sramBase (tileOf c) + sramGranule c * 0x10000, 0x10000)

/-- The granule of a byte is zero from now on, its ECC marks are gone and its bit is clear; a tile whose count reaches 0
raises SCRUB_DONE (R283, R284, R288). -/
def zeroGranule (p : Package) (c : Nat) : Package :=
  let (a, n) := granuleRange c
  let m := { p.mem with
    cells := memZero p.mem.cells a n
    sramBad := p.mem.sramBad.filter fun w => decide (w * 8 < a ∨ a + n ≤ w * 8)
    sramFix := p.mem.sramFix.filter fun w => decide (w * 8 < a ∨ a + n ≤ w * 8)
    dramBad := p.mem.dramBad.filter fun s => decide (s * 32 < a ∨ a + n ≤ s * 32)
    dramFix := p.mem.dramFix.filter fun s => decide (s * 32 < a ∨ a + n ≤ s * 32) }
  if c < dramSize then
    let g := dramGranule c
    { p with mem := { m with dramClean := if m.dramClean.contains g then m.dramClean else m.dramClean ++ [g] } }
  else
    let t := tileOf c
    let g := sramGranule c
    let r := scrubReg t g
    let cnt := tilePage t 4 + Off.SCRUB_COUNT
    if bitOf (p.rd r) (g % 32) then
      let n := p.rd cnt - 1
      let q := { (p.wr r (setBit (p.rd r) (g % 32) false)).wr cnt n with mem := m }
      if n = 0 then raise q (tilePage t 4) 0 {} else q
    else { p with mem := m }

/-! ## ECC (R85, R119, R122) -/

/-- The die ID behind a logical tile (R57, R109). -/
def Package.dieOfTile (p : Package) (t : Nat) : Nat := p.rdF (tilePage t 0 + Off.TILE_INFO) 3 0

/-- A line of a tile's SRAM is read and found uncorrectable (R85, R110). -/
def sramUncorrected (p : Package) (c : Nat) : Package :=
  let t := tileOf c
  let off := (c - sramBase t) / 64 * 64
  raise (p.count (tilePage t 0 + Off.SRAM_UE_CNT)) (tilePage t 0) 1 { c2 := off, c3 := off / 64 % 80 }

/-- A line of a tile's SRAM is read and corrected (R85, R109). -/
def sramCorrected (p : Package) (c : Nat) : Package :=
  let t := tileOf c
  raise (p.count (tilePage t 0 + Off.SRAM_CE_CNT)) (tilePage t 0) 0 {}

/-- Stack `s`, and it replaced. -/
def Package.stack (p : Package) (s : Nat) : Stack := mget {} p.mem.stackSt s
def Package.setStack (p : Package) (s : Nat) (x : Stack) : Package :=
  { p with mem := { p.mem with stackSt := mset p.mem.stackSt s x } }

/-- A stack fails late: it is hollow and fenced, and STACK_FAILED is raised with its reason (R122, R132, R285). -/
def stackFails (p : Package) (s reason : Nat) : Package :=
  let a := stackPage s
  let p := p.wrF (a + Off.STACK_STAT) 1 1 1
  let p := (p.wrF (a + Off.PAGE_STAT) 4 4 1).wrF (a + Off.PAGE_STAT) 2 2 1
  raise p a 2 { c2 := reason }

/-- A sector of DRAM is found uncorrectable: counted, recorded and raised; the seventeenth distinct sector within 1 s
makes the stack fail (R119, R122, R131, R132). `die` is the requesting die, 255 for patrol. -/
def dramUncorrected (p : Package) (c die : Nat) (patrol : Bool) : Package :=
  let s := stackOf c
  let a := stackPage s
  let off := c / 32 * 32
  let p := p.count (a + Off.DRAM_UE_CNT)
  let p := p.mapBase fun b => wr64 b (a + Off.LAST_UE) off
  let p := raise p a 1 { c2 := off % 2 ^ 32, c3 := off / 2 ^ 32 + b2n patrol * 2 ^ 16 + die * 2 ^ 24 }
  let x := p.stack s
  let now := p.base.gtime
  let recent := (x.ueTimes.filter fun e => decide (now < e.2 + 1000000000 ∧ e.1 ≠ off)) ++ [(off, now)]
  let p := p.setStack s { x with ueTimes := recent }
  if 16 < recent.length ∧ !stackDead p s then stackFails p s 2 else p

/-- A sector of DRAM is read and corrected (R119, R132). -/
def dramCorrected (p : Package) (c : Nat) : Package :=
  let a := stackPage (stackOf c)
  raise (p.count (a + Off.DRAM_CE_CNT)) a 0 {}

/-- A byte's line or sector reads uncorrectable; a granule that reads as zero is not read at all (R85, R119, R282). -/
def badAt (p : Package) (c : Nat) : Bool :=
  !unscrubbed p c &&
    (if c < dramSize then p.mem.dramBad.contains (c / 32)
     else p.mem.sramBad.any fun w => decide (w / 8 = c / 64))

/-- The representative byte of a byte's ECC unit: its line's or its sector's first. -/
def eccUnit (c : Nat) : Nat := if c < dramSize then c / 32 * 32 else c / 64 * 64

/-- A list without repeats. -/
def dedup (l : List Nat) : List Nat := l.foldl (fun acc x => if acc.contains x then acc else acc ++ [x]) []

/-! ## Reading -/

/-- The value a byte reads as: zero in an unscrubbed granule (R282). -/
def byteValue (p : Package) (c : Nat) : Byte := if unscrubbed p c then 0 else memByte p.mem.cells c

/-- One byte as any reader sees it: none where it lies on a hollow unit or in a withheld line or sector. -/
def byteRead (p : Package) (c : Nat) : Option Byte :=
  if deadAt p c || badAt p c then none else some (byteValue p c)

/-- A byte's line or sector reads corrected: a line may hold both kinds of word, a sector is one or the other (R85, R119). -/
def softAt (p : Package) (c : Nat) : Bool :=
  !unscrubbed p c &&
    (if c < dramSize then p.mem.dramFix.contains (c / 32) && !badAt p c else p.mem.sramFix.any fun w => decide (w / 8 = c / 64))

/-- The lines and sectors an access corrects are counted, and those it finds uncorrectable are counted and raised: each once
(R85, R109, R119). -/
def noteBad (p : Package) (cs : List Nat) (die : Nat) : Package :=
  let live := cs.filter fun c => !deadAt p c
  let soft := dedup ((live.filter (softAt p)).map eccUnit)
  let hard := dedup ((live.filter (badAt p)).map eccUnit)
  let p := soft.foldl (fun p c => if c < dramSize then dramCorrected p c else sramCorrected p c) p
  hard.foldl (fun p c => if c < dramSize then dramUncorrected p c die false else sramUncorrected p c) p

/-- A read by die `die`: the package, the status (0 OK, 6 HOLLOW_UNIT, 8 DATA_UNCORRECTABLE) and the bytes, none where
withheld. A read that makes its stack fail ends with the stack (R122). -/
def readMem (p : Package) (die off len : Nat) : Package × Nat × List (Option Byte) :=
  let cs := canonRange p off len
  let q := noteBad p cs die
  let st := if cs.any (deadAt q) then 6 else if cs.any (badAt p) then 8 else 0
  (q, st, cs.map fun c => if deadAt q c then none else byteRead p c)

/-- A read whose withheld bytes stand as zero: for readers that use the bytes only when the status is OK. -/
def readBytes (p : Package) (die off len : Nat) : Package × Nat × Bytes :=
  let (p, st, bs) := readMem p die off len
  (p, st, bs.map fun b => b.getD 0)

/-! ## Writing -/

/-- The bytes of an access, one by one: its offsets reached and the byte each takes. -/
def targets (p : Package) (off : Nat) (b : List (Option Byte)) : List (Nat × Byte) :=
  (List.range b.length).filterMap fun i =>
    match nth none b i with
    | some x => some (canon p (off + i), x)
    | none => none

/-- The unit that a partial write must read first: an 8-byte word of SRAM, a 32-byte sector of DRAM (R85, R120). -/
def rmwUnit (c : Nat) : Nat := if c < dramSize then c / 32 * 32 else c / 8 * 8
def rmwSize (c : Nat) : Nat := if c < dramSize then 32 else 8

/-- The unit of `c` itself reads uncorrectable, or corrected. -/
def unitBad (p : Package) (c : Nat) : Bool :=
  if c < dramSize then p.mem.dramBad.contains (c / 32) else p.mem.sramBad.contains (c / 8)
def unitSoft (p : Package) (c : Nat) : Bool :=
  !unitBad p c && if c < dramSize then p.mem.dramFix.contains (c / 32) else p.mem.sramFix.contains (c / 8)

/-- A write of `cs` covers the whole unit of `c`. -/
def coversUnit (cs : List Nat) (c : Nat) : Bool :=
  (List.range (rmwSize c)).all fun i => cs.contains (rmwUnit c + i)

/-- One byte takes its value; a granule that is unscrubbed is zeroed first (R283). -/
def putByte (p : Package) (c : Nat) (x : Byte) : Package :=
  let p := if unscrubbed p c then zeroGranule p c else p
  { p with mem := { p.mem with cells := memSet p.mem.cells c x } }

/-- A unit wholly written, or read corrected and written, is encoded anew (R85, R119, R120). -/
def repairUnit (p : Package) (c : Nat) : Package :=
  if c < dramSize then { p with mem := { p.mem with dramBad := p.mem.dramBad.filter (· ≠ c / 32),
                                                    dramFix := p.mem.dramFix.filter (· ≠ c / 32) } }
  else { p with mem := { p.mem with sramBad := p.mem.sramBad.filter (· ≠ c / 8),
                                    sramFix := p.mem.sramFix.filter (· ≠ c / 8) } }

/-- A write by die `die` of the bytes that are given: the package and the status. Bytes on hollow units and in words or
sectors that are partly covered and uncorrectable are not written; the others are (R85, R120, R122, R283). Each word or sector that is
read first and found in error counts (R109; log 23), once for each word of a line that has several (DEDUCED, log 184). -/
def writeMem (p : Package) (die off : Nat) (b : List (Option Byte)) : Package × Nat :=
  let ts := targets p off b
  let live := ts.filter fun t => !deadAt p t.1
  let cs := live.map fun t => t.1
  let lost := fun (t : Nat × Byte) => !unscrubbed p t.1 && unitBad p t.1 && !coversUnit cs t.1
  let mended := fun (t : Nat × Byte) => !unscrubbed p t.1 && unitSoft p t.1 && !coversUnit cs t.1
  let bad := dedup ((live.filter lost).map fun t => rmwUnit t.1)
  let soft := dedup ((live.filter mended).map fun t => rmwUnit t.1)
  let good := live.filter fun t => !lost t
  let fixed := dedup ((good.filter fun t => unitBad p t.1 || unitSoft p t.1).map fun t => rmwUnit t.1)
  let p := soft.foldl (fun p c => if c < dramSize then dramCorrected p c else sramCorrected p c) p
  let p := bad.foldl (fun p c => if c < dramSize then dramUncorrected p c die false else sramUncorrected p c) p
  let dead := decide (live.length < ts.length) || bad.any (deadAt p)
  let p := good.foldl (fun p t => putByte p t.1 t.2) p
  let p := fixed.foldl repairUnit p
  (p, if dead then 6 else if bad.isEmpty then 0 else 8)

/-- A write of plain bytes. -/
def writeBytes (p : Package) (die off : Nat) (b : Bytes) : Package × Nat := writeMem p die off (b.map some)

/-- Units marked uncorrectable from now on. -/
def markBad (p : Package) (c : Nat) : Package :=
  if c < dramSize then
    { p with mem := { p.mem with dramBad := if p.mem.dramBad.contains (c / 32) then p.mem.dramBad else p.mem.dramBad ++ [c / 32] } }
  else
    { p with mem := { p.mem with sramBad := if p.mem.sramBad.contains (c / 8) then p.mem.sramBad else p.mem.sramBad ++ [c / 8] } }

/-- Units marked correctable from now on. -/
def markSoft (p : Package) (c : Nat) : Package :=
  if c < dramSize then { p with mem := { p.mem with dramFix := dedup (p.mem.dramFix ++ [c / 32]) } }
  else { p with mem := { p.mem with sramFix := dedup (p.mem.sramFix ++ [c / 8]) } }

/-- Every scrub bit of stacks and tiles is set: memory reads as zero (R281). SCRUB_MAP and SCRUB_COUNT are K fields and
are restored with the registers. -/
def unscrubDram (p : Package) (cover : Nat → Bool) : Package :=
  { p with mem := { p.mem with dramClean := p.mem.dramClean.filter fun g => !cover g } }

/-- Every SRAM scrub bit of tile `t` is set (R273, R281). -/
def unscrubTile (p : Package) (t : Nat) : Package :=
  p.mapBase fun b => { b with regs := b.regs.filter fun e =>
    !(decide (clsOf e.1 = 0x10 + t ∧ 4 ≤ instOf e.1 ∧ instOf e.1 ≤ 7 ∧ 0x80 ≤ offOf e.1)) }

end Sys2Proof.Machine
end

