-- ==== Sys2Proof/Machine/Pegs.lean ====
section
/-! DEFINITION. Pegs: ownership, the wait test, the operations with re-test and notify, waiter lists and remote bumps
(R134–R148). -/

namespace Sys2Proof.Machine

/-- Package peg `n`, and it replaced (R134). -/
def Package.peg (p : Package) (n : Nat) : Peg := mget {} p.tl.pegs n
def Package.setPeg (p : Package) (n : Nat) (x : Peg) : Package := { p with tl := { p.tl with pegs := mset p.tl.pegs n x } }

/-- The PEG_ALLOC register of package peg `n` (R150). -/
def pegAllocReg (n : Nat) : Nat := pegPage (n / 512) + Off.PEG_ALLOC + 4 * (n % 512)

/-- The peg number names a peg: below 8,192 and not on a hidden logical tile (R29, R313). -/
def pegExists (p : Package) (n : Nat) : Bool := decide (n < 8192 ∧ n / 512 < p.tiles)

/-- The pitch that owns a peg: its entry is committed, and its pitch is that of the peg's tile (R148). -/
def pegOwner (p : Package) (n : Nat) : Option Nat :=
  let a := p.rd (pegAllocReg n)
  if bitOf a 16 ∧ fld a 11 0 = ownerOf p.base (tilePage (n / 512) 0) then some (fld a 11 0) else none

/-- A pitch may operate on a peg; pitch 0 owns every peg for its own accesses (R148, R263; log 13). -/
def pegFor (p : Package) (pitch n : Nat) : Bool := pitch = 0 || pegOwner p n = some pitch

/-- The wait-until-at-least test (R135). -/
def waitPasses (counter v : Word) : Bool := decide ((counter - v).toNat < 2 ^ 31)

/-- The key of a hopper's queue: tile hopper `h` of tile `t`, or host hopper `h` of VF `v`. -/
def hopKey : HopRef → Nat
  | .tile t h => 4 * t + h
  | .host v h => 64 + 4 * v + h

/-- A hopper's queue of fetched descriptors, oldest first, and it replaced. -/
def Package.hop (p : Package) (r : HopRef) : List HopEntry := mget [] p.tl.hops (hopKey r)
def Package.setHop (p : Package) (r : HopRef) (q : List HopEntry) : Package :=
  { p with tl := { p.tl with hops := mset p.tl.hops (hopKey r) q } }

/-- The status register of a hopper (R111, R344). -/
def hopStatReg : HopRef → Nat
  | .tile t h => tilePage t 1 + Off.HOP_STAT + 0x20 * h
  | .host v h => vfPage v + Off.HH_STAT + 0x40 * h

/-- The logical tile a hopper works for: its own, or HH_CFG.TILE (R328). -/
def tileOfHop (p : Package) : HopRef → Nat
  | .tile t _ => t
  | .host v h => p.rdF (vfPage v + Off.HH_CFG + 0x40 * h) 11 8

/-- The pitch a hopper works for: its tile's, or its VF's (R99, R328). -/
def pitchOfHop (p : Package) : HopRef → Nat
  | .tile t _ => ownerOf p.base (tilePage t 0)
  | .host v _ => ownerOf p.base (vfPage v)

/-- Sequencer core `c` of tile `t`, and it replaced (R86). -/
def Package.core (p : Package) (t c : Nat) : SeqCore := mget {} p.tl.cores (2 * t + c)
def Package.setCore (p : Package) (t c : Nat) (x : SeqCore) : Package :=
  { p with tl := { p.tl with cores := mset p.tl.cores (2 * t + c) x } }

/-- CORE_STAT of a core (R112). -/
def coreStatReg (t c : Nat) : Nat := tilePage t 2 + Off.CORE_STAT + 0x10 * c

/-- The oldest waiting descriptor is released: it may issue (R142). -/
def releaseHead : List HopEntry → List HopEntry
  | [] => []
  | e :: q => if e.stage = .waiting then { e with stage := .decoded } :: q else e :: releaseHead q

/-- A released waiter: its descriptor may issue, or its core's wait is satisfied and its WFI resumes (R141, R142). -/
def releaseWaiter (n : Nat) (p : Package) : Waiter → Package
  | .hopper r _ => (p.setHop r (releaseHead (p.hop r))).wrF (hopStatReg r) 1 1 0
  | .core c v =>
    let x := p.core (c / 2) (c % 2)
    (p.setCore (c / 2) (c % 2) { x with armed := some (n % 512, v, true) }).wrF (coreStatReg (c / 2) (c % 2)) 2 2 0

/-- The value a waiter waits for. -/
def Waiter.value : Waiter → Nat
  | .hopper _ v => v
  | .core _ v => v

/-- Re-test of a peg's waiters: each whose test passes leaves the list and is released (R142). -/
def retest (p : Package) (n : Nat) : Package :=
  let x := p.peg n
  let go := x.waiters.filter fun w => waitPasses x.counter (w32 w.value)
  let stay := x.waiters.filter fun w => !waitPasses x.counter (w32 w.value)
  go.foldl (releaseWaiter n) (p.setPeg n { x with waiters := stay })

/-- A peg with NOTIFY whose test against TARGET passes now and failed before writes an event record for the owning
pitch's VF (R143). -/
def pegNotify (p : Package) (n : Nat) (before : Bool) : Package :=
  let x := p.peg n
  let a := p.rd (pegAllocReg n)
  if bitOf a 12 && waitPasses x.counter x.target && !before then
    match pegOwner p n with
    | some pitch =>
      let v := p.vfOf pitch
      if pitch = 0 ∨ v = 0 then p
      else vfEvent p v (le 1 2 ++ zeros 3) (le 4 n ++ le 4 x.counter.toNat)
    | none => p
  else p

/-- The operations of a peg (R136–R139). -/
inductive PegOp where
  | add (v : Nat) | set (v : Nat) | setTarget (v : Nat)
  deriving DecidableEq, Repr

/-- One operation applied to a peg: the new state, the re-test of its waiters, the notify, and PEG_OPS (R136, R137, R142,
R143, R150). -/
def pegApply (p : Package) (n : Nat) (op : PegOp) : Package :=
  let x := p.peg n
  let before := waitPasses x.counter x.target
  let y := match op with
    | .add v => { x with counter := x.counter + w32 v }
    | .set v => { x with counter := w32 v }
    | .setTarget v => { x with target := w32 v }
  let p := retest (p.setPeg n y) n
  let p := pegNotify p n before
  countFlagged p (pegPage (n / 512) + Off.PEG_OPS) 1 0

/-- A remote bump at its target: 0 applied, 0x50 refused, 0x51 on a hollow tile (R145, R151). -/
def remoteBumpAt (p : Package) (pitch n v : Nat) (src : Option (Nat × Nat)) : Package × Nat :=
  let addr := globalAddr p.base.rack p.base.pos 2 (n * 16)
  if !pegExists p n then (crossPitch p (hubPage 0) pitch addr src, 0x50)
  else if hollowPage p.base (tilePage (n / 512) 0) then (p, 0x51)
  else if pegFor p pitch n then (pegApply p n (.add v), 0)
  else (crossPitch p (pegPage (n / 512)) pitch addr src, 0x50)

/-- A core arms its single wait on local peg `k`: any earlier arm is replaced; the wait is satisfied at once or the core
joins the list (R141). -/
def armCore (p : Package) (t c k v : Nat) : Package :=
  let me := 2 * t + c
  let drop := fun (w : Waiter) => match w with
    | .core c' _ => decide (c' ≠ me)
    | .hopper .. => true
  let p := match (p.core t c).armed with
    | some (k', _, _) =>
      let y := p.peg (512 * t + k')
      p.setPeg (512 * t + k') { y with waiters := y.waiters.filter drop }
    | none => p
  let n := 512 * t + k
  let x := p.peg n
  let ok := waitPasses x.counter (w32 v)
  let p := if ok then p.wrF (coreStatReg t c) 2 2 0 else p.setPeg n { x with waiters := x.waiters ++ [.core me v] }
  p.setCore t c { p.core t c with armed := some (k, v, ok) }

/-- The three view registers of a peg page show the selected peg (R150). -/
def pegViewWait (x : Peg) : Nat :=
  ofBits (x.waiters.filterMap fun w => match w with
    | .hopper (.tile _ h) _ => some h
    | .core c _ => some (4 + c % 2)
    | .hopper (.host ..) _ => none)
  + 2 ^ 8 * (x.waiters.filter fun w => match w with
    | .hopper (.host ..) _ => true
    | _ => false).length

/-- A peg returns to its reset state (R134). -/
def pegRestore (p : Package) (n : Nat) : Package := p.setPeg n {}

end Sys2Proof.Machine
end

