-- ==== Sys2Proof/Machine/Operands.lean ====
section
/-! DEFINITION. Operand forms of descriptors: the fields of the 64 bytes and the decode checks in the order of R97
(R95–R104, R124–R126, R139, R212, R213, R239–R241). -/

namespace Sys2Proof.Machine

/-! ## Objects that descriptors name -/

/-- Connection context `c`, and it replaced (R206). -/
def Package.conn (p : Package) (c : Nat) : Conn := mget {} p.fab.conns c
def Package.setConn (p : Package) (c : Nat) (x : Conn) : Package := { p with fab := { p.fab with conns := mset p.fab.conns c x } }

/-- Group context `g`, and it replaced (R235). -/
def Package.grp (p : Package) (g : Nat) : Grp := mget {} p.fab.grps g
def Package.setGrp (p : Package) (g : Nat) (x : Grp) : Package := { p with fab := { p.fab with grps := mset p.fab.grps g x } }

/-- The package's global index, rack × 64 + slot (R163, R210). -/
def Package.index (p : Package) : Nat := p.base.rack * 64 + p.base.pos

/-- A member's rank: the member bits below its own (R235). -/
def rankOf (members index : Nat) : Nat := popcount members index
/-- The number of members (R235). -/
def sizeOf' (members : Nat) : Nat := popcount members 1024

/-- The epoch ACTIVE at a package (R167). -/
def Package.epoch (p : Package) : Nat := p.rdF (routePage + Off.ROUTE_EPOCH) 0 0

/-- The route entry of a destination in an epoch (R163). -/
def routeEntry (p : Package) (e index : Nat) : Nat :=
  p.rd (pg 0x38 (0x10 + 4 * e + index / 256) + Off.ROUTE_ENTRY + 4 * (index % 256))

/-- The connection's peer is the package itself (R208). -/
def isLoopback (p : Package) (c : Conn) : Bool := decide (c.peerRack = p.base.rack ∧ c.peerSlot = p.base.pos)

/-- The plane of an ordered connection (R205). -/
def connPlane (c : Nat) (x : Conn) : Nat := 9 * (c / 2048) + x.plane

/-! ## Fields of a descriptor (R95) -/

/-- Opcode, flags and header fields (R95). -/
def dOp (d : Bytes) : Nat := byteAt d 0
def dWait (d : Bytes) : Bool := bitOf (byteAt d 1) 0
def dBump (d : Bytes) : Bool := bitOf (byteAt d 1) 1
def dOrder (d : Bytes) : Bool := bitOf (byteAt d 1) 2
def dReport (d : Bytes) : Bool := bitOf (byteAt d 1) 3
def dTag (d : Bytes) : Nat := fieldAt d 2 2
def dWaitPeg (d : Bytes) : Nat := fieldAt d 4 2 % 512
def dBumpPeg (d : Bytes) : Nat := fieldAt d 6 2 % 8192
def dWaitValue (d : Bytes) : Nat := fieldAt d 8 4
def dBumpAdd (d : Bytes) : Nat := fieldAt d 12 4

/-- The engines a descriptor issues to (R96). -/
inductive Engine where
  | none | dma | matrix | vector | attend | rma | coll | peg
  deriving DecidableEq, Repr

/-- The engine of an opcode; none for a value outside the table (R96). -/
def engineOf (op : Nat) : Option Engine :=
  match op with
  | 0x00 => some .none
  | 0x01 => some .dma
  | 0x02 => some .dma
  | 0x10 => some .matrix
  | 0x20 => some .vector
  | 0x30 => some .attend
  | 0x40 => some .rma
  | 0x41 => some .rma
  | 0x50 => some .coll
  | 0x60 => some .peg
  | _ => Option.none

/-- A value clipped into its legal range (R97). -/
def clip (lo hi v : Nat) : Nat := max lo (min hi v)

/-- A check that failed: the field's byte offset, and the status it gives. -/
abbrev Failure := Nat × Nat

/-- The failure of the lowest byte offset within one step (R97). -/
def firstFailure (l : List Failure) : Option Failure :=
  l.foldl (fun a f => match a with
    | none => some f
    | some g => if f.1 < g.1 then some f else some g) none

/-- A failure where a condition holds. -/
def failIf (c : Bool) (off status : Nat) : List Failure := if c then [(off, status)] else []

/-- Completion status codes (R94, R230, R258, R146). -/
abbrev St.ok : Nat := 0x00
abbrev St.badDescriptor : Nat := 0x01
abbrev St.addressFault : Nat := 0x02
abbrev St.crossPitch : Nat := 0x03
abbrev St.formatFault : Nat := 0x04
abbrev St.shapeFault : Nat := 0x05
abbrev St.hollowUnit : Nat := 0x06
abbrev St.waitTimeout : Nat := 0x07
abbrev St.dataUncorrectable : Nat := 0x08
abbrev St.struck : Nat := 0x09
abbrev St.sequenceTooLong : Nat := 0x0A
abbrev St.remoteCrossPitch : Nat := 0x20
abbrev St.remoteAddressFault : Nat := 0x21
abbrev St.connAbsent : Nat := 0x22
abbrev St.noRoute : Nat := 0x23
abbrev St.planeUnavailable : Nat := 0x24
abbrev St.portLoss : Nat := 0x25
abbrev St.timeout : Nat := 0x26
abbrev St.connBroken : Nat := 0x27
abbrev St.headerDepth : Nat := 0x28
abbrev St.groupBroken : Nat := 0x40
abbrev St.countMismatch : Nat := 0x41
abbrev St.groupAbsent : Nat := 0x42
abbrev St.notMember : Nat := 0x43
abbrev St.groupExcluded : Nat := 0x44
abbrev St.reducedMembership : Nat := 0x45
abbrev St.sequenceError : Nat := 0x46
abbrev St.bumpRefused : Nat := 0x50
abbrev St.bumpHollow : Nat := 0x51

/-! ## Step 2: must-be-zero fields -/

/-- Must-be-zero fields of an opcode: offset, length in bytes, and the bit from which the field is zero. The zero bits of WAIT_PEG and
BUMP_PEG are among them whatever FLAGS holds (DEDUCED, log 181). -/
def zeroFields (d : Bytes) : List (Nat × Nat × Nat) :=
  [(1, 1, 4), (4, 2, 9), (6, 2, 13)] ++
  match dOp d with
  | 0x00 => [(16, 48, 0)]
  | 0x01 => [(16, 8, 48), (24, 8, 48), (36, 28, 0)]
  | 0x02 => [(24, 8, 48), (36, 28, 0)]
  | 0x10 => [(39, 1, 5), (61, 3, 0)]
  | 0x20 => [(34, 1, 4), (35, 1, 0), (44, 20, 0)]
  | 0x30 => [(24, 8, 48), (55, 1, 6), (57, 7, 0)]
  | 0x40 => [(16, 2, 12), (18, 1, 1), (19, 1, 0), (24, 8, 48), (32, 8, 48), (40, 2, 13), (42, 2, 0), (48, 16, 0)]
  | 0x41 => [(16, 2, 12), (18, 1, 0), (19, 1, 0), (24, 8, 48), (32, 8, 48), (40, 2, 0), (42, 2, 0), (44, 4, 0), (48, 16, 0)]
  | 0x50 => [(16, 2, 11), (18, 1, 4), (19, 1, 6), (54, 2, 10), (56, 2, 13), (58, 1, 2), (59, 5, 0)]
  | 0x60 => [(17, 1, 0), (18, 2, 13), (24, 2, if byteAt d 16 = 3 then 12 else 0), (26, 38, 0)]
  | _ => []

/-- An address that R25, R29 and R138 make an address fault, whatever a field table says of its upper bits: bits [63:60] are not
zero, or its space is 2 or 3 (log 153). -/
def addressFaults (a : Nat) : Bool := decide (fld a 63 60 ≠ 0 ∨ 2 ≤ fld a 49 48)

/-- Step 2 of R97: must-be-zero fields, and sub-operations outside their tables (R104, R139, R240). The upper bits of an address
that is itself an address fault are left to the address step. -/
def checkZero (d : Bytes) : List Failure :=
  ((zeroFields d).filterMap fun f =>
    if fieldAt d f.1 f.2.1 / 2 ^ f.2.2 ≠ 0 ∧ !(f.2.1 = 8 && addressFaults (fieldAt d f.1 8)) then some (f.1, St.badDescriptor) else none)
  ++ (match dOp d with
    | 0x20 => failIf (decide (0x09 < byteAt d 32)) 32 St.badDescriptor
    | 0x50 => failIf (decide (8 < byteAt d 18 % 16)) 18 St.badDescriptor
    | 0x60 => failIf (decide (3 < byteAt d 16)) 16 St.badDescriptor
    | _ => [])

/-! ## Step 3: ownership -/

/-- A package peg a descriptor names: it exists, lies on no hollow tile and is owned (R97, R150, R313). -/
def checkPeg (p : Package) (pitch n off : Nat) : List Failure :=
  if !pegExists p n then [(off, St.addressFault)]
  else if hollowPage p.base (tilePage (n / 512) 0) then [(off, St.hollowUnit)]
  else failIf (!pegFor p pitch n) off St.crossPitch

/-- A connection a descriptor names: a source context committed to its pitch (R213). -/
def checkConn (p : Package) (pitch c off : Nat) : List Failure :=
  let x := p.conn c
  failIf (!(x.commit && !x.target && x.pitch = pitch)) off St.crossPitch

/-- Step 3 of R97: WAIT_PEG and BUMP_PEG, PEG operands, connections and groups (R97, R139, R213, R241). -/
def checkOwner (p : Package) (tile pitch : Nat) (d : Bytes) : List Failure :=
  (if dWait d then checkPeg p pitch (512 * tile + dWaitPeg d) 4 else [])
  ++ (if dBump d then checkPeg p pitch (dBumpPeg d) 6 else [])
  ++ (match dOp d with
    | 0x40 => checkConn p pitch (fieldAt d 16 2 % 4096) 16
    | 0x41 => checkConn p pitch (fieldAt d 16 2 % 4096) 16
    | 0x50 =>
      let g := p.grp (fieldAt d 16 2 % 2048)
      if !g.commit then [(16, St.groupAbsent)] else failIf (g.pitch ≠ pitch) 16 St.crossPitch
    | 0x60 =>
      if byteAt d 16 = 3 then checkConn p pitch (fieldAt d 24 2 % 4096) 24
      else checkPeg p pitch (fieldAt d 18 2 % 8192) 18
    | _ => [])

/-! ## Step 4: addresses -/

/-- A range in package memory space: R27 first, then ownership (R27, R99, R213). -/
def checkRange (p : Package) (pitch off len field : Nat) : List Failure :=
  if !inRegion p off len then [(field, St.addressFault)]
  else failIf (!ownsRange p pitch off len) field St.crossPitch

/-- An operand in the tile's own SRAM: alignment and extent (R100). -/
def checkLocal (off len align field : Nat) : List Failure :=
  failIf (decide (off % align ≠ 0 ∨ sramSize < off + len)) field St.addressFault

/-- A range with an alignment of its own in package memory space (R241). -/
def checkAligned (p : Package) (pitch off len align field : Nat) : List Failure :=
  if off % align ≠ 0 then [(field, St.addressFault)] else checkRange p pitch off len field

/-- The fields of a MATMUL, clipped into their ranges (R97, R100). -/
structure Mat where
  a : Nat
  b : Nat
  c : Nat
  d : Nat
  m : Nat
  n : Nat
  k : Nat
  fa : Nat
  fb : Nat
  fd : Nat
  acc : Bool
  sa : Nat
  sb : Nat
  sd : Nat
  scA : Nat
  scB : Nat
  mask : Nat
  rowA : Nat
  rowB : Nat
  rowD : Nat
  rowC : Nat
  deriving DecidableEq, Repr

/-- The clipped fields of a MATMUL descriptor (R97, R100). The extents of SA and SB take a begun block of 32 elements as a whole one when K
is no multiple of 32 (DEDUCED, log 183). -/
def matOf (d : Bytes) : Mat :=
  let m := clip 1 65535 (fieldAt d 32 2)
  let n := clip 1 65535 (fieldAt d 34 2)
  let k := clip 1 65535 (fieldAt d 36 2)
  let fa := byteAt d 38 % 16
  let fb := byteAt d 38 / 16
  let fd := byteAt d 39 % 16
  let acc := bitOf (byteAt d 39) 4
  let rowA := fmtLen fa k
  let rowB := fmtLen fb k
  let rowD := fmtLen fd n
  { a := fieldAt d 16 4, b := fieldAt d 20 4, c := fieldAt d 24 4, d := fieldAt d 28 4, m, n, k, fa, fb, fd, acc,
    sa := max (fieldAt d 40 4) rowA, sb := max (fieldAt d 44 4) rowB,
    sd := max (fieldAt d 48 4) (if acc then max rowD (4 * n) else rowD),
    scA := fieldAt d 52 4, scB := fieldAt d 56 4, mask := byteAt d 60, rowA, rowB, rowD, rowC := 4 * n }

/-- Bytes from an operand's address to the end of its last row (R100). -/
def extent (rows stride row : Nat) : Nat := (rows - 1) * stride + row

/-- Two ranges share a byte. -/
def overlap (a la b lb : Nat) : Bool := decide (a < b + lb ∧ b < a + la)

/-- Two ranges of package memory space share a byte, whichever alias names it (R28, R99). -/
def overlapMem (p : Package) (a la b lb : Nat) : Bool :=
  if regionOf p a = regionOf p b then overlap a la b lb
  else if a < dramSize ∧ regionOf p b = some .ilv then
    (List.range lb).any fun i => decide (a ≤ canon p (b + i) ∧ canon p (b + i) < a + la)
  else if b < dramSize ∧ regionOf p a = some .ilv then
    (List.range la).any fun i => decide (b ≤ canon p (a + i) ∧ canon p (a + i) < b + lb)
  else false

/-- The fields of a VECTOR, clipped (R97, R104). -/
structure Vec where
  x : Nat
  y : Nat
  z : Nat
  n : Nat
  sub : Nat
  fx : Nat
  fy : Nat
  fz : Nat
  scalar : Nat
  sx : Nat
  twoIn : Bool
  deriving DecidableEq, Repr

/-- The clipped fields of a VECTOR descriptor; sub-operations 0 to 4 have two inputs (R104). -/
def vecOf (d : Bytes) : Vec :=
  { x := fieldAt d 16 4, y := fieldAt d 20 4, z := fieldAt d 24 4, n := clip 1 16777216 (fieldAt d 28 4),
    sub := byteAt d 32, fx := byteAt d 33 % 16, fy := byteAt d 33 / 16, fz := byteAt d 34 % 16,
    scalar := fieldAt d 36 4, sx := fieldAt d 40 4, twoIn := decide (byteAt d 32 ≤ 4) }

/-- The fields of an ATTEND, clipped (R97, R124, R125). -/
structure Att where
  q : Nat
  o : Nat
  bt : Nat
  seqLen : Nat
  qpos : Nat
  scale : Nat
  stats : Nat
  nq : Nat
  dim : Nat
  hkv : Nat
  head : Nat
  fq : Nat
  fkv : Nat
  fo : Nat
  causal : Bool
  useStats : Bool
  group : Nat
  deriving DecidableEq, Repr

/-- The clipped fields of an ATTEND descriptor (R124, R125). -/
def attOf (d : Bytes) : Att :=
  { q := fieldAt d 16 4, o := fieldAt d 20 4, bt := fieldAt d 24 8, seqLen := clip 1 2097152 (fieldAt d 32 4),
    qpos := fieldAt d 36 4, scale := fieldAt d 40 4, stats := fieldAt d 44 4, nq := clip 1 4096 (fieldAt d 48 2),
    dim := clip 64 256 (fieldAt d 50 2), hkv := clip 1 64 (byteAt d 52), head := byteAt d 53,
    fq := byteAt d 54 % 16, fkv := byteAt d 54 / 16, fo := byteAt d 55 % 16, causal := bitOf (byteAt d 55) 4,
    useStats := bitOf (byteAt d 55) 5, group := clip 1 64 (byteAt d 56) }

/-- The fields of a COLL (R239). -/
structure Col where
  g : Nat
  op : Nat
  fmt : Nat
  redop : Nat
  count : Nat
  src : Nat
  dst : Nat
  map : Nat
  counts : Nat
  rcounts : Nat
  root : Nat
  bpeg : Nat
  useMap : Bool
  bpegValid : Bool
  deriving DecidableEq, Repr

/-- The fields of a COLL descriptor (R239). -/
def colOf (d : Bytes) : Col :=
  { g := fieldAt d 16 2 % 2048, op := byteAt d 18 % 16, fmt := byteAt d 19 % 16, redop := byteAt d 19 / 16 % 4,
    count := fieldAt d 20 4, src := fieldAt d 24 6, dst := fieldAt d 30 6, map := fieldAt d 36 6,
    counts := fieldAt d 42 6, rcounts := fieldAt d 48 6, root := fieldAt d 54 2 % 1024, bpeg := fieldAt d 56 2 % 8192,
    useMap := bitOf (byteAt d 58) 0, bpegValid := bitOf (byteAt d 58) 1 }

/-- The variable forms (R240). -/
def isVariable (op : Nat) : Bool := decide (6 ≤ op ∧ op ≤ 8)

/-- The counts a member supplies: N words at COUNTS_ADDR, for REDUCE_SCATTERV and ALL_TO_ALLV (R251). -/
def suppliedCounts (p : Package) (c : Col) (n : Nat) : List Nat :=
  if c.op = 6 ∨ c.op = 8 then
    (List.range n).map fun i => ofLe ((canonRange p (c.counts + 4 * i) 4).map (byteValue p))
  else [c.count]

/-- SRC and DST extents in bytes; none where the descriptor gives the operand no extent at decode (R240, R241). -/
def collExtents (p : Package) (c : Col) (n rank : Nat) : Option Nat × Option Nat :=
  let es := fmtBits c.fmt / 8
  let b := c.count * es
  let cs := suppliedCounts p c n
  match c.op with
  | 0 => (some b, some b)
  | 1 => (some (n * b), some b)
  | 2 => (some b, some (n * b))
  | 3 => (if rank = c.root then some b else none, some b)
  | 5 => (some (n * b), some (n * b))
  | 6 => (some (cs.sum * es), some (nth 0 cs rank * es))
  | 7 => (some b, none)
  | 8 => (some (cs.sum * es), none)
  | _ => (none, none)

/-- A COLL range; an empty extent names no byte. -/
def checkColl (p : Package) (pitch off : Nat) (len : Option Nat) (align field : Nat) : List Failure :=
  match len with
  | none => []
  | some n => if n = 0 then [] else checkAligned p pitch off (min n 0x10000000) align field

/-- Step 4 of R97: addresses (R27, R99, R100, R104, R125, R213, R241). -/
def checkAddr (p : Package) (pitch : Nat) (d : Bytes) : List Failure :=
  let len := clip 1 16777216
  let unlessRsv := fun (f : Nat) (l : List Failure) => if fmtReserved f then [] else l
  match dOp d with
  | 0x01 =>
    checkRange p pitch (fieldAt d 16 8) (len (fieldAt d 32 4)) 16 ++ checkRange p pitch (fieldAt d 24 8) (len (fieldAt d 32 4)) 24
  | 0x02 => checkRange p pitch (fieldAt d 24 8) (len (fieldAt d 32 4)) 24
  | 0x10 =>
    let x := matOf d
    unlessRsv x.fa (checkLocal x.a (extent x.m x.sa x.rowA) (fmtAlign x.fa) 16)
    ++ unlessRsv x.fb (checkLocal x.b (extent x.n x.sb x.rowB) (fmtAlign x.fb) 20)
    ++ (if x.acc then checkLocal x.c (extent x.m x.sd x.rowC) 4 24 else [])
    ++ unlessRsv x.fd (checkLocal x.d (extent x.m x.sd x.rowD) (fmtAlign x.fd) 28)
    ++ (if isBlock x.fa then checkLocal x.scA (x.m * ((x.k + 31) / 32)) 1 52 else [])
    ++ (if isBlock x.fb then checkLocal x.scB (x.n * ((x.k + 31) / 32)) 1 56 else [])
  | 0x20 =>
    let x := vecOf d
    unlessRsv x.fx (checkLocal x.x (fmtLen x.fx x.n) (fmtAlign x.fx) 16)
    ++ (if x.twoIn then unlessRsv x.fy (checkLocal x.y (fmtLen x.fy x.n) (fmtAlign x.fy) 20) else [])
    ++ unlessRsv x.fz (checkLocal x.z (fmtLen x.fz x.n) (fmtAlign x.fz) 24)
    ++ (if isBlock x.fx then checkLocal x.sx ((x.n + 31) / 32) 1 40 else [])
  | 0x30 =>
    let x := attOf d
    unlessRsv x.fq (checkLocal x.q (fmtLen x.fq (x.nq * x.dim)) (fmtAlign x.fq) 16)
    ++ unlessRsv x.fo (checkLocal x.o (fmtLen x.fo (x.nq * x.dim)) (fmtAlign x.fo) 20)
    ++ checkRange p pitch x.bt (8 * ((x.seqLen + 255) / 256)) 24
    ++ (if x.useStats then checkLocal x.stats (8 * x.nq) 4 44 else [])
  | 0x40 =>
    checkRange p pitch (fieldAt d 24 8) (len (fieldAt d 20 4)) 24
    ++ failIf (!inRegion p (fieldAt d 32 8) (len (fieldAt d 20 4))) 32 St.addressFault
  | 0x41 =>
    checkRange p pitch (fieldAt d 24 8) (len (fieldAt d 20 4)) 24
    ++ failIf (!inRegion p (fieldAt d 32 8) (len (fieldAt d 20 4))) 32 St.addressFault
  | 0x50 =>
    let c := colOf d
    let g := p.grp c.g
    let n := sizeOf' g.members
    let es := fmtBits c.fmt / 8
    let countsOk := checkColl p pitch c.counts (if c.op = 6 ∨ c.op = 8 then some (4 * n) else none) 4 42
    let (sl, dl) := if countsOk.isEmpty then collExtents p c n (rankOf g.members p.index) else (none, none)
    (if fmtReserved c.fmt then [] else checkColl p pitch c.src sl es 24 ++ checkColl p pitch c.dst dl es 30)
    ++ (if c.useMap then checkRange p pitch c.map 128 36 else [])
    ++ countsOk
    ++ checkColl p pitch c.rcounts (if isVariable c.op then some (4 * n) else none) 4 48
  | _ => []

/-! ## Steps 5 and 6: formats and shapes -/

/-- The pairs of A and B formats that MATMUL accepts (R101). -/
def matPairOk (fa fb : Nat) : Bool :=
  if fa = 3 ∨ fa = 4 then fb = 3 || fb = 4 || fb = 9
  else if fa = 5 ∨ fa = 6 then fb = 5 || fb = 6
  else if fa = 7 then fb = 7
  else if fa = 1 then fb = 1 || fb = 9
  else if fa = 2 then fb = 2 || fb = 9
  else if fa = 8 then fb = 8
  else false

/-- The formats that vector arithmetic accepts: FP32, BF16, FP16, E4M3, E5M2 and INT8 (R104). -/
def vecFmtOk (f : Nat) : Bool := decide (f ≤ 4 ∨ f = 8)

/-- Step 5 of R97: formats (R101, R104, R125, R241). -/
def checkFormat (d : Bytes) : List Failure :=
  match dOp d with
  | 0x10 =>
    let x := matOf d
    failIf (!matPairOk x.fa x.fb) 38 St.formatFault
    ++ failIf (!(if x.fa = 8 then x.fd = 10 else decide (x.fd ≤ 4))) 39 St.formatFault
  | 0x20 =>
    let x := vecOf d
    if x.sub = 8 then
      failIf (fmtReserved x.fx) 33 St.formatFault ++ failIf (!(vecFmtOk x.fz || x.fz = 10)) 34 St.formatFault
    else
      failIf (!vecFmtOk x.fx || (x.twoIn && !vecFmtOk x.fy)) 33 St.formatFault ++ failIf (!vecFmtOk x.fz) 34 St.formatFault
  | 0x30 =>
    let x := attOf d
    failIf (!(decide (1 ≤ x.fq ∧ x.fq ≤ 3) && decide (1 ≤ x.fkv ∧ x.fkv ≤ 4))) 54 St.formatFault
    ++ failIf (!decide (x.fo ≤ 2)) 55 St.formatFault
  | 0x50 =>
    let c := colOf d
    failIf (!(decide (c.fmt ≤ 4 ∨ c.fmt = 10)) || c.redop = 3) 19 St.formatFault
  | _ => []

/-- An area that a COLL writes (DST, the map, the counts table received) shares no byte with another of its areas, but for a DST equal to
SRC in ALL_REDUCE (R100, R240, R241; log 162). -/
def collOverlaps (p : Package) (c : Col) (n : Nat) (sl dl : Option Nat) : List Failure :=
  let read := [(24, c.src, sl.getD 0), (42, c.counts, if c.op = 6 ∨ c.op = 8 then 4 * n else 0)]
  let written := [(30, c.dst, dl.getD 0), (36, c.map, if c.useMap then 128 else 0), (48, c.rcounts, if isVariable c.op then 4 * n else 0)]
  written.flatMap fun w =>
    failIf ((read ++ written).any fun x => decide (x.1 ≠ w.1 ∧ 0 < x.2.2 ∧ 0 < w.2.2) && overlapMem p x.2.1 x.2.2 w.2.1 w.2.2
      && !(decide (c.op = 0 ∧ c.src = c.dst ∧ x.1 + w.1 = 54))) w.1 St.shapeFault

/-- Step 6 of R97: shapes and overlaps; SEQUENCE_TOO_LONG stands first for ATTEND (R99, R100, R104, R125, R126, R241).
DETAIL of an overlap names the address field of the operand that is written: COPY 24, MATMUL 28, VECTOR 24 (DESIGN CHOICE, log 182). -/
def checkShape (p : Package) (d : Bytes) : List Failure :=
  let lenBad := fun (off : Nat) => failIf (decide (fieldAt d off 4 = 0 ∨ 16777216 < fieldAt d off 4)) off St.shapeFault
  match dOp d with
  | 0x01 =>
    let n := clip 1 16777216 (fieldAt d 32 4)
    failIf (overlapMem p (fieldAt d 16 8) n (fieldAt d 24 8) n) 24 St.shapeFault ++ lenBad 32
  | 0x02 => lenBad 32
  | 0x10 =>
    let x := matOf d
    let eD := extent x.m x.sd x.rowD
    let kb := (x.k + 31) / 32
    failIf (overlap x.d eD x.a (extent x.m x.sa x.rowA) || overlap x.d eD x.b (extent x.n x.sb x.rowB)
        || (isBlock x.fa && overlap x.d eD x.scA (x.m * kb)) || (isBlock x.fb && overlap x.d eD x.scB (x.n * kb))) 28 St.shapeFault
    ++ failIf (fieldAt d 32 2 = 0) 32 St.shapeFault ++ failIf (fieldAt d 34 2 = 0) 34 St.shapeFault
    ++ failIf (fieldAt d 36 2 = 0 || ((isBlock x.fa || isBlock x.fb) && fieldAt d 36 2 % 32 ≠ 0)) 36 St.shapeFault
    ++ failIf (decide (fieldAt d 40 4 < x.rowA)) 40 St.shapeFault ++ failIf (decide (fieldAt d 44 4 < x.rowB)) 44 St.shapeFault
    ++ failIf (decide (fieldAt d 48 4 < x.sd)) 48 St.shapeFault
    ++ failIf (x.mask = 0) 60 St.shapeFault
  | 0x20 =>
    let x := vecOf d
    let lx := fmtLen x.fx x.n
    let ly := fmtLen x.fy x.n
    let lz := fmtLen x.fz x.n
    let part := fun (a la : Nat) => overlap x.z lz a la && !(decide (a = x.z ∧ la = lz))
    failIf (part x.x lx || (x.twoIn && part x.y ly) || (isBlock x.fx && overlap x.z lz x.sx ((x.n + 31) / 32))) 24 St.shapeFault
    ++ failIf (decide (fieldAt d 28 4 = 0 ∨ 16777216 < fieldAt d 28 4) || (isBlock x.fx && fieldAt d 28 4 % 32 ≠ 0)) 28 St.shapeFault
  | 0x30 =>
    let x := attOf d
    if 2097152 < fieldAt d 32 4 then [(32, St.sequenceTooLong)]
    else if 2097151 < x.qpos + (x.nq - 1) / x.group then [(36, St.sequenceTooLong)]
    else
      let lq := fmtLen x.fq (x.nq * x.dim)
      let lo := fmtLen x.fo (x.nq * x.dim)
      failIf (overlap x.o lo x.q lq || (x.useStats && overlap x.o lo x.stats (8 * x.nq))) 20 St.shapeFault
      ++ failIf (fieldAt d 32 4 = 0) 32 St.shapeFault
      ++ failIf (x.useStats && overlap x.stats (8 * x.nq) x.q lq) 44 St.shapeFault
      ++ failIf (decide (fieldAt d 48 2 = 0 ∨ 4096 < fieldAt d 48 2)) 48 St.shapeFault
      ++ failIf (!(fieldAt d 50 2 = 64 || fieldAt d 50 2 = 128 || fieldAt d 50 2 = 256)) 50 St.shapeFault
      ++ failIf (decide (byteAt d 52 = 0 ∨ 64 < byteAt d 52)) 52 St.shapeFault
      ++ failIf (decide (byteAt d 52 ≤ byteAt d 53)) 53 St.shapeFault
      ++ failIf (decide (byteAt d 56 = 0 ∨ 64 < byteAt d 56)) 56 St.shapeFault
  | 0x40 => lenBad 20
  | 0x41 => lenBad 20
  | 0x50 =>
    let c := colOf d
    let g := p.grp c.g
    let n := sizeOf' g.members
    let (sl, dl) := collExtents p c n (rankOf g.members p.index)
    let big := fun (l : Option Nat) => decide (0x10000000 < l.getD 0)
    failIf (isVariable c.op && !g.countsFirst) 18 St.shapeFault
    ++ failIf ((c.op = 4 && c.count ≠ 0) || big sl || big dl) 20 St.shapeFault
    ++ collOverlaps p c n sl dl
    ++ failIf (c.op = 3 && decide (n ≤ c.root)) 54 St.shapeFault
  | _ => []

/-- Checks after the shapes: engines without a physical engine, and the route and plane of a remote operation
(R103, R213). The manual gives the HOLLOW_UNIT test of ENGINE_MASK no place in R97's order: it stands here (DESIGN CHOICE, log 180). -/
def checkLast (p : Package) (tile : Nat) (d : Bytes) : List Failure :=
  let remote := fun (c off : Nat) =>
    let x := p.conn c
    let e := routeEntry p p.epoch (x.peerRack * 64 + x.peerSlot)
    if isLoopback p x then []
    else if !bitOf e 18 then [(off, St.noRoute)]
    else failIf (x.ordered && !bitOf e (connPlane c x)) off St.planeUnavailable
  match dOp d with
  | 0x10 =>
    let hollow := p.rdF (tilePage tile 0 + Off.ME_HOLLOW) 7 0
    failIf ((List.range 8).any fun i => bitOf (byteAt d 60) i &&
      (bitOf hollow i || decide (8 < p.rdF (tilePage tile 0 + Off.ME_MAP) (4 * i + 3) (4 * i)))) 60 St.hollowUnit
  | 0x40 => remote (fieldAt d 16 2 % 4096) 16
  | 0x41 => remote (fieldAt d 16 2 % 4096) 16
  | 0x60 => if byteAt d 16 = 3 then remote (fieldAt d 24 2 % 4096) 24 else []
  | _ => []

/-- Decode of a descriptor of logical tile `tile` and pitch `pitch`: the first step that fails sets status and DETAIL; a
descriptor that passes gives none (R97). A hollow tile runs none (R285; log 161). -/
def decodeDesc (p : Package) (tile pitch : Nat) (d : Bytes) : Option Failure :=
  match engineOf (dOp d) with
  | none => some (0, St.badDescriptor)
  | some _ =>
    match firstFailure (checkZero d) with
    | some f => some f
    | none =>
      match firstFailure (checkOwner p tile pitch d) with
      | some f => some f
      | none =>
        match firstFailure (checkAddr p pitch d) with
        | some f => some f
        | none =>
          match firstFailure (checkFormat d) with
          | some f => some f
          | none =>
            match firstFailure (checkShape p d) with
            | some f => some f
            | none => if hollowPage p.base (tilePage tile 0) then some (0, St.hollowUnit) else firstFailure (checkLast p tile d)

end Sys2Proof.Machine
end

