-- ==== Sys2Proof/Machine/Flags.lean ====
section
/-! DEFINITION. Status flags computed from the state: BUSY and DRAINED of every page, quiescence, and the engines'
occupancy (R41, R53, R117, R199, R465). -/

namespace Sys2Proof.Machine

/-- Every hopper of the package: four of each tile, four of each virtual function. -/
def allHops : List HopRef :=
  ((List.range 16).flatMap fun t => (List.range 4).map fun h => HopRef.tile t h)
    ++ ((List.range 16).flatMap fun v => (List.range 4).map fun h => HopRef.host (v + 1) h)

/-- The four hoppers of a tile, and of a virtual function. -/
def tileHops (t : Nat) : List HopRef := (List.range 4).map fun h => .tile t h
def hostHops (v : Nat) : List HopRef := (List.range 4).map fun h => .host v h

/-- The hoppers that work on logical tile `t`: its own and the host hoppers whose HH_CFG names it (R328). -/
def hopsOn (p : Package) (t : Nat) : List HopRef := allHops.filter fun r => tileOfHop p r = t

/-- A hopper holds a descriptor fetched and not retired (R465). -/
def hopBusy (p : Package) (r : HopRef) : Bool := !(p.hop r).isEmpty

/-- Tile `t`'s engines of a kind run a descriptor (R90, R465). -/
def engineRuns (p : Package) (t : Nat) (es : List Engine) : Bool :=
  allHops.any fun r =>
    ((p.hop r).any fun e => decide (e.stage = .issued) && (match engineOf (dOp e.bytes) with
      | some x => es.contains x
      | none => false)) && decide (tileOfHop p r = t)

/-- The engines of page instance 0x00 of a tile (R465). -/
def computeEngines : List Engine := [.dma, .matrix, .vector]

/-- A core runs (R88, R112). -/
def coreRuns (p : Package) (t c : Nat) : Bool := bitOf (p.rd (coreStatReg t c)) 0

/-- It runs and is not stopped in WFI (R141). -/
def coreActive (p : Package) (t c : Nat) : Bool := coreRuns p t c && !bitOf (p.rd (coreStatReg t c)) 2

/-- BUSY of page `inst` of tile `t` (R465). -/
def tileBusy (p : Package) (t inst : Nat) : Bool :=
  let b0 := engineRuns p t computeEngines
  let b1 := (tileHops t).any (hopBusy p)
  let b2 := coreRuns p t 0 || coreRuns p t 1
  let b8 := engineRuns p t [.attend]
  match inst with
  | 0 => b0
  | 1 => b1
  | 2 => b2
  | 3 => b0 || b1 || b2 || b8 || (mfind t p.mem.repairing).isSome
  | 8 => b8
  | _ => false

/-- A strike in its drain step covers the page: its requests still await completion (R273, R41). -/
def strikeDrains (p : Package) (page : Nat) : Bool :=
  strikingPage p.base page && p.hub.strikes.any fun s => decide (s.step = 3)

/-- The connections of link die `d` that have work queued, or requests not acknowledged or not answered (R41, R216). -/
def rmaQueued (p : Package) (d : Nat) : Bool := p.fab.conns.any fun e => decide (e.1 / 2048 = d) && !e.2.queue.isEmpty
def rmaWaits (p : Package) (d : Nat) : Bool :=
  p.fab.conns.any fun e => decide (e.1 / 2048 = d) && (!e.2.unacked.isEmpty || !e.2.reading.isEmpty)

/-- The management connections have work queued or unacknowledged; they are the hub's link die's (R41, R210). -/
def mgmtQueued (p : Package) (d : Nat) : Bool := decide (d = b2n p.hubL1) && p.fab.mgmt.any fun e => !e.2.queue.isEmpty
def mgmtWaits (p : Package) (d : Nat) : Bool := decide (d = b2n p.hubL1) && p.fab.mgmt.any fun e => !e.2.unacked.isEmpty

/-- A group of link die `d` runs or queues a collective, or a PUSH runs on it (R236, R242). -/
def collBusy (p : Package) (d : Nat) : Bool :=
  p.fab.grps.any fun e => decide (e.1 / 1024 = d) && (e.2.run.isSome || !e.2.queue.isEmpty || e.2.busy)

/-- Port `q` of a package, and it replaced. -/
def Base.port (b : Base) (q : Nat) : Port := mget {} b.ports q
def Base.setPort (b : Base) (q : Nat) (x : Port) : Base := { b with ports := mset b.ports q x }

/-- BUSY of a page (R41, R465). -/
def pageBusy (p : Package) (page : Nat) : Bool :=
  let inst := instOf page
  match pageKind p.hubL1 (clsOf page) inst with
  | some .rma => rmaQueued p (clsOf page - 0x20) || mgmtQueued p (clsOf page - 0x20)
  | some .conn => rmaQueued p (clsOf page - 0x20)
  | some .mgmt => mgmtQueued p (clsOf page - 0x20)
  | some .grp => collBusy p (clsOf page - 0x20)
  | some .pf => p.host.mboxCmd.isSome || p.hub.strikes.any fun s => (s.replyTo.map fun r => decide (r.1 = .mailbox)).getD false
  | some .port =>
    let x := p.base.port (9 * (clsOf page - 0x20) + inst - 0x10)
    !x.queue.isEmpty || !x.part.isEmpty || x.draining
  | some .vf => (hostHops inst).any (hopBusy p)
  | some _ => if 0x10 ≤ clsOf page ∧ clsOf page ≤ 0x1F then tileBusy p (clsOf page - 0x10) inst else false
  | none => false

/-- Transactions a page's block issued await completion, beside BUSY (R41, R199). -/
def pageAwaits (p : Package) (page : Nat) : Bool :=
  let inst := instOf page
  strikeDrains p page ||
  match pageKind p.hubL1 (clsOf page) inst with
  | some .rma => rmaWaits p (clsOf page - 0x20) || mgmtWaits p (clsOf page - 0x20)
  | some .conn => rmaWaits p (clsOf page - 0x20)
  | some .mgmt => mgmtWaits p (clsOf page - 0x20)
  | some .port => (p.base.port (9 * (clsOf page - 0x20) + inst - 0x10)).replay.any fun f => decide (f.item ≠ .down)
  | _ => false

/-- DRAINED of a page (R41). -/
def pageDrained (p : Package) (page : Nat) : Bool := !pageBusy p page && !pageAwaits p page

/-- A page is quiesced: ENABLE is 0 and DRAINED is 1 (R53). -/
def quiesced (p : Package) (page : Nat) : Bool := !enabledPage p.base page && pageDrained p page

/-- PAGE_STAT as it reads: FENCED, STRIKING and HOLLOW are stored, BUSY and DRAINED computed (R41). -/
def pageStat (p : Package) (page : Nat) : Nat :=
  p.rd (page + Off.PAGE_STAT) / 4 * 4 + 2 * b2n (pageDrained p page) + b2n (pageBusy p page)

/-- Every die page is quiesced: classes 0x10–0x1F and 0x20–0x23 (R76). -/
def allDiesQuiesced (p : Package) : Bool :=
  let insts := fun (cls : Nat) => (List.range 0x40).filter fun i => (pageKind p.hubL1 cls i).isSome
  ((List.range 16).map (· + 0x10) ++ [0x20, 0x21, 0x22, 0x23]).all fun cls =>
    (insts cls).all fun i => quiesced p (pg cls i)

end Sys2Proof.Machine
end

