-- ==== Sys2Proof/Machine/HostRings.lean ====
section
/-! DEFINITION. A virtual function's completion ring and the retirement of host descriptors (R333, R336, R338, R340). -/

namespace Sys2Proof.Machine

/-- Address of hopper `h`'s register group on VF page `v` (R344): an offset `+0x00` register is at `Off` + 0x40 h. -/
def hhReg (v h off : Nat) : Nat := vfPage v + off + 0x40 * h

/-- Whether the completion ring of VF `v` is committed (R333). -/
def hcqCommitted (p : Package) (v : Nat) : Bool := bitOf (p.rd (vfPage v + Off.HCQ_CFG)) 8

/-- A record of KIND 1 or 3 may be written: four places stay free for struck-range records (R333). Records that are not
written for want of a committed ring need no place (R338; log 17); in D3hot there is none (R324; log 129). -/
def hcqRoom (p : Package) (v : Nat) : Bool :=
  let a := vfPage v
  let c := (p.rd (a + Off.HCQ_PROD) + 1) % 2 ^ 32
  !hcqCommitted p v || p.dmaOk v &&
    decide (serialDist 32 c (p.rd (a + Off.HCQ_CONS)) ≤ 2 ^ p.rdF (a + Off.HCQ_CFG) 4 0 - 4)

/-- A completion record of 32 bytes: what stands before CSEQ (12 bytes), CSEQ, time, and what follows (R333). -/
def completionRecord (head : Bytes) (cseq time : Nat) (tail : Bytes) : Bytes :=
  ((head ++ zeros 12).take 12 ++ le 4 cseq ++ le 8 time ++ tail ++ zeros 8).take 32

/-- The next completion record of VF `v` is written, or counted in HIF_DROPPED where no ring is committed, or in D3hot;
HCQ_PROD advances either way; `signal` asks for vector 0 (R324, R333, R336, R338; logs 17 and 129). -/
def hcqWrite (p : Package) (v : Nat) (head tail : Bytes) (signal : Bool) : Package :=
  let a := vfPage v
  let c := (p.rd (a + Off.HCQ_PROD) + 1) % 2 ^ 32
  let r := completionRecord head c p.base.gtime tail
  let base := p.rd (a + Off.HCQ_BASE_LO) / 4096 * 4096 + p.rd (a + Off.HCQ_BASE_HI) * 2 ^ 32
  let slot := base + 32 * (c % 2 ^ p.rdF (a + Off.HCQ_CFG) 4 0)
  let written := hcqCommitted p v && p.dmaOk v
  let p := if written then hostWrite p v slot r else p.mapBase fun b => bumpSat b (a + Off.HIF_DROPPED) 1
  let p := touchShadow (p.wr (a + Off.HCQ_PROD) c) v
  if written && signal then vfSignal p v 0 else p

/-- A record must wait for a place: CQ_FULL is raised once for the wait (R333), unless it waits for D0 (log 129). -/
def cqFull (p : Package) (v : Nat) : Package :=
  let x := p.vf v
  if x.cqWait || !p.dmaOk v then p else raise (p.setVf v { x with cqWait := true }) (vfPage v) 12 {}

/-- A completed host descriptor has a record due (R333). -/
def hostRecordDue (e : HopEntry) : Bool := decide (e.status ≠ 0) || dReport e.bytes || e.irq

/-- The record of a completed host descriptor, KIND 1 (R333). -/
def hostRecord (p : Package) (v h : Nat) (e : HopEntry) : Package :=
  hcqWrite p v (le 1 1 ++ le 1 e.status ++ le 1 h ++ le 1 (dOp e.bytes) ++ le 4 e.idx ++ le 4 (dTag e.bytes))
    (le 1 (b2n e.saturated) ++ le 1 e.detail) (decide (e.status ≠ 0) || e.irq)

/-- Completed descriptors at the front of a host hopper retire in order; one whose record finds no place does not (R333).
`n` bounds the descriptors looked at. -/
def hostRetire (p : Package) (v h : Nat) : Nat → Package
  | 0 => p
  | n + 1 =>
    match p.hop (.host v h) with
    | [] => p
    | e :: q =>
      if e.stage ≠ .retired then p
      else if hostRecordDue e && !hcqRoom p v then cqFull p v
      else
        let p := if hostRecordDue e then hostRecord p v h e else p
        let p := touchShadow ((p.setHop (.host v h) q).wr (hhReg v h Off.HH_DONE) e.idx) v
        hostRetire p v h n

/-- The fetch-fault records of VF `v` that wait are written while there is a place (R333). -/
def faultRecords (p : Package) (v : Nat) : Nat → Package
  | 0 => p
  | n + 1 =>
    match (p.vf v).waitFaults with
    | [] => p
    | (h, reason, want, found) :: rest =>
      if !hcqRoom p v then cqFull p v
      else
        let p := hcqWrite p v (le 1 3 ++ le 1 reason ++ le 1 h ++ le 1 0 ++ le 4 want ++ le 4 found) [] true
        faultRecords (p.setVf v { p.vf v with waitFaults := rest }) v n

/-- Places may have become free: what waits for them goes on (R333). -/
def hostDrain (p : Package) (v : Nat) : Package :=
  let p := if hcqRoom p v then p.setVf v { p.vf v with cqWait := false } else p
  let p := faultRecords p v (p.vf v).waitFaults.length
  (List.range 4).foldl (fun p h => hostRetire p v h (p.hop (.host v h)).length) p

/-- Event records discarded since the last KIND 3 record are reported once a place is free, and EQ_LOST is raised (R335). -/
def eventDrain (p : Package) (v : Nat) : Package :=
  let x := p.vf v
  if 0 < x.lostSince ∧ p.dmaOk v ∧ bitOf (p.rd (vfPage v + Off.HEQ_CFG)) 8 ∧ heqRoom p v then
    let p := heqWrite (p.setVf v { x with lostSince := 0 }) v (le 1 3 ++ zeros 3) (le 4 x.lostSince)
    raise p (vfPage v) 13 {}
  else p

/-- The struck-range record of a host hopper whose ACC differs from DONE, KIND 2; DONE becomes ACC (R340). -/
def struckRange (p : Package) (v h : Nat) : Package :=
  let acc := p.rd (hhReg v h Off.HH_ACC)
  let dn := p.rd (hhReg v h Off.HH_DONE)
  let p := p.setHop (.host v h) []
  if acc = dn then p
  else
    let p := hcqWrite p v (le 1 2 ++ le 1 9 ++ le 1 h ++ le 1 0 ++ le 4 ((dn + 1) % 2 ^ 32) ++ le 4 acc) [] true
    touchShadow (p.wr (hhReg v h Off.HH_DONE) acc) v

end Sys2Proof.Machine
end

