-- ==== Sys2Proof/Machine/Hoppers.lean ====
section
/-! DEFINITION. Hoppers: fetch, decode at the head, the wait, issue, completion with record, bump and halt, retirement in
order, and the rows of the table that drive them (R89–R98, R142, R148, R328, R332). -/

namespace Sys2Proof.Machine

/-- Address of a hopper register of tile `t`, hopper `h` (R111), and of a core register (R112). -/
def hopReg (t h off : Nat) : Nat := tilePage t 1 + off + 0x20 * h
def coreReg (t c off : Nat) : Nat := tilePage t 2 + off + 0x10 * c

/-- The hopper is halted (R93). -/
def hopHalted (p : Package) (r : HopRef) : Bool := bitOf (p.rd (hopStatReg r)) 0

/-- Descriptors queued in the package, and whether the bound of R228 is reached. -/
def qdescCount (p : Package) : Nat := p.tl.hops.foldl (fun n e => n + e.2.length) 0
def qdescFull (p : Package) : Bool := decide (65536 ≤ qdescCount p)

/-- The tile offset of a tile hopper's slot of index `idx` (R89). -/
def hopSlot (p : Package) (t h idx : Nat) : Nat :=
  p.rd (hopReg t h Off.HOP_BASE) / 4096 * 4096 + 64 * (idx % 2 ^ p.rdF (hopReg t h Off.HOP_CFG) 3 0)

/-- The page that records a hopper's events (R110, R345). -/
def hopPage : HopRef → Nat
  | .tile t _ => tilePage t 1
  | .host v _ => vfPage v

/-- The number of a hopper within its page. -/
def hopNum : HopRef → Nat
  | .tile _ h => h
  | .host _ h => h

/-- The hopper halts after a completion that is not OK: its status registers and its event (R93, R110, R344, R345). -/
def haltHop (p : Package) (r : HopRef) (e : HopEntry) (status : Nat) : Package :=
  let p := (p.wrF (hopStatReg r) 0 0 1).wrF (hopStatReg r) 15 8 status
  match r with
  | .tile _ h => raise p (hopPage r) h { c2 := e.idx, c3 := status + dOp e.bytes * 2 ^ 8 + dTag e.bytes * 2 ^ 16 }
  | .host v h =>
    let p := p.wrF (hopStatReg r) 31 16 (satAdd 0xFFFF (p.rdF (hopStatReg r) 31 16) 1)
    let p := p.wr (hhReg v h Off.HH_FAIL_SEQ) e.idx
    raise p (hopPage r) h { c2 := e.idx, c3 := status + dOp e.bytes * 2 ^ 8 }

/-- The completion record in a tile hopper's slot (R94). -/
def slotRecord (p : Package) (t h : Nat) (e : HopEntry) (status : Nat) : Package :=
  let rec' := le 1 0xFF ++ le 1 status ++ le 2 (dTag e.bytes) ++ le 1 (dOp e.bytes) ++ le 1 (b2n e.saturated)
    ++ le 1 e.detail ++ le 1 0 ++ le 8 p.base.gtime
  if e.noRecord then p else (writeBytes p (p.dieOfTile t) (sramBase t + hopSlot p t h e.idx) rec').1

/-- The completion bump of a descriptor that ended OK: its peg is checked again, and a refusal changes the status (R93,
R148, R150). -/
def completionBump (p : Package) (pitch : Nat) (e : HopEntry) : Package × Nat :=
  if e.status = 0 ∧ dBump e.bytes then
    let n := dBumpPeg e.bytes
    if !pegExists p n then (p, St.crossPitch)
    else if hollowPage p.base (tilePage (n / 512) 0) then (p, St.hollowUnit)
    else if pegFor p pitch n then (pegApply p n (.add (dBumpAdd e.bytes)), 0)
    else (p, St.crossPitch)
  else (p, e.status)

/-- Tile descriptors that have completed leave the front of the queue in index order (R93). -/
def tileRetire (p : Package) (t h : Nat) : Package :=
  let q := p.hop (.tile t h)
  let n := (q.takeWhile fun e => decide (e.stage = .retired)).length
  let a := hopReg t h Off.HOP_DONE
  (p.setHop (.tile t h) (q.drop n)).wr a ((p.rd a + n) % 2 ^ 32)

/-- Completed descriptors retire in order. -/
def hopRetire (p : Package) (r : HopRef) : Package :=
  match r with
  | .tile t h => tileRetire p t h
  | .host v h => hostRetire p v h (p.hop r).length

/-- The entry of index `idx` replaced. -/
def setEntry (q : List HopEntry) (idx : Nat) (f : HopEntry → HopEntry) : List HopEntry :=
  q.map fun e => if e.idx = idx then f e else e

/-- A descriptor completes with a status: bump, record, halt, retirement (R93, R94, R333). Its waiter, if any, is gone. -/
def completeCore (p : Package) (r : HopRef) (idx status detail : Nat) (sat : Bool) : Package :=
  match (p.hop r).find? fun e => decide (e.idx = idx) with
  | none => p
  | some e0 =>
    let e := { e0 with status := status, detail := detail, saturated := sat }
    let (p, st) := completionBump p (pitchOfHop p r) e
    let e := { e with status := st, stage := .retired }
    let p := match r with
      | .tile t h => if st ≠ 0 ∨ dReport e.bytes then slotRecord p t h e st else p
      | .host _ _ => p
    let p := if st ≠ 0 then haltHop p r e st else p
    hopRetire (p.setHop r (setEntry (p.hop r) idx fun _ => e)) r

/-- The hopper's oldest descriptor that has not issued (R90). -/
def headEntry (p : Package) (r : HopRef) : Option HopEntry :=
  (p.hop r).find? fun e => decide (e.stage = .fetched ∨ e.stage = .decoded ∨ e.stage = .waiting)

/-- The head descriptor joins its peg's waiter list (R90, R142). -/
def joinPeg (p : Package) (r : HopRef) (e : HopEntry) : Package :=
  let n := 512 * tileOfHop p r + dWaitPeg e.bytes
  let x := p.peg n
  let p := p.setPeg n { x with waiters := x.waiters ++ [.hopper r (dWaitValue e.bytes)] }
  let p := p.setHop r (setEntry (p.hop r) e.idx fun e => { e with stage := .waiting, waitStart := p.base.gtime })
  p.wrF (hopStatReg r) 1 1 1

/-- A descriptor that becomes the head of a hopper that is not halted is decoded once; a rejection completes it at once; a
wait that fails puts it on its peg's list (R90, R97). A rejection with CROSS_PITCH sets bit 25 on no page (DEDUCED, log 177). -/
def headStep (p : Package) (r : HopRef) : Package :=
  if hopHalted p r then p
  else
    match headEntry p r with
    | none => p
    | some e =>
      if e.stage ≠ .fetched then p
      else
        match decodeDesc p (tileOfHop p r) (pitchOfHop p r) e.bytes with
        | some (off, st) =>
          -- R180: operations rejected under R162 or R163
          let p := if st = St.noRoute ∨ st = St.planeUnavailable then raise (p.count (routePage + Off.NO_ROUTE_CNT)) routePage 1 {} else p
          completeCore p r e.idx st off false
        | none =>
          if dWait e.bytes
              && !waitPasses (p.peg (512 * tileOfHop p r + dWaitPeg e.bytes)).counter (w32 (dWaitValue e.bytes)) then
            joinPeg p r e
          else p.setHop r (setEntry (p.hop r) e.idx fun e => { e with stage := .decoded })

/-- A descriptor completes, and the hopper's new head is decoded. -/
def completeEntry (p : Package) (r : HopRef) (idx status detail : Nat) (sat : Bool) : Package :=
  headStep (completeCore p r idx status detail sat) r

/-- The waiter entry of a hopper leaves every peg of its tile (R91, R148). -/
def leavePegs (p : Package) (r : HopRef) : Package :=
  let keep := fun (w : Waiter) => match w with
    | .hopper r' _ => decide (r' ≠ r)
    | .core .. => true
  let pegs : SMap Peg := p.tl.pegs.map fun e => (e.1, { e.2 with waiters := e.2.waiters.filter keep })
  let p : Package := { p with tl := { p.tl with pegs := pegs } }
  p.wrF (hopStatReg r) 1 1 0

/-! ## Stall episodes (R228, R229) -/

/-- The counter of a bound: 0 tags of die `d`, 1 descriptors, 2 window, 3 path (R228, R231). -/
def stallReg (d bound : Nat) : Nat :=
  match bound with
  | 0 => linkPage d 2 + Off.STALL_TAG
  | 1 => linkPage 0 2 + Off.STALL_DESC
  | 2 => linkPage d 2 + Off.STALL_WIN
  | _ => linkPage d 2 + Off.STALL_PATH

/-- A waiting operation's place in the lists of waits: a connection's number, or 4,096 and the hopper (R229). -/
def hopWait (r : HopRef) : Nat := 4096 + hopKey r

/-- An operation waits no more: its wait is counted in fabric cycles in its bound's register, and the pitch's episode ends where
none of its operations waits (R228, R229, R232; log 18). -/
def stallEnd (p : Package) (key : Nat) : Package :=
  match p.fab.waits.find? fun w => decide (w.1 = key) with
  | none => p
  | some (_, pitch, bound, t0) =>
    let waits := p.fab.waits.filter fun w => decide (w.1 ≠ key)
    let stalls := if waits.any fun w => decide (w.2.1 = pitch) then p.fab.stalls else mdel p.fab.stalls pitch
    countFlagged { p with fab := { p.fab with waits := waits, stalls := stalls } }
      (stallReg (key % 4096 / 2048) bound) ((p.base.gtime - t0) * 9 / 5) 3

/-- An operation of a pitch finds its bound reached: it waits there, and the pitch's stall episode begins unless one runs
(R228, R229). A wait at another bound is over. -/
def stallBegin (p : Package) (pitch key bound : Nat) : Package :=
  if p.fab.waits.any fun w => decide (w.1 = key ∧ w.2.2.1 = bound) then p
  else
    let old := p.fab.stalls
    let p := stallEnd p key
    let stalls := match mfind pitch old with
      | some e => mset p.fab.stalls pitch e
      | none => mset p.fab.stalls pitch (p.base.gtime, key % 4096, bound, false)
    { p with fab := { p.fab with waits := p.fab.waits ++ [(key, pitch, bound, p.base.gtime)], stalls := stalls } }

/-- How far `key` stands behind the one served last, in a turn of `n` (R228). -/
def turnDist (n last key : Nat) : Nat := (key + n - 1 - last % n) % n

/-- Of what has become free, `key` may take one: fewer than that many of those that wait come before it in turn (R228). -/
def turnAllows (n last free key : Nat) (waiting : List Nat) : Bool :=
  decide ((waiting.filter fun j => decide (turnDist n last j < turnDist n last key)).length < free)

/-- A hopper has a posted descriptor that it could fetch (R90, R228, R332). -/
def fetchWants (p : Package) (r : HopRef) : Bool :=
  match r with
  | .tile t h =>
    bitOf (p.rd (hopReg t h Off.HOP_CFG)) 8 && !hopHalted p r && decide (p.rd (hopReg t h Off.HOP_HEAD) ≠ p.rd (hopReg t h Off.HOP_TAIL))
      && enabledPage p.base (tilePage t 1) && !strikingPage p.base (tilePage t 1)
  | .host v h =>
    bitOf (p.rd (hhReg v h Off.HH_CTL)) 0 && bitOf (p.rd (hhReg v h Off.HH_CFG)) 16 && !hopHalted p r
      && decide (p.rd (hhReg v h Off.HH_ACC) ≠ p.rd (hhReg v h Off.HH_POSTED)) && !strikingPage p.base (vfPage v) && p.dmaOk v
      && enabledPage p.base (vfPage v)

/-- The hoppers with posted work that wait for a descriptor place, in the order of R228. -/
def placeWaiters (p : Package) : List Nat :=
  ((allHops.filter fun r => fetchWants p r && p.fab.waits.any fun w => decide (w.1 = hopWait r ∧ w.2.2.1 = 1)).map hopKey)

/-- A free descriptor place is this hopper's (R228). -/
def placeFor (p : Package) (r : HopRef) : Bool :=
  turnAllows 132 p.fab.placeTurn (65536 - qdescCount p) (hopKey r) (placeWaiters p)

/-- A hopper takes a place: the turn moves where others wait, and its own wait is over (R228). -/
def takePlace (p : Package) (r : HopRef) : Package :=
  let p := if placeWaiters p = [] then p else { p with fab := { p.fab with placeTurn := hopKey r } }
  stallEnd p (hopWait r)

/-! ## Engines end their descriptors -/

/-- The issued entry of a hopper with index `idx`, if its opcode is `op`. -/
def issuedEntry (p : Package) (r : HopRef) (idx op : Nat) : Option HopEntry :=
  (p.hop r).find? fun e => decide (e.idx = idx ∧ e.stage = .issued ∧ dOp e.bytes = op)

/-- The engine finishes a descriptor with a status; it completes at DESCRIPTOR_COMPLETE (R93). -/
def finishEntry (p : Package) (r : HopRef) (idx status : Nat) (sat : Bool) : Package :=
  p.setHop r (setEntry (p.hop r) idx fun e =>
    if e.stage = .issued then { e with stage := .finished, status := status, saturated := sat } else e)

/-- The page whose ENABLE holds back the issue of an engine's descriptors (R465). -/
def issuePage (t : Nat) (e : Engine) : Option Nat :=
  match e with
  | .dma => some (tilePage t 0)
  | .matrix => some (tilePage t 0)
  | .vector => some (tilePage t 0)
  | .attend => some (tilePage t 8)
  | _ => none

/-! ## Rows -/

/-- DESCRIPTOR_FETCH: the next posted slot is read; a slot that yields no descriptor completes at once (R90, R92, R94). -/
def descriptorFetch (p : Package) (r : HopRef) : Package :=
  match r with
  | .host _ _ => p
  | .tile t h =>
    let head := p.rd (hopReg t h Off.HOP_HEAD)
    let slot := hopSlot p t h head
    let pitch := pitchOfHop p r
    if !fetchWants p r then p
    else if !placeFor p r then stallBegin p pitch (hopWait r) 1
    else if !memReady p (sramBase t + slot) 64 then p
    else
      let p := takePlace p r
      let p := p.wr (hopReg t h Off.HOP_HEAD) ((head + 1) % 2 ^ 32)
      let lost := fun (p : Package) (st : Nat) (noRec : Bool) =>
        let e : HopEntry := { idx := head, bytes := le 1 0xFF ++ zeros 63, noRecord := noRec }
        completeEntry (p.setHop r (p.hop r ++ [e])) r head st 0 false
      if sramSize < slot + 64 then lost p St.addressFault true
      else
        let (p, st, b) := readBytes p (p.dieOfTile t) (sramBase t + slot) 64
        if st ≠ 0 then lost p st false
        else headStep (p.setHop r (p.hop r ++ [{ idx := head, bytes := b }])) r

/-- DESCRIPTOR_FETCH (R94). -/
def execDescriptorFetch (p : Nat) (ref : HopRef) (s : State) : Res := onPkgMem p (fun x => descriptorFetch x ref) s

/-- The engine a descriptor issues to, by number: its tile's, or the link die's of its connection or group; NOP has none (R96). -/
def engineNum (t : Nat) (d : Bytes) : Option Nat :=
  match engineOf (dOp d) with
  | some .dma => some (8 * t)
  | some .matrix => some (8 * t + 1)
  | some .vector => some (8 * t + 2)
  | some .attend => some (8 * t + 3)
  | some .peg => some (8 * t + 4)
  | some .rma => some (128 + fieldAt d 16 2 % 4096 / 2048)
  | some .coll => some (130 + fieldAt d 16 2 % 2048 / 1024)
  | _ => none

/-- The head that may issue now: decoded, its ORDER met, its hopper not halted and its engine's page enabled (R90, R465). -/
def readyHead (p : Package) (r : HopRef) : Option HopEntry :=
  match headEntry p r with
  | none => none
  | some e =>
    let first := ((p.hop r).head?.map fun x => decide (x.idx = e.idx)).getD false
    let held := match engineOf (dOp e.bytes) with
      | some x => (issuePage (tileOfHop p r) x).any fun a => !enabledPage p.base a || strikingPage p.base a
      | none => true
    if hopHalted p r || e.stage ≠ .decoded || (dOrder e.bytes && !first) || held then none else some e

/-- The engine `n` takes hopper `r` next: of the hoppers with a descriptor ready for it, the first in turn after the last one served
(R90). -/
def engineTakes (p : Package) (n : Nat) (r : HopRef) : Bool :=
  let wants := fun (q : HopRef) => match readyHead p q with
    | some e => decide (engineNum (tileOfHop p q) e.bytes = some n)
    | none => false
  turnAllows 132 (mget 131 p.tl.engTurn n) 1 (hopKey r) ((allHops.filter wants).map hopKey)

/-- The turn of an engine moves to the hopper it serves. -/
def takeEngine (p : Package) (n : Option Nat) (r : HopRef) : Package :=
  match n with
  | some n => { p with tl := { p.tl with engTurn := mset p.tl.engTurn n (hopKey r) } }
  | none => p

/-- DESCRIPTOR_ISSUE: the head issues once ORDER and WAIT hold, its page is enabled and its engine takes its hopper; a descriptor of a
hollow tile ends HOLLOW_UNIT, and a host descriptor whose tile has left the pitch CROSS_PITCH (R90, R285, R328, R465). -/
def descriptorIssue (p : Package) (r : HopRef) : Package :=
  match readyHead p r with
  | none => p
  | some e =>
    let t := tileOfHop p r
    let n := engineNum t e.bytes
    let left := match r with
      | .host _ _ => decide (ownerOf p.base (tilePage t 0) ≠ pitchOfHop p r)
      | .tile _ _ => false
    if n.any fun n => !engineTakes p n r then p
    else if hollowPage p.base (tilePage t 0) then completeEntry p r e.idx St.hollowUnit 0 false
    else if left then completeEntry p r e.idx St.crossPitch 0 false
    else headStep ((takeEngine p n r).setHop r (setEntry (p.hop r) e.idx fun e => { e with stage := .issued })) r

/-- DESCRIPTOR_ISSUE (R90). -/
def execDescriptorIssue (p : Nat) (ref : HopRef) (s : State) : Res := onPkgMem p (fun x => descriptorIssue x ref) s

/-- NOP: it has no engine and ends OK (R96). -/
def execNop (p : Nat) (ref : HopRef) (idx : Nat) (s : State) : Res :=
  onPkg p (fun x => match issuedEntry x ref idx 0x00 with
    | some _ => finishEntry x ref idx 0 false
    | none => x) s

/-- DESCRIPTOR_COMPLETE: a descriptor whose engine has finished it completes (R93, R94). -/
def descriptorComplete (p : Package) (r : HopRef) (idx : Nat) : Package :=
  match (p.hop r).find? fun e => decide (e.idx = idx ∧ e.stage = .finished) with
  | some e => completeEntry p r idx e.status 0 e.saturated
  | none => p

/-- DESCRIPTOR_COMPLETE (R93). -/
def execDescriptorComplete (p : Nat) (ref : HopRef) (idx : Nat) (s : State) : Res :=
  onPkgMem p (fun x => descriptorComplete x ref idx) s

/-- The limit on a hopper's waits in µs; host hoppers have none (R91, R344; log 19). -/
def waitLimit (p : Package) : HopRef → Nat
  | .tile t h => p.rdF (hopReg t h Off.HOP_WAIT_LIMIT) 23 0
  | .host _ _ => 0

/-- WAIT_TIMEOUT: a head that has waited longer than its hopper's limit, on global time, leaves its peg and completes WAIT_TIMEOUT
(R91; log 144). -/
def waitTimeout (p : Package) (r : HopRef) : Package :=
  match headEntry p r with
  | some e =>
    if e.stage = .waiting ∧ waitLimit p r ≠ 0 ∧ e.waitStart + 1000 * waitLimit p r < p.base.gtime then completeEntry (leavePegs p r) r e.idx St.waitTimeout 0 false else p
  | none => p

/-- WAIT_TIMEOUT (R91). -/
def execWaitTimeout (p : Nat) (ref : HopRef) (s : State) : Res := onPkgMem p (fun x => waitTimeout x ref) s

/-- HOST_ENTRY_FETCH: the entry ACC + 1 is checked and accepted, or the hopper halts with a fetch fault (R332). The read is
that of the entry after ACC, whose hopper runs, is committed and not halted and whose doorbell lies ahead. -/
def hostEntryFetch (p : Package) (v h : Nat) (rd : EntryRead) : Package :=
  let r := HopRef.host v h
  let acc := p.rd (hhReg v h Off.HH_ACC)
  let want := (acc + 1) % 2 ^ 32
  let size := 2 ^ p.rdF (hhReg v h Off.HH_CFG) 3 0
  let pitch := pitchOfHop p r
  let fault := fun (reason found : Nat) =>
    let p := p.wrF (hopStatReg r) 0 0 1
    let p := p.setVf v { p.vf v with waitFaults := (p.vf v).waitFaults ++ [(h, reason, want, found)] }
    let p := raise p (vfPage v) (8 + h) { c2 := want, c3 := reason }
    hostDrain p v
  if !fetchWants p r then p
  else if !placeFor p r then stallBegin p pitch (hopWait r) 1
  else
    match rd with
    | .error => fault 2 0
    | .data b =>
      if fieldAt b 64 4 ≠ want then fault 1 (fieldAt b 64 4)
      else if size < serialDist 32 want (p.rd (hhReg v h Off.HH_DONE)) then p
      else
        let p := takePlace p r
        let e : HopEntry := { idx := want, bytes := b.take 64, irq := bitOf (byteAt b 68) 0 }
        let p := touchShadow ((p.setHop r (p.hop r ++ [e])).wr (hhReg v h Off.HH_ACC) want) v
        headStep p r

/-- HOST_ENTRY_FETCH (R332). -/
def execHostEntryFetch (p v h : Nat) (read : EntryRead) (s : State) : Res := onPkgMem p (fun x => hostEntryFetch x v h read) s

end Sys2Proof.Machine
end

