-- ==== Sys2Proof/Machine/Ports.lean ====
section
/-! DEFINITION. A fabric port at a package or a Weir: what it sends and keeps for replay, credits, acknowledgements, going
down, the hold, training, and the events it raises (R153–R155, R169, R182–R203). -/

namespace Sys2Proof

/-! ## The header of a frame (R184) -/

open Machine in
/-- The fields of a frame's header, and its packet data of bytes 16–639 (R184). -/
def Frame.seq (f : Frame) : Nat := byteAt f.bytes 0
open Machine in
def Frame.ack (f : Frame) : Nat := byteAt f.bytes 1
open Machine in
def Frame.ackValid (f : Frame) : Bool := bitOf (byteAt f.bytes 2) 0
open Machine in
def Frame.vc (f : Frame) : Nat := fld (byteAt f.bytes 2) 3 1
open Machine in
def Frame.type (f : Frame) : Nat := fld (byteAt f.bytes 2) 7 4
open Machine in
def Frame.credVc (f : Frame) : Nat := fld (byteAt f.bytes 3) 2 0
open Machine in
def Frame.credits (f : Frame) : Nat := fieldAt f.bytes 4 2
open Machine in
def Frame.firstOff (f : Frame) : Nat := fieldAt f.bytes 6 2 % 1024
def Frame.data (f : Frame) : Bytes := (f.bytes.drop 16).take 624

end Sys2Proof

namespace Sys2Proof.Machine

/-! ## Packets as bytes (R171–R175) -/

/-- The code of an operation (R173). -/
def opCode : POp → Nat
  | .rwrite => 0
  | .rread => 1
  | .response => 2
  | .coll => 3
  | .peg => 4

/-- The operation of a code. -/
def opOf (n : Nat) : Option POp :=
  match n with
  | 0 => some .rwrite
  | 1 => some .rread
  | 2 => some .response
  | 3 => some .coll
  | 4 => some .peg
  | _ => none

/-- HDR_LEN of a packet: link, route, span, transport and extension headers (R171). -/
def hdrLen (k : Pkt) : Nat := 40 + (if k.spanDim.isSome then 8 else 0) + k.ext.length

/-- Bytes of a packet, and the credits it is charged (R155). -/
def pktLen (k : Pkt) : Nat := hdrLen k + k.payload.length
def pktCredits (k : Pkt) : Nat := (pktLen k + 63) / 64

/-- The virtual channel of a packet (R153). -/
def pktVc (k : Pkt) : Nat := 2 * k.cls + k.dl

/-- The flags of a transport header (R173). -/
def flagBits (k : Pkt) : Nat := b2n k.bump + 2 * b2n k.last + 4 * b2n k.spray + 8 * b2n k.cm + 16 * b2n k.sync

/-- The link header, 8 bytes (R171). -/
def linkBytes (k : Pkt) : Bytes :=
  le 1 (1 + 16 * (k.cls % 4) + 64 * (k.dl % 2) + 128 * (k.epoch % 2)) ++ le 1 (hdrLen k) ++ le 2 (k.pitch % 4096)
    ++ le 2 (k.payload.length % 512) ++ zeros 2

/-- The route header, 8 bytes (R171). -/
def routeBytes (k : Pkt) : Bytes :=
  le 1 (if k.spanDim.isSome then 2 else 3) ++ le 1 (k.destSlot % 64) ++ le 1 (k.destRack % 16 + 16 * (k.srcRack % 16))
    ++ le 1 (k.srcSlot % 64 + 64 * b2n k.ordered) ++ le 1 (k.plane % 32) ++ zeros 3

/-- The span header, 8 bytes, of a packet that has left its rack (R172). -/
def spanBytes (k : Pkt) : Bytes :=
  match k.spanDim with
  | some d => le 1 3 ++ le 1 (d % 2) ++ le 1 (k.hops % 256) ++ zeros 1 ++ le 4 (k.originTime % 2 ^ 32)
  | none => []

/-- What names a transport header's connection or context (R173). -/
def connBits (k : Pkt) : Nat :=
  if k.op = .coll then k.conn % 2048 else if k.mgmt then k.conn % 1024 + 2 ^ 15 else k.conn % 4096

/-- Bytes 4–23 of a transport header, by operation (R173). -/
def transportTail (k : Pkt) : Bytes :=
  match k.op with
  | .coll => le 2 k.psn ++ zeros 1 ++ (k.coll ++ zeros 17).take 17
  | .response => le 3 k.psn ++ le 1 k.status ++ le 6 k.offset ++ le 1 (k.space % 4) ++ zeros 9
  | _ => le 3 k.psn ++ zeros 1 ++ le 6 k.offset ++ le 1 (k.space % 4) ++ zeros 1 ++ le 2 (k.bumpPeg % 8192) ++ le 1 k.gen
      ++ zeros 1 ++ le 4 k.arg

/-- The transport header, 24 bytes (R173). -/
def transportBytes (k : Pkt) : Bytes :=
  le 1 ((if k.ext = [] then 0 else 4) + 16 * opCode k.op) ++ le 1 (flagBits k) ++ le 2 (connBits k) ++ transportTail k

/-- A packet's bytes: link, route, span, transport and extension headers, then the payload (R171–R175). -/
def pktBytes (k : Pkt) : Bytes := linkBytes k ++ routeBytes k ++ spanBytes k ++ transportBytes k ++ k.ext ++ k.payload

/-! ## Frames as bytes (R184, R185) -/

/-- The CRC-32 of a frame: over bytes 0–11 and 16–639 (R184). -/
def frameCrc (b : Bytes) : Nat := crc32 (b.take 12 ++ (b.drop 16).take 624)

/-- A frame: its header, the CRC, and the packet data with zeros after it (R184). -/
def frameBytes (seq ack : Nat) (ackValid : Bool) (vc type credVc credits first : Nat) (data : Bytes) : Bytes :=
  let head := le 1 seq ++ le 1 ack ++ le 1 (b2n ackValid + 2 * (vc % 8) + 16 * (type % 16)) ++ le 1 (credVc % 8) ++ le 2 credits
    ++ le 2 (first % 1024) ++ zeros 4
  let data := (data ++ zeros 624).take 624
  head ++ le 4 (frameCrc (head ++ zeros 4 ++ data)) ++ data

/-- A frame's CRC agrees with its bytes (R184). -/
def frameOk (f : Frame) : Bool :=
  let b := (f.bytes ++ zeros 640).take 640
  decide (f.bytes.length = 640) && decide (fieldAt b 12 4 = frameCrc b)

/-- The length of a packet whose first bytes these are, once PAY_LEN has arrived (R171). -/
def streamLen (b : Bytes) : Nat := if b.length < 6 then 2 ^ 16 else byteAt b 1 + fieldAt b 4 2 % 512

/-- The packet that a VC's received bytes end within: its bytes so far; none when a packet's end is the last byte. -/
def beginsLast : Nat → Bytes → Bytes
  | 0, b => b
  | n + 1, b => if b.length < streamLen b then b else beginsLast n (b.drop (max 1 (streamLen b)))

/-- Packets as they follow one another back to back, up to the zeros that fill a frame (R171: NEXT of a link header is 1): their
bytes, the last perhaps not whole. -/
def backToBack : Nat → Bytes → List Bytes
  | 0, _ => []
  | n + 1, b =>
    if byteAt b 0 % 16 = 0 then []
    else b.take (streamLen b) :: backToBack n (b.drop (max 1 (streamLen b)))

/-- The bytes of the packet in progress that a frame carries on: those before FIRST_OFF, as far as that packet goes (R184). -/
def carriesOn (part : Bytes) (first : Nat) (data : Bytes) : Bytes :=
  if part = [] then []
  else
    let seg := part ++ data.take (if first = 0x3FF then 624 else first)
    (seg.take (streamLen seg)).drop part.length

/-- The packets that begin in a frame's data (R184). -/
def beginsIn (first : Nat) (data : Bytes) : List Bytes := if first = 0x3FF then [] else backToBack 16 (data.drop first)

/-- The epoch of a packet, by its first byte (R171). -/
def epochOf (b : Bytes) : Nat := fld (byteAt b 0) 7 7

/-! ## Registers of a port -/

/-- The fused serial of an element (R407, R458). -/
def serialOf (b : Base) : Nat :=
  if b.isWeir then b.serial else rd b (pg 3 1 + Off.ID_SERIAL_LO) + rd b (pg 3 1 + Off.ID_SERIAL_HI) * 2 ^ 32

/-- STATE of a port, and it replaced (R202). -/
def portState (b : Base) (q : Nat) : Nat := rdF b (portReg b q Off.PORT_STAT) 3 0
def setPortState (b : Base) (q v : Nat) : Base := wrF b (portReg b q Off.PORT_STAT) 3 0 v

/-- The port is ACTIVE: up for plane choice and for forwarding (R195). -/
def portUp (b : Base) (q : Nat) : Bool := portState b q = 7

/-- The serial and the port of the partner's last identity block (R190). -/
def partnerSerial (b : Base) (q : Nat) : Nat :=
  rd b (portReg b q Off.PARTNER_ID + 4) + rd b (portReg b q Off.PARTNER_ID + 8) * 2 ^ 32
def partnerPort (b : Base) (q : Nat) : Nat := rdF b (portReg b q Off.PARTNER_ID) 15 8

/-- How many ports an element has, and how many train at once (R189). -/
def portCount (b : Base) : Nat := if b.isWeir then 72 else 18
def trainLimit (b : Base) : Nat := if b.isWeir then 18 else 6

/-- Frames and packets a port in HOLD holds (R196). -/
def heldCount (x : Port) : Nat := x.replay.length + x.part.length + x.queue.length
def portHeld (b : Base) (q : Nat) : Nat := if portState b q = 8 then heldCount (b.port q) else 0

/-! ## In-flight counts (R169) -/

/-- The in-flight register of an epoch (R164, R180). -/
def inflightReg (b : Base) (e : Nat) : Nat :=
  if b.isWeir then 0x10004 + 4 * e else routePage + Off.EPOCH_INFLIGHT + 4 * e

/-- A packet of an epoch is counted, or no longer counted. -/
def inflightAdd (b : Base) (e : Nat) : Base := wrF b (inflightReg b e) 15 0 (satAdd 0xFFFF (rdF b (inflightReg b e) 15 0) 1)
def inflightSub (b : Base) (e : Nat) : Base := wrF b (inflightReg b e) 15 0 (rdF b (inflightReg b e) 15 0 - 1)

/-! ## Sending (R154, R155, R185) -/

/-- The events of a port: bit and capture (R203). -/
abbrev PortEvs := List (Nat × Capt)

/-- A VC has something to place in a frame: the rest of a packet, or one that has its credits (R155). -/
def vcReady (x : Port) (v : Nat) : Bool :=
  (mfind v x.part).isSome ||
    match x.queue.find? fun e => decide (e.1 = v) with
    | some (_, k) => decide (pktCredits k ≤ mget 0 x.credits v)
    | none => false

/-- The VC whose packet goes next: management first, the others in turn after the last one served (R154). -/
def nextVc (x : Port) : Option Nat := ([6, 7] ++ (List.range 6).map fun i => (x.lastVc + 1 + i) % 6).find? (vcReady x)

/-- The first queued packet of a VC leaves the queue. -/
def dropFirst (v : Nat) : List (Nat × Pkt) → List (Nat × Pkt)
  | [] => []
  | e :: q => if e.1 = v then q else e :: dropFirst v q

/-- A frame leaves, in the next codeword, with the acknowledgement of what has arrived (R183–R185). -/
def Port.onWire (x : Port) (seq vc type credVc credits first : Nat) (data : Bytes) : Port :=
  let f := frameBytes seq ((x.rxSeq + 255) % 256) x.rxSome vc type credVc credits first data
  { x with
    sent := x.sent ++ [f], cwNext := (x.cwNext + 1) % 2 ^ 16
    scrambler := scramblerAfter x.scrambler (scramble x.scrambler (messageBits f x.cwNext)) }

/-- A frame that takes a SEQ number leaves (R185). -/
def Port.sendItem (x : Port) (seq : Nat) : TxItem → Port
  | .data vc first bytes _ => x.onWire seq vc 1 0 0 first bytes
  | .credit vc n => x.onWire seq 0 3 vc n 0x3FF []
  | .down => x.onWire seq 0 5 0 0 0x3FF []

/-- It is sent and kept (R185). -/
def Port.emit (x : Port) (i : TxItem) : Port :=
  { x.sendItem x.txSeq i with replay := x.replay ++ [{ seq := x.txSeq, item := i }], txSeq := (x.txSeq + 1) % 256 }

/-- A frame that only carries the acknowledgement leaves: an idle one, or a replay request (R62, R185). -/
def Port.sendAck (x : Port) (type : Nat) : Port := x.onWire 0 0 type 0 0 0x3FF []

/-- Bytes 16 on of a timing frame: T_SEND, T_RECV, then REPLY and LOCKED (R437). -/
def timingData (f : TimingFrame) : Bytes := le 8 f.tSend ++ le 8 f.tRecv ++ le 1 (b2n f.reply + 2 * b2n f.locked)

/-- A timing frame leaves; it takes no SEQ and is not kept (R185, R437). -/
def Port.sendTiming (x : Port) (f : TimingFrame) : Port := { x.onWire 0 0 6 0 0 0x3FF (timingData f) with timingOut := some f }

/-- The next packet of a VC is begun: its credits are charged with its first byte (R155). -/
def Port.begin (x : Port) (v : Nat) : Port :=
  match x.queue.find? fun e => decide (e.1 = v) with
  | none => x
  | some (_, k) =>
    { x with
      queue := dropFirst v x.queue
      part := mset x.part v (k, pktBytes k)
      credits := mset x.credits v (mget 0 x.credits v - pktCredits k) }

/-- A frame under way: its data, where its first packet begins, and the packets it ends. -/
structure FrameFill where
  data : Bytes := []
  first : Nat := 0x3FF
  ends : List Pkt := []

/-- Packets of VC `v` fill a frame back to back, for as long as `v` is the VC to serve (R154, R185; log 24). -/
def Port.fill (v : Nat) : Nat → Port → FrameFill → Port × FrameFill
  | 0, x, f => (x, f)
  | n + 1, x, f =>
    let room := 624 - f.data.length
    if room = 0 ∨ nextVc x ≠ some v then (x, f)
    else
      let begun := (mfind v x.part).isSome
      let first := if begun ∨ f.first ≠ 0x3FF then f.first else f.data.length
      let x := if begun then x else x.begin v
      match mfind v x.part with
      | none => (x, f)
      | some (k, rest) =>
        let f := { f with first := first, data := f.data ++ rest.take room }
        if room < rest.length then ({ x with part := mset x.part v (k, rest.drop room) }, f)
        else ({ x with part := mdel x.part v, lastVc := if v < 6 then v else x.lastVc }.fill v n { f with ends := f.ends ++ [k] })

/-- One frame leaves, credit returns before packets, while fewer than 64 frames are unacknowledged (R62, R155, R185). -/
def Port.sendOne (x : Port) : Port :=
  if 64 ≤ x.replay.length then x
  else
    match x.owed with
    | (v, n) :: rest => { x.emit (.credit v (min n 0xFFFF)) with owed := if n ≤ 0xFFFF then rest else (v, n - 0xFFFF) :: rest }
    | [] =>
      match nextVc x with
      | none => x
      | some v =>
        let (y, f) := x.fill v 16 {}
        y.emit (.data v f.first f.data f.ends)

/-- Everything that can leave now leaves. -/
def Port.pump (x : Port) : Nat → Port
  | 0 => x
  | n + 1 => x.sendOne.pump n

/-- An ACTIVE port sends what it can. -/
def portPump (b : Base) (q : Nat) : Base :=
  if portUp b q then
    let x := b.port q
    b.setPort q (x.pump (x.owed.length + x.part.length + x.queue.length))
  else b

/-- A packet is queued at a port, on its VC. -/
def portSend (b : Base) (q : Nat) (k : Pkt) : Base :=
  let x := b.port q
  portPump (b.setPort q { x with queue := x.queue ++ [(pktVc k, k)] }) q

/-- Bytes of a class queued at a port, and bytes of a VC (R155, R195, R224). -/
def queuedOfClass (x : Port) (cls : Nat) : Nat :=
  x.queue.foldl (fun n e => if e.2.cls = cls then n + pktLen e.2 else n) 0
def queuedOfVc (x : Port) (vc : Nat) : Nat := x.queue.foldl (fun n e => if e.1 = vc then n + pktLen e.2 else n) 0

/-- Credits of a VC are owed to the partner, and leave with the next frames (R155). -/
def oweCredits (b : Base) (q vc n : Nat) : Base :=
  let x := b.port q
  if n = 0 then b else portPump (b.setPort q { x with owed := mset x.owed vc (mget 0 x.owed vc + n) }) q

/-- The packets that frames end, oldest first. -/
def itemPkts (l : List KeptFrame) : List Pkt :=
  l.flatMap fun e => match e.item with
    | .data _ _ _ ks => ks
    | _ => []

/-- The partner acknowledges every frame up to SEQ `ack`; their packets are no longer counted (R62, R169). -/
def portAck (b : Base) (q ack : Nat) : Base :=
  let x := b.port q
  match x.replay.findIdx? fun e => decide (e.seq = ack) with
  | none => b
  | some i =>
    let b := (itemPkts (x.replay.take (i + 1))).foldl (fun b k => inflightSub b k.epoch) b
    portPump (b.setPort q { x with replay := x.replay.drop (i + 1) }) q

/-! ## Training (R187–R193) -/

/-- The ports that train now. -/
def trainingNow (b : Base) : Nat := ((List.range (portCount b)).filter fun q => decide ((b.port q).phase ≠ 0)).length

/-- STATE shows a phase, unless the port is held (R202). -/
def showPhase (b : Base) (q v : Nat) : Base := if (b.port q).holdStart.isSome then b else setPortState b q v

/-- Attempt `n` starts at Detect (R188). -/
def beginAttempt (b : Base) (q n : Nat) : Base :=
  let b := b.setPort q { b.port q with
    phase := 1, waitTrain := false, parked := false, trainStart := b.gtime, fellBack := false, ids := 0,
    flight := 0, timingT1 := none }
  let a := portReg b q Off.PORT_STAT
  showPhase (wrF (wrF b a 5 4 n) a 6 6 0) q 1

/-- Attempt 1 starts, or the port waits for its turn, in STATE 0 (R189; log 25). -/
def startTraining (b : Base) (q : Nat) : Base :=
  let b := b.setPort q { b.port q with parkedRetry := false }
  if trainingNow b < trainLimit b then beginAttempt b q 1
  else
    let b := b.setPort q { b.port q with phase := 0, waitTrain := true }
    showPhase (wrF b (portReg b q Off.PORT_STAT) 5 4 0) q 0

/-- TRAIN_PARK_RETRY: a parked port makes one more attempt, or waits for its turn (R188, R189; log 25). -/
def retryParked (b : Base) (q : Nat) : Base :=
  let x := b.port q
  if x.parked && x.phase = 0 && !x.waitTrain && portEnabled b q then
    if trainingNow b < trainLimit b then beginAttempt (b.setPort q { x with parkedRetry := true }) q 1
    else b.setPort q { x with parkedRetry := true, waitTrain := true }
  else b

/-- A port's training has passed or parked: the lowest waiting port starts (R189). -/
def startWaiting (b : Base) : Base :=
  if trainingNow b < trainLimit b then
    match (List.range (portCount b)).find? fun q => (b.port q).waitTrain with
    | some q => beginAttempt b q 1
    | none => b
  else b

/-- The port stops training. -/
def stopTraining (b : Base) (q : Nat) : Base :=
  let b := b.setPort q { b.port q with phase := 0, waitTrain := false, parkedRetry := false, relocking := false }
  wrF b (portReg b q Off.PORT_STAT) 5 4 0

/-- The attempt fails in a phase: counted, and the next attempt starts, or the port parks (R188). -/
def failAttempt (b : Base) (q phase : Nat) : Base × PortEvs :=
  let a := portReg b q Off.PORT_STAT
  let b := wrF (bumpSat b (portReg b q Off.TRAIN_FAIL_CNT) 1) a 11 8 phase
  let x := b.port q
  let n := rdF b a 5 4
  if x.parkedRetry ∨ 3 ≤ n then
    let b := stopTraining b q
    let b := b.setPort q { b.port q with parked := true, lastAttempt := b.gtime }
    let b := startWaiting (showPhase b q 9)
    (b, if x.parkedRetry then [] else [(3, { c2 := phase, c3 := rd b (portReg b q Off.TRAIN_FAIL_CNT) })])
  else (beginAttempt b q (n + 1), [])

/-- The lane rate a port trains at: 1 at half rate (R193, R201). -/
def laneRate (b : Base) (q : Nat) : Nat := rdF b (portReg b q Off.PORT_CFG) 4 4

/-- A saved entry matches the partner, and FORCE_FULL is 0 (R193). -/
def savedMatches (b : Base) (q : Nat) : Bool :=
  let x := b.port q
  x.savedValid && decide (x.savedSerial = partnerSerial b q ∧ x.savedPort = partnerPort b q ∧ x.savedRate = laneRate b q)
    && !bitOf (rd b (portReg b q Off.PORT_CFG)) 6

/-- The port that an up-port's partner must show (R165, R191). -/
def upPartner (i : Nat) : Nat := if i % 4 < 2 then 66 + i / 4 * 4 + i % 2 else 64 + i / 4 * 4 + i % 2

/-- The partner's block shows what the wiring demands (R191). -/
def wiringOk (b : Base) (q : Nat) : Bool :=
  let w := rd b (portReg b q Off.PARTNER_ID)
  let ty := fld w 7 0
  let port := fld w 15 8
  let rack := fld w 19 16
  let place := fld w 31 24
  if !b.isWeir then decide (ty = 2 ∧ place = q ∧ port = b.pos ∧ rack = b.rack)
  else if q < 64 then decide (ty = 1 ∧ place = q ∧ port = b.pos ∧ rack = b.rack)
  else decide (ty = 2 ∧ place = b.pos ∧ port = upPartner (q - 64))

/-- Whether EXPECT is attested and matches the partner (R192). -/
def expectMatches (b : Base) (q : Nat) : Bool :=
  decide (rd b (portReg b q Off.EXPECT_SERIAL_LO) + rd b (portReg b q Off.EXPECT_SERIAL_HI) * 2 ^ 32 = partnerSerial b q
    ∧ rdF b (portReg b q Off.EXPECT_CTL) 7 0 = partnerPort b q)
def expectValid (b : Base) (q : Nat) : Bool := bitOf (rd b (portReg b q Off.EXPECT_CTL)) 8

/-- The port enters ACTIVE from a state other than HOLD: numbering and credits start, and the whole receive buffer of each
VC, 640 credits, is returned first; what had not been taken from the buffers is gone (R155; log 26). -/
def enterActive (b : Base) (q : Nat) : Base :=
  let b := ((b.port q).rx.flatMap fun e => backToBack 1024 e.2).foldl (fun b k => inflightSub b (epochOf k)) b
  let b := b.setPort q { b.port q with
    txSeq := 0, rxSeq := 0, rxSome := false, replay := [], part := [], sent := [], asked := false, credits := [], rx := []
    uncorr := [], owed := (List.range 8).map fun v => (v, 640), holdStart := none, relocking := false }
  portPump (setPortState b q 7) q

/-- The port compares its partner with EXPECT (R192). `retry`: a parked retry that succeeds raises PORT_UP (R188). -/
def partnerCheck (b : Base) (q : Nat) (retry : Bool) : Base × PortEvs :=
  if expectValid b q && expectMatches b q then (enterActive b q, [(0, {})])
  else
    let b := setPortState b q 6
    let up : PortEvs := if retry then [(0, {})] else []
    (b, up ++ if expectValid b q then [(4, { c2 := partnerSerial b q % 2 ^ 32, c3 := partnerPort b q })] else [])

/-- The saved entry of a port, in the model's form of blob section 3 (R193, R304; log 27). -/
def savedEntry (b : Base) (q : Nat) : Bytes :=
  let x := b.port q
  le 1 q ++ le 1 x.savedPort ++ le 1 x.savedRate ++ le 1 0 ++ le 8 x.savedSerial ++ le 8 x.savedEq

/-- After a successful full training the entry is replaced and sent to the tray controller (R193, R411). -/
def saveEntry (b : Base) (q : Nat) : Base :=
  let b := b.setPort q { b.port q with
    savedSerial := partnerSerial b q, savedPort := partnerPort b q, savedRate := laneRate b q, savedEq := (b.port q).eq
    savedValid := true }
  let e := savedEntry b q
  sendTc { b with msp := { b.msp with bulkOut := b.msp.bulkOut ++ e } } 0x03 (le 4 e.length)

/-! ## Going down and the hold (R186, R195–R199) -/

/-- DOWN_CAUSE is recorded, the port counted down, and PORT_DOWN raised with what is held (R186, R203). -/
def recordDown (b : Base) (q cause held : Nat) : Base × PortEvs :=
  let b := wrF (bumpSat b (portReg b q Off.DOWN_CNT) 1) (portReg b q Off.PORT_STAT) 15 12 cause
  (b, [(1, { c2 := cause + held * 2 ^ 16, c3 := partnerSerial b q % 2 ^ 32 })])

/-- A port goes down under causes 1–4: an ACTIVE port enters HOLD and tries to relock; a port in WIRING_FAULT that loses
signal returns to Detect; one in UP_UNATTESTED trains again (R186, R191, R196; log 28). -/
def portDown (b : Base) (q cause : Nat) : Base × PortEvs :=
  match portState b q with
  | 7 =>
    let x := b.port q
    let (b, evs) := recordDown b q cause (heldCount x)
    let b := b.setPort q { x with
      replay := x.replay.map fun f => { f with resent := 0 }
      holdStart := some b.gtime, relocking := true, heldSerial := partnerSerial b q, heldPort := partnerPort b q
      asked := false, uncorr := [] }
    (setPortState b q 8, evs)
  | 6 => (startTraining b q, [])
  | 10 => (if cause = 1 then startTraining b q else b, [])
  | _ => (b, [])

/-- The packets a port holds leave it, oldest first; they stay counted until they are handled (R197, R198). -/
def takeHeld (b : Base) (q : Nat) : Base × List Pkt :=
  let x := b.port q
  (b.setPort q { x with replay := [], part := [], queue := [], owed := [] },
    itemPkts x.replay ++ (x.part.map fun e => e.2.1) ++ x.queue.map fun e => e.2)

/-- The state a port shows once its hold is over: the phase it trains in, Align while it still relocks, PARKED, or 0 while it
waits for its turn (R196, R202; log 25). -/
def shownAfterHold (x : Port) : Nat :=
  if x.relocking then 4 else if x.phase ≠ 0 then x.phase else if x.parked then 9 else 0

/-- The hold of a port ends without a return; a draining port is disabled (R197–R199). -/
def endHold (b : Base) (q : Nat) : Base :=
  let x := { b.port q with holdStart := none }
  let b := setPortState (b.setPort q x) q (shownAfterHold x)
  if x.draining then setPortState (stopTraining (b.setPort q { x with draining := false }) q) q 0 else b

/-- Every kept frame leaves again, in order (R62, R185). -/
def Port.resendAll (x : Port) : Port :=
  let y := x.replay.foldl (fun y f => y.sendItem f.seq f.item) x
  { y with replay := x.replay.map fun f => { f with resent := f.resent + 1 } }

/-- A held port returns in time with the same partner: it keeps its credits and replay (R155, R196). -/
def returnActive (b : Base) (q : Nat) : Base × PortEvs :=
  let b := b.setPort q { b.port q with holdStart := none, relocking := false }
  (portPump (setPortState b q 7) q, [(0, {})])

/-- What a port event asks of its element: nothing more, or the held packets of an ended hold to be handled, after which the
partner is checked (`check`) or training starts. -/
inductive PortNext where
  | done
  | expire (thenTrain : Bool) (retry : Bool)
  deriving DecidableEq, Repr

/-- Verify passes: TRAIN_TIME is written, the saved entry replaced after full training, and the port returns, or is compared
with EXPECT (R192, R193, R196). -/
def verifyPass (b : Base) (q : Nat) : Base × PortEvs × PortNext :=
  let x := b.port q
  let full := !bitOf (rd b (portReg b q Off.PORT_STAT)) 6 || x.fellBack
  let b := wr b (portReg b q Off.TRAIN_TIME) (min 0xFFFFF ((b.gtime - x.trainStart) / 1000))
  let b := if full then saveEntry b q else b
  let held := (b.port q).holdStart.isSome
  let b := startWaiting (stopTraining b q)
  if held then
    if partnerSerial b q = x.heldSerial ∧ partnerPort b q = x.heldPort then
      let (b, evs) := returnActive b q
      (b, evs, .done)
    else (b, [], .expire false x.parkedRetry)
  else
    let (b, evs) := partnerCheck b q x.parkedRetry
    (b, evs, .done)

/-- Identify passes: the wiring is checked, and the fast path chosen (R187, R188, R191, R193). -/
def identifyPass (b : Base) (q : Nat) : Base × PortEvs × PortNext :=
  let x := b.port q
  if x.ids < 3 then (b, [], .done)
  else if wiringOk b q then
    let a := portReg b q Off.PORT_STAT
    let fast := decide (rdF b a 5 4 = 1) && savedMatches b q
    let b := wrF (b.setPort q { x with phase := 3 }) a 6 6 (b2n fast)
    (showPhase b q 3, [], .done)
  else
    let held := x.holdStart.isSome
    let b := startWaiting (stopTraining b q)
    let ev : PortEvs := [(5, { c2 := rd b (portReg b q Off.PARTNER_ID), c3 := rd b (portReg b q Off.PARTNER_ID + 4) })]
    if held then (b, ev, .expire false false) else (setPortState b q 10, ev, .done)

/-- The identity block an end sends (R190): its stepping byte is 0xB0 for a package, as ID_PART shows it, and 0xA0 for a Weir (R458,
R459). -/
def identityBlock (b : Base) (q : Nat) : Bytes :=
  let x := b.port q
  let keyed := x.savedValid && decide (x.savedSerial = partnerSerial b q ∧ x.savedPort = partnerPort b q)
  let head := le 1 (if b.isWeir then 2 else 1) ++ le 1 q ++ le 1 (b.rack % 16) ++ le 1 b.pos ++ le 8 (serialOf b)
    ++ le 1 (if b.isWeir then 0xA0 else rdF b (pg 3 1 + Off.ID_PART) 23 16) ++ le 1 (b2n keyed) ++ zeros 2
  head ++ le 4 (crc32 head)

/-- A port sends its identity block (R190, R191). -/
def sendIdentity (b : Base) (q : Nat) : Base := b.setPort q { b.port q with idSent := identityBlock b q }

/-- The equalizer settings that a pass of Equalize leaves: the saved ones on the fast path, else those that converged (R187, R193;
log 159). -/
def settingsNow (b : Base) (q : Nat) : Nat :=
  let x := b.port q
  if bitOf (rd b (portReg b q Off.PORT_STAT)) 6 && !x.fellBack then x.savedEq
  else (Config.equalizer (b.rack * 128 + b.pos + b2n b.isWeir * 64) q b.time.raw).toNat

/-- The OPTICS register of an up-port, and whether its module is ready for Detect; other ports have none (R194, R204). -/
def opticsReg (q : Nat) : Nat := 0x20000 + 0x80 * q + 0x70
def moduleReady (b : Base) (q : Nat) : Bool := !b.isWeir || decide (q < 64) || decide (rdF b (opticsReg q) 1 0 = 3)

/-- A package's timing frame of Verify, and when it left (R437). -/
def sendRequestTime (b : Base) (x : Port) : Port :=
  if b.isWeir then { x with timingT1 := none }
  else
    let locked := bitOf (rd b (hubPage 3 + Off.TIME_STAT)) 0
    { x.sendTiming { tSend := b.gtime, tRecv := 0, reply := false, locked := locked } with timingT1 := some b.gtime }

/-- TRAIN_PHASE_PASS at a port (R187); a package sends its timing frame as Verify begins (R437). -/
def phasePass (b : Base) (q : Nat) : Base × PortEvs × PortNext :=
  let x := b.port q
  match x.phase with
  | 1 =>
    if moduleReady b q then (sendIdentity (showPhase (b.setPort q { x with phase := 2, ids := 0 }) q 2) q, [], .done)
    else (b, [], .done)
  | 2 => identifyPass b q
  | 3 => (showPhase (b.setPort q { x with phase := 4, eq := settingsNow b q }) q 4, [], .done)
  | 4 => (showPhase (b.setPort q (sendRequestTime b { x with phase := 5 })) q 5, [], .done)
  | 5 => verifyPass b q
  | _ => (b, [], .done)

/-- TRAIN_PHASE_TIMEOUT at a port: the fast path falls back at Equalize and Verify; else the attempt fails (R188). -/
def phaseTimeout (b : Base) (q : Nat) : Base × PortEvs :=
  let x := b.port q
  if x.phase = 0 then (b, [])
  else if bitOf (rd b (portReg b q Off.PORT_STAT)) 6 && !x.fellBack && (x.phase = 3 || x.phase = 5) then
    (showPhase (b.setPort q { x with phase := 3, fellBack := true }) q 3, [(6, {})])
  else failAttempt b q x.phase

/-! ## Frames (R184, R185) -/

/-- An uncorrectable codeword is counted; more than 32 within 1 ms take the port down (R186). -/
def uncorrectable (b : Base) (q : Nat) : Base × PortEvs :=
  let b := bumpSat b (portReg b q Off.UNCORR_CW) 1
  let x := b.port q
  let now := b.gtime
  let recent := (x.uncorr.filter fun t => decide (now < t + 1000000)) ++ [now]
  let b := b.setPort q { x with uncorr := recent }
  if 32 < recent.length then portDown b q 3 else (b, [])

/-- FRAME_REPLAY_REQUEST: frames up to ACK are acknowledged and the rest resent; a frame resent 8 times in a row takes the port
down. A disabled port still resends its down notice (R62, R185, R186, R199). -/
def replayAsked (b : Base) (q ack : Nat) : Base × PortEvs :=
  if !(portUp b q || (b.port q).replay.any fun f => decide (f.item = .down)) then (b, [])
  else
    let b := portAck (bumpSat b (portReg b q Off.REPLAY_CNT) 1) q ack
    let y := (b.port q).resendAll
    let b := b.setPort q y
    if y.replay.any fun f => decide (8 ≤ f.resent) then portDown b q 4 else (b, [])

/-- The packet data of a frame joins the bytes of its VC; a packet whose first byte has come is counted in flight (R169, R185). -/
def takeData (b : Base) (q : Nat) (f : Frame) : Base :=
  let x := b.port q
  let old := mget [] x.rx f.vc
  let begun := beginsIn f.firstOff f.data
  let b := begun.foldl (fun b k => inflightAdd b (epochOf k)) b
  b.setPort q { x with rx := mset x.rx f.vc (old ++ carriesOn (beginsLast 1024 old) f.firstOff f.data ++ begun.flatten) }

/-- A good frame in order is taken: its credits return, its packet data joins its VC, and it is acknowledged by what leaves next, or
by an idle frame (R155, R185). -/
def takeFrame (b : Base) (q : Nat) (f : Frame) : Base :=
  let x := b.port q
  let x := { x with rxSeq := (x.rxSeq + 1) % 256, rxSome := true, asked := false }
  let x := if f.credits = 0 then x else { x with credits := mset x.credits f.credVc (mget 0 x.credits f.credVc + f.credits) }
  let b := b.setPort q x
  let b := if f.type = 1 then takeData b q f else b
  let b := portPump (if f.ackValid then portAck b q f.ack else b) q
  if (b.port q).sent.length = x.sent.length then b.setPort q ((b.port q).sendAck 0) else b

/-- A valid identity block is kept, and counts toward Identify; a bad one ends the row (R187, R190). -/
def identitySeen (b : Base) (q : Nat) (block : Bytes) (crcOk : Bool) : Base :=
  let x := b.port q
  let st := portState b q
  if !(x.phase = 2 || st = 6 || st = 7 || st = 10) then b
  else if crcOk && block.length = 20 then
    let b := (List.range 5).foldl (fun b i => wr b (portReg b q Off.PARTNER_ID + 4 * i) (fieldAt block (4 * i) 4)) b
    if x.phase = 2 then b.setPort q { x with ids := x.ids + 1 } else b
  else if x.phase = 2 then b.setPort q { x with ids := 0 }
  else b

/-- FEC_CORR_SYM counts corrected symbols; a wrap raises FEC_WRAP (R201, R203). A Weir's word has the same form. -/
def countCorrected (b : Base) (q n : Nat) : Base × PortEvs :=
  if n = 0 then (b, [])
  else
    let (b, wraps) := countWide b (portReg b q Off.FEC_CORR_SYM) n
    (b, if wraps then [(7, {})] else [])

/-- A Weir's clock is LOCKED (R436). -/
def weirLocked (b : Base) : Bool := bitOf (rd b 0x5000C) 0

/-- A Weir's port in Verify answers the package's timing frame; it takes no time of its own between request and reply
(R437; log 66). -/
def timingReply (b : Base) (q : Nat) : Base :=
  b.setPort q ((b.port q).sendTiming { tSend := b.gtime, tRecv := b.gtime, reply := true, locked := weirLocked b })

/-- A failed frame, or one out of order: a replay request asks once for what follows the last frame in order (R62, R185). -/
def askReplay (b : Base) (q : Nat) : Base :=
  let x := b.port q
  if x.asked then b else b.setPort q ({ x with asked := true }.sendAck 2)

/-- A good frame at a port that carries frames (R185). The flag says that an in-order down notice was taken. -/
def goodFrame (b : Base) (q : Nat) (f : Frame) : Base × PortEvs × Bool :=
  let x := b.port q
  if f.type = 4 then (identitySeen b q (f.data.take 20) (decide (fieldAt f.data 16 4 = crc32 (f.data.take 16))), [], false)
  else if !portUp b q then (b, [], false)
  else if f.type = 1 ∨ f.type = 3 ∨ f.type = 5 then
    if f.seq = x.rxSeq then (takeFrame b q f, [], decide (f.type = 5)) else (b, [], false)
  else if f.type = 2 then
    let (b, e) := replayAsked b q f.ack
    (b, e, false)
  else if x.asked ∨ !f.ackValid then (b, [], false)
  else (portAck b q f.ack, [], false)

/-- FRAME_RECEIVE, all but a down notice (R184–R186): a port in Verify or beyond counts what its decoder finds, and one that carries
frames takes them. -/
def frameIn (b : Base) (q : Nat) (f : Frame) : Base × PortEvs × Bool :=
  let verify := decide ((b.port q).phase = 5) && !portUp b q
  let carries := portUp b q || portState b q = 6 || portState b q = 10
  if !(verify || carries) then
    if f.type = 2 ∧ correctableErrors f.errors ∧ frameOk f then
      let (b, e) := replayAsked b q f.ack
      (b, e, false)
    else (b, [], false)
  else
    let bad := !correctableErrors f.errors || (bitOf (rd b (portReg b q Off.PORT_CFG)) 5 && f.errors ≠ 0)
    let (b, e1) := if bad then uncorrectable b q else countCorrected b q f.errors
    if bad || !frameOk f then (if portUp b q then askReplay b q else b, e1, false)
    else if verify then (if f.type = 6 ∧ b.isWeir then timingReply b q else b, e1, false)
    else
      let (b, e2, down) := goodFrame b q f
      (b, e1 ++ e2, down)

/-! ## Enabling and disabling (R199) -/

/-- ENABLE is written 1: training starts at attempt 1; a port that still drains stays up (R199; log 29). -/
def portEnabledNow (b : Base) (q : Nat) : Base :=
  let x := b.port q
  if x.draining then b.setPort q { x with draining := false }
  else if portUp b q ∨ x.phase ≠ 0 ∨ x.waitTrain then b
  else startTraining b q

/-- ENABLE is written 0: a port that carries packets drains; any other enters DISABLED at once (R199). -/
def portDisabledNow (b : Base) (q : Nat) : Base :=
  let x := b.port q
  if portState b q = 7 ∨ portState b q = 8 then b.setPort q { x with draining := true }
  else startWaiting (setPortState (stopTraining (b.setPort q { x with parked := false }) q) q 0)

/-- ENABLE of a Weir's port is written: it acts where it changes (R191, R199; log 48). -/
def weirEnableWrite (b : Base) (q : Nat) (on : Bool) : Base :=
  if (b.port q).weirEnable = on then b
  else
    let b := b.setPort q { b.port q with weirEnable := on }
    if on then portEnabledNow b q else portDisabledNow b q

/-- A draining port whose every frame is acknowledged sends a down notice, kept for replay, and enters DISABLED (R185, R186,
R199). -/
def drainedNow (b : Base) (q : Nat) : Base × PortEvs :=
  let x := b.port q
  if portState b q = 7 ∧ x.draining ∧ x.queue.isEmpty ∧ x.part.isEmpty ∧ x.replay.isEmpty then
    let (b, evs) := recordDown b q 6 0
    (setPortState (b.setPort q { x.emit .down with draining := false }) q 0, evs)
  else (b, [])

/-- The events of a package's port are its page's events (R203). -/
def raisePort (p : Package) (q : Nat) (evs : PortEvs) : Package := raiseAll p (evs.map fun e => (portPage q, e.1, e.2))

/-- The events of a Weir's port go to its switch tray's controller as records: the ring record's form, its page field the
port's number (R204, R411; log 30). -/
def weirRecord (b : Base) (q bit sev : Nat) (c : Capt) : Base :=
  sendTc b 0x06 (ringRecord 0 b.gtime 1 sev q (le 1 bit ++ le 1 0 ++ le 4 0 ++ le 4 c.c2 ++ le 4 c.c3))
def recordPort (b : Base) (q : Nat) (evs : PortEvs) : Base :=
  evs.foldl (fun b e => weirRecord b q e.1 (if e.1 = 0 ∨ 6 ≤ e.1 then 0 else 2) e.2) b

end Sys2Proof.Machine
end

