-- ==== Sys2Proof/Machine/Routing.lean ====
section
/-! DEFINITION. The ingress parser, negative acknowledgements, injection at a link die, plane choice, and a Weir's forwarding
(R152, R161–R178, R195, R224). -/

namespace Sys2Proof.Machine

/-! ## The parser (R171–R177) -/

/-- What the parser makes of a packet: poison with its reason, deep, or a packet; with what had been read, and whether the
route and transport headers had been reached. -/
inductive Parsed where
  | poison (reason : Nat) (k : Pkt) (route : Bool)
  | deep (k : Pkt) (transport : Bool)
  | ok (k : Pkt)
  deriving DecidableEq, Repr

/-- The link header's fields. -/
def linkOf (b : Bytes) : Pkt :=
  let b0 := byteAt b 0
  { cls := fld b0 5 4, dl := fld b0 6 6, epoch := fld b0 7 7, pitch := fieldAt b 2 2 % 4096 }

/-- A packet with the route header at `o` read. -/
def withRoute (k : Pkt) (b : Bytes) (o : Nat) : Pkt :=
  { k with destSlot := byteAt b (o + 1) % 64, destRack := byteAt b (o + 2) % 16, srcRack := byteAt b (o + 2) / 16,
           srcSlot := byteAt b (o + 3) % 64, ordered := bitOf (byteAt b (o + 3)) 6, plane := byteAt b (o + 4) % 32 }

/-- A packet with the span header at `o` read. -/
def withSpan (k : Pkt) (b : Bytes) (o : Nat) : Pkt :=
  { k with spanDim := some (byteAt b (o + 1) % 2), hops := byteAt b (o + 2), originTime := fieldAt b (o + 4) 4 }

/-- A packet with the transport header at `o` read; its operation's code is one of R173. -/
def withTransport (k : Pkt) (b : Bytes) (o : Nat) (op : POp) : Pkt :=
  let f := byteAt b (o + 1)
  let c := fieldAt b (o + 2) 2
  let coll := decide (op = .coll)
  { k with
    op := op, bump := bitOf f 0, last := bitOf f 1, spray := bitOf f 2, cm := bitOf f 3, sync := bitOf f 4
    mgmt := !coll && bitOf c 15
    conn := if coll then c % 2048 else if bitOf c 15 then c % 1024 else c % 4096
    psn := if coll then fieldAt b (o + 4) 2 else fieldAt b (o + 4) 3
    status := if op = .response then byteAt b (o + 7) else 0
    offset := if coll then 0 else fieldAt b (o + 8) 6
    space := if coll then 0 else byteAt b (o + 14) % 4
    bumpPeg := if coll ∨ op = .response then 0 else fieldAt b (o + 16) 2 % 8192
    gen := if coll ∨ op = .response then 0 else byteAt b (o + 18)
    arg := if coll ∨ op = .response then 0 else fieldAt b (o + 20) 4
    coll := if coll then (b.drop (o + 7)).take 17 else [] }

/-- A payload's length fits its operation and stays within 256 bytes of its offset (R175). -/
def payOk (k : Pkt) (n : Nat) : Bool :=
  match k.op with
  | .rwrite => decide (1 ≤ n ∧ n ≤ 256 ∧ k.offset % 256 + n ≤ 256)
  | .response => decide (n ≤ 256) && (n = 0 || decide (k.offset % 256 + n ≤ 256))
  | .coll => decide (n ≤ 256)
  | .rread => n = 0
  | .peg => n = 0

/-- The checks once the chain has been walked to byte `h` (R177): HDR_LEN, PAY_LEN, plane or destination. -/
def parseEnd (b : Base) (bytes : Bytes) (k : Pkt) (h : Nat) : Parsed :=
  let n := fieldAt bytes 4 2 % 512
  if byteAt bytes 1 ≠ h then .poison 1 k true
  else if !payOk k n then .poison 3 k true
  else if b.isWeir ∧ k.plane ≠ b.pos then .poison 5 k true
  else if !b.isWeir ∧ ¬(k.destRack = b.rack ∧ k.destSlot = b.pos) then .poison 6 k true
  else .ok { k with payload := (bytes.drop h).take n }

/-- The extension header at `o`; `fourth` says that it is the fourth header. -/
def parseExt (b : Base) (bytes : Bytes) (k : Pkt) (o : Nat) (fourth : Bool) : Parsed :=
  let n := byteAt bytes (o + 1)
  if n ≠ 8 ∧ n ≠ 16 then .poison 1 k true
  else if byteAt bytes o % 16 ≠ 0 then (if fourth then .deep k true else .poison 4 k true)
  else parseEnd b bytes { k with ext := (bytes.drop o).take n } (o + n)

/-- The transport header at `o`. A reserved OP has no range that PAY_LEN could lie in (R173, R177; log 31). -/
def parseTransport (b : Base) (bytes : Bytes) (k : Pkt) (o : Nat) (third : Bool) : Parsed :=
  match opOf (byteAt bytes o / 16) with
  | none => .poison 3 k true
  | some op =>
    let k := withTransport k bytes o op
    let next := byteAt bytes o % 16
    if next = 0 then parseEnd b bytes k (o + 24)
    else if next = 4 then parseExt b bytes k (o + 24) third
    else .poison 4 k true

/-- The parser of a fabric-port ingress: `len` is the received length (R176). -/
def parsePacket (b : Base) (len : Nat) (bytes : Bytes) : Parsed :=
  let k := linkOf bytes
  if byteAt bytes 0 % 16 ≠ 1 then .poison 4 k false
  else if len ≠ byteAt bytes 1 + fieldAt bytes 4 2 % 512 then .poison 2 k false
  else
    let k := withRoute k bytes 8
    match byteAt bytes 8 % 16 with
    | 2 =>
      let k := withSpan k bytes 16
      if byteAt bytes 16 % 16 = 3 then parseTransport b bytes k 24 true else .poison 4 k true
    | 3 => parseTransport b bytes k 16 false
    | _ => .poison 4 k true

/-! ## Injection at a link die (R162, R163, R166, R195) -/

/-- The RESPONSE to a packet, with a status and a payload, from this package or in its name (R166, R173, R178). -/
def responseTo (k : Pkt) (epoch status : Nat) (psn offset : Nat) (payload : Bytes) (last : Bool) : Pkt :=
  { cls := 1, epoch := epoch, pitch := k.pitch, destRack := k.srcRack, destSlot := k.srcSlot, srcRack := k.destRack,
    srcSlot := k.destSlot, ordered := k.ordered, plane := k.plane, op := .response, last := last, spray := k.spray,
    cm := k.cm, mgmt := k.mgmt, conn := k.conn, psn := psn, status := status, offset := offset, space := k.space,
    payload := payload }

/-- A negative acknowledgement: a RESPONSE whose status is not OK; it is never answered (R170, R176, R178). -/
def isNack (k : Pkt) : Bool := decide (k.op = .response ∧ k.status ≠ 0)

/-- A port takes a packet: it is ACTIVE and not draining, or in HOLD with room in the VC's buffer (R195, R199). -/
def portTakes (b : Base) (q : Nat) (k : Pkt) : Bool :=
  let x := b.port q
  (portUp b q && !x.draining) ||
    (portState b q = 8 && !x.draining && decide (queuedOfVc x (pktVc k) + pktLen k ≤ 40960))

/-- A port is up for plane choice (R162, R195). -/
def portOpen (b : Base) (q : Nat) : Bool := portUp b q && !(b.port q).draining

/-- A packet is injected on package port `q`, on the plane of that number (R16, R161, R169). -/
def injectOn (p : Package) (q : Nat) (k : Pkt) : Package :=
  p.mapBase fun b => portSend (inflightAdd b k.epoch) q { k with plane := q, dl := 0 }

/-- A response leaves on the plane its request came by, if the port takes it; else it is lost (R220; log 32). It carries the epoch
that its maker gave it (R166, R170). -/
def injectResponse (p : Package) (q : Nat) (k : Pkt) : Package :=
  if k.destRack = p.base.rack ∧ k.destSlot = p.base.pos then
    { p with fab := { p.fab with delivered := p.fab.delivered ++ [(18, k)] } }
  else if q < 18 && portTakes p.base q k then injectOn p q k
  else p

/-- The port has room for the data of a read before the read is issued: within the 40 KiB of the response VC on a port that carries
or holds packets (R152, R155, R195; log 155). A response that no port can take is lost, and asks for no room. -/
def dataRoom (b : Base) (q n : Nat) : Bool :=
  !(portOpen b q || portState b q = 8) || decide (queuedOfVc (b.port q) 2 + n + 40 * (n / 256 + 2) ≤ 40960)

/-- The ports, 0–17, that a sprayed packet of a connection may take now: the destination's PLANE_MASK in the active epoch,
the spray set and the open ports of the link die (R162). -/
def sprayPorts (p : Package) (c : Nat) (x : Conn) : List Nat :=
  let mask := fld (routeEntry p p.epoch (x.peerRack * 64 + x.peerSlot)) 17 0
  ((List.range 9).filter fun l => bitOf x.spray l && bitOf mask (9 * (c / 2048) + l) && portOpen p.base (9 * (c / 2048) + l)).map
    fun l => 9 * (c / 2048) + l

/-- The next of several ports after the one used last. -/
def nextPort (ports : List Nat) (last : Nat) : Option Nat :=
  match ports.find? fun q => decide (last < q) with
  | some q => some q
  | none => ports.head?

/-- A packet of connection `c` that was held is injected again in the active epoch on another port and no longer counted in its
old one, or waits for a port and stays counted (R162, R169, R197). -/
def reinject (p : Package) (k : Pkt) : Package :=
  let x := p.conn k.conn
  match nextPort (sprayPorts p k.conn x) x.rr with
  | some q => (injectOn (p.mapBase fun b => inflightSub b k.epoch) q { k with epoch := p.epoch }).setConn k.conn { x with rr := q }
  | none => { p with fab := { p.fab with waitPath := p.fab.waitPath ++ [k] } }

/-! ## Ingress at a link die (R170, R176, R177, R181) -/

/-- A packet's bytes leave the receive buffer of its VC, and their credits are owed (R155); with whether they had been received, and so
are counted in flight (R169). -/
def takeRx (b : Base) (q : Nat) (bytes : Bytes) : Base × Bool :=
  let x := b.port q
  let vc := byteAt bytes 0 / 16 % 8
  let vc := 2 * (vc % 4) + vc / 4
  let have' := mget [] x.rx vc
  if bytes ≠ [] ∧ have'.take bytes.length = bytes then
    (oweCredits (b.setPort q { x with rx := mset x.rx vc (have'.drop bytes.length) }) q vc ((bytes.length + 63) / 64), true)
  else (b, false)

/-- A packet that an ingress discards is no longer counted (R169). -/
def discardRx (b : Base) (counted : Bool) (bytes : Bytes) : Base := if counted then inflightSub b (epochOf bytes) else b

/-- Whether an epoch is open at a package or Weir (R167). -/
def epochOpen (b : Base) (e : Nat) : Bool :=
  bitOf (rd b (if b.isWeir then 0x10000 else routePage + Off.ROUTE_EPOCH)) (1 + e)

/-- PACKET_INGRESS (R176). -/
def packetIngress (p : Package) (q len : Nat) (bytes : Bytes) : Package :=
  let page := linkPage (q / 9) 1
  let w0 := fieldAt bytes 0 4
  let (b, counted) := takeRx p.base q bytes
  let p := { p with base := discardRx b counted bytes }
  match parsePacket p.base len bytes with
  | .poison reason k route =>
    raise (p.count (page + Off.PARSE_POISON_CNT)) page 1
      { c2 := q + reason * 2 ^ 8, c3 := w0, pitch := k.pitch, src := if route then some (k.srcRack, k.srcSlot) else none }
  | .deep k reached =>
    let p := raise (p.count (page + Off.PARSE_DEEP_CNT)) page 0 {}
    if reached && !isNack k then injectResponse p q (responseTo k p.epoch 1 k.psn k.offset [] false) else p
  | .ok k =>
    if epochOpen p.base k.epoch then
      let p := p.count (routePage + Off.STALE_CNT)
      let p := raise p routePage 0 { c2 := q + k.epoch * 2 ^ 8, c3 := w0, pitch := k.pitch, src := some (k.srcRack, k.srcSlot) }
      if isNack k then p else injectResponse p q (responseTo k (1 - k.epoch) 2 k.psn k.offset [] false)
    else
      let p := p.mapBase fun b => inflightAdd b k.epoch
      { p with fab := { p.fab with delivered := p.fab.delivered ++ [(q, k)] } }

/-- PACKET_INGRESS (R176). -/
def execPacketIngress (p port len : Nat) (bytes : Bytes) (s : State) : Res := onPkg p (fun x => packetIngress x port len bytes) s

/-- A packet that a port accepted is delivered or discarded: it is no longer counted in flight (R169). -/
def takeDelivered (p : Package) (q : Nat) (k : Pkt) : Package :=
  if p.fab.delivered.contains (q, k) then
    let p := { p with fab := { p.fab with delivered := p.fab.delivered.erase (q, k) } }
    if q < 18 then p.mapBase fun b => inflightSub b k.epoch else p
  else p

/-! ## Epochs (R167) -/

/-- A write of ROUTE_EPOCH or WEIR_EPOCH: refused, or the new base. A field is set where the write changes it (log 33). -/
def epochWrite (b : Base) (val : Nat) : Option Base :=
  let a := if b.isWeir then 0x10000 else routePage + Off.ROUTE_EPOCH
  let old := rd b a
  let opens := fun (e : Nat) =>
    bitOf val (1 + e) && !bitOf old (1 + e) && (fld old 0 0 = e || rdF b (inflightReg b e) 15 0 ≠ 0)
  let switch := fld val 0 0 ≠ fld old 0 0 && bitOf old (1 + fld val 0 0)
  if opens 0 || opens 1 || switch then none else some (wr b a (val % 8))

/-! ## A Weir's forwarding (R164, R165, R172) -/

/-- The routing registers of a Weir (R164). -/
def slotRoute (e s : Nat) : Nat := 0x11000 + 0x100 * e + 4 * s
def rackRoute (e r : Nat) : Nat := 0x11200 + 0x40 * e + 4 * r
def weirCounter (q off : Nat) : Nat := 0x12000 + 0x10 * q + off

/-- The Weir's registers and base changed. -/
def Weir.mapBase (w : Weir) (f : Base → Base) : Weir := { w with base := f w.base }
def Weir.rd (w : Weir) (a : Nat) : Nat := Machine.rd w.base a
def Weir.wr (w : Weir) (a v : Nat) : Weir := w.mapBase fun b => Machine.wr b a v
def Weir.bump (w : Weir) (a : Nat) : Weir := w.mapBase fun b => bumpSat b a 1

/-- Width of a code of the span's shape (R164). -/
def shapeSize (c : Nat) : Nat := if c = 0 then 1 else if c = 1 then 2 else 4

/-- The leg to another rack: dimension (0 X, 1 Y), direction (0 for +, 1 for −), and whether it crosses the wrap link
(R161, R164). -/
def spanLeg (coord destRack : Nat) : Option (Nat × Nat × Bool) :=
  let leg := fun (own dest n : Nat) =>
    let d := (dest + n - own % n) % n
    if d = 0 then none else if 2 * d ≤ n then some (0, decide (own + 1 = n)) else some (1, decide (own = 0))
  match leg (fld coord 1 0) (destRack % 4) (shapeSize (fld coord 5 4)) with
  | some (dir, wrap) => some (0, dir, wrap)
  | none =>
    match leg (fld coord 3 2) (destRack / 4) (shapeSize (fld coord 7 6)) with
    | some (dir, wrap) => some (1, dir, wrap)
    | none => none

/-- The up-ports of a direction that are enabled in UP_MASK and ACTIVE (R164, R195). -/
def upPorts (w : Weir) (e rack dim dir : Nat) : List Nat :=
  let r := w.rd (rackRoute e rack)
  let lo := 64 + 4 * dim + 2 * dir
  [lo, lo + 1].filter fun q => bitOf r 0 && bitOf r (8 + (q - 64)) && portOpen w.base q

/-- The packet as it leaves on an up-port: span header, HOPS and DL (R161, R172). -/
def spanPacket (w : Weir) (k : Pkt) (dim : Nat) (wrap : Bool) : Pkt :=
  let dl := if wrap then 1 else if k.spanDim = some dim then k.dl else 0
  { k with
    spanDim := some dim, hops := (k.hops + 1) % 256, dl := dl
    originTime := if k.spanDim.isNone then w.base.gtime % 2 ^ 32 else k.originTime }

/-- A Weir's down-port takes packets: it is ACTIVE and accepts new ones, or in HOLD, where packets queue until the hold expires
(R195, R198, R199). -/
def downOpen (b : Base) (q : Nat) : Bool := portOpen b q || (portState b q = 8 && !(b.port q).draining)

/-- Where a packet goes: the Weir with its spray alternation, the egress port and the packet as it leaves; none for no
route (R164, R172, R195). -/
def weirPlace (w : Weir) (k : Pkt) : Weir × Option (Nat × Pkt) :=
  if 6 < k.hops then (w, none)
  else if k.destRack = w.base.rack then
    if bitOf (w.rd (slotRoute k.epoch k.destSlot)) 0 && downOpen w.base k.destSlot then (w, some (k.destSlot, { k with dl := 0 }))
    else (w, none)
  else
    match spanLeg (w.rd 0x1000C) k.destRack with
    | none => (w, none)
    | some (dim, dir, wrap) =>
      match upPorts w k.epoch k.destRack dim dir with
      | [] => (w, none)
      | [q] => (w, some (q, spanPacket w k dim wrap))
      | lo :: hi :: _ =>
        if k.ordered then (w, some (if (k.srcSlot + k.conn) % 2 = 0 then lo else hi, spanPacket w k dim wrap))
        else
          let d := 2 * dim + dir
          let high := w.alternate.contains d
          ({ w with alternate := if high then w.alternate.filter (· ≠ d) else w.alternate ++ [d] },
           some (if high then hi else lo, spanPacket w k dim wrap))

/-- A packet joins an egress queue; behind 64 KiB of its class it is marked (R224). -/
def weirSend (w : Weir) (q : Nat) (k : Pkt) : Weir :=
  let mark := decide (k.cls ≤ 1 ∧ 65536 ≤ queuedOfClass (w.base.port q) k.cls)
  w.mapBase fun b => portSend (inflightAdd b k.epoch) q { k with cm := k.cm || mark }

/-- Records of the parser's events at a Weir: 8 HDR_DEEP, 9 HDR_POISON, 10 STALE_EPOCH, 11 NO_ROUTE (log 30). -/
def weirEvent (w : Weir) (q bit sev c2 c3 : Nat) : Weir := w.mapBase fun b => weirRecord b q bit sev { c2 := c2, c3 := c3 }

/-- A packet is discarded for lack of a route and counted at port `q` (R178). -/
def weirLost (w : Weir) (q : Nat) (k : Pkt) : Weir := weirEvent (w.bump (weirCounter q 0xC)) q 11 0 (q + k.epoch * 2 ^ 8) 0

/-- The port a packet of the Weir's own would leave by: the down-port of its slot, or the lower up-port of its leg. -/
def portMeant (w : Weir) (k : Pkt) : Nat :=
  if k.destRack = w.base.rack then k.destSlot
  else
    match spanLeg (w.rd 0x1000C) k.destRack with
    | some (dim, dir, _) => 64 + 4 * dim + 2 * dir
    | none => 64

/-- A packet the Weir makes itself, or passes on for a collective, leaves on its route; without one it is discarded and counted at
the port it would have left by (R178; log 154). -/
def weirOriginate (w : Weir) (k : Pkt) : Weir :=
  match weirPlace w k with
  | (w, some (out, k)) => weirSend w out k
  | (w, none) => weirLost w (portMeant w k) k

/-- A packet without a route is discarded, counted, and answered unless it is a negative acknowledgement (R178). -/
def weirNoRoute (w : Weir) (q : Nat) (k : Pkt) : Weir :=
  let w := weirLost w q k
  if isNack k then w else weirOriginate w (responseTo k k.epoch 3 k.psn k.offset [] false)

/-- Forwarding of a parsed packet that is not the Weir's own to consume. -/
def weirRoute (w : Weir) (q : Nat) (k : Pkt) : Weir :=
  match weirPlace w k with
  | (w, some (out, k')) => weirSend w out k'
  | (w, none) => weirNoRoute w q k

/-- The Weir consumes a collective packet that arrives on a down-port, or on an up-port for its own rack (R245). -/
def weirConsumes (w : Weir) (q : Nat) (k : Pkt) : Bool :=
  decide (k.op = .coll) && (decide (q < 64) || decide (k.destRack = w.base.rack))

/-- A Weir's ingress up to the forwarding decision: the packet to forward or consume, if it passes (R170, R176, R177). -/
def weirIngress (w : Weir) (q len : Nat) (bytes : Bytes) : Weir × Option Pkt :=
  let w0 := fieldAt bytes 0 4
  let (b, counted) := takeRx w.base q bytes
  let w := { w with base := discardRx b counted bytes }
  match parsePacket w.base len bytes with
  | .poison reason _ _ => (weirEvent (w.bump (weirCounter q 4)) q 9 2 (q + reason * 2 ^ 8) w0, none)
  | .deep k reached =>
    let w := weirEvent (w.bump (weirCounter q 0)) q 8 0 0 0
    if reached && !isNack k then (weirOriginate w (responseTo k k.epoch 1 k.psn k.offset [] false), none) else (w, none)
  | .ok k =>
    if epochOpen w.base k.epoch then
      let w := weirEvent (w.bump (weirCounter q 8)) q 10 2 (q + k.epoch * 2 ^ 8) w0
      if isNack k then (w, none) else (weirOriginate w (responseTo k (1 - k.epoch) 2 k.psn k.offset [] false), none)
    else (w, some k)

end Sys2Proof.Machine
end

