-- ==== Sys2Proof/Machine/Tile.lean ====
section
/-! DEFINITION. The tile's engines on memory: COPY, FILL, MATMUL and a failing matrix engine (R85, R99–R103). -/

namespace Sys2Proof.Machine

/-! ## Shared ways of engines -/

/-- The status of reading some bytes: any on a hollow unit, any withheld, or all readable (R85, R122). -/
def readStatus (p : Package) (cs : List Nat) : Nat :=
  if cs.any (deadAt p) then St.hollowUnit else if cs.any (badAt p) then St.dataUncorrectable else St.ok

/-- After a read that failed, a destination byte that has a value holds its old or its new value: an open choice (R85;
log 7). A byte whose source was withheld keeps its old value. -/
def mixed (free status : Nat) (bs : List (Option Byte)) : List (Option Byte) :=
  if status = 0 then bs
  else (List.range bs.length).map fun i => if Config.freeChoice free i % 2 = 0 then none else nth none bs i

/-- The first of two statuses that is not OK. -/
def firstStatus (a b : Nat) : Nat := if a ≠ 0 then a else b

/-- A range is within the tile that the hopper serves: its package offset. -/
def tileOff (p : Package) (r : HopRef) (off : Nat) : Nat := sramBase (tileOfHop p r) + off

/-- A run of bytes is written by a tile's engine: the package and the first failure. -/
def engineWrite (p : Package) (die : Nat) (acc : Nat) (off : Nat) (bs : List (Option Byte)) : Package × Nat :=
  let (p, st) := writeMem p die off bs
  (p, firstStatus acc st)

/-- Rows are written one after the other. -/
def writeRows (p : Package) (die st : Nat) (rows : List (Nat × List (Option Byte))) : Package × Nat :=
  rows.foldl (fun acc r => engineWrite acc.1 die acc.2 r.1 r.2) (p, st)

/-- A command of an engine runs on its issued descriptor of one opcode; the engine stalls where its memory does not serve
it now (R117, R465), and a command that names no such descriptor finds nothing to do (log 1). -/
def runEngine (k : Nat) (r : HopRef) (idx op : Nat) (ready : Package → HopEntry → Bool)
    (f : Nat → Package → HopEntry → Package) (s : State) : Res :=
  onPkgFree k (fun free p => match issuedEntry p r idx op with
    | some e => if ready p e then f free p e else p
    | none => p) s

/-! ## COPY and FILL (R99) -/

/-- COPY: LENGTH bytes move; each withheld source line leaves its destination as it was (R85, R99). -/
def copyDesc (r : HopRef) (free : Nat) (p : Package) (e : HopEntry) : Package :=
  let n := fieldAt e.bytes 32 4
  let die := p.dieOfTile (tileOfHop p r)
  let (p, st, bs) := readMem p die (fieldAt e.bytes 16 8) n
  let (p, st') := writeMem p die (fieldAt e.bytes 24 8) (mixed free st bs)
  finishEntry p r e.idx (firstStatus st st') false

/-- Source and destination are served now. -/
def copyReady (p : Package) (e : HopEntry) : Bool :=
  memReady p (fieldAt e.bytes 16 8) (fieldAt e.bytes 32 4) && memReady p (fieldAt e.bytes 24 8) (fieldAt e.bytes 32 4)

/-- COPY (R99). -/
def execCopy (p : Nat) (ref : HopRef) (idx : Nat) (s : State) : Res :=
  runEngine p ref idx 0x01 copyReady (copyDesc ref) s

/-- FILL: LENGTH bytes of PATTERN, repeated from DST (R99). -/
def fillDesc (r : HopRef) (_free : Nat) (p : Package) (e : HopEntry) : Package :=
  let n := fieldAt e.bytes 32 4
  let bs := (List.range n).map fun i => nth 0 e.bytes (16 + i % 8)
  let (p, st) := writeBytes p (p.dieOfTile (tileOfHop p r)) (fieldAt e.bytes 24 8) bs
  finishEntry p r e.idx st false

/-- FILL (R99). -/
def execFill (p : Nat) (ref : HopRef) (idx : Nat) (s : State) : Res :=
  runEngine p ref idx 0x02 (fun p e => memReady p (fieldAt e.bytes 24 8) (fieldAt e.bytes 32 4)) (fillDesc ref) s

/-! ## Operands of the arithmetic engines -/

/-- The raw bits of element `i` of an array at a package offset; none where a byte is withheld (R105, R107). -/
def rawAt (p : Package) (base code i : Nat) : Option Nat :=
  if fmtBits code = 4 then (byteRead p (canon p (base + i / 2))).map fun b => b.toNat / 16 ^ (i % 2) % 16
  else
    let es := fmtBits code / 8
    let bs := (List.range es).map fun k => byteRead p (canon p (base + i * es + k))
    if bs.any Option.isNone then none else some (ofLe (bs.map fun b => b.getD 0))

/-- The value of element `i`, and times the scale byte at `sc` for a block format (R107). -/
def valAt (p : Package) (base code i sc : Nat) : Option Val :=
  match rawAt p base code i with
  | none => none
  | some raw =>
    if isBlock code then (byteRead p (canon p sc)).map fun b => scaleBy b.toNat (decodeElem code raw)
    else some (decodeElem code raw)

/-- Every element of a list has its value. -/
def allVals (l : List (Option Val)) : Option (List Val) :=
  if l.any Option.isNone then none else some (l.map fun v => v.getD .nan)

/-! ## MATMUL (R100–R102) -/

/-- The bytes an operand of rows covers. -/
def rowBytes (base rows stride row : Nat) : List Nat :=
  (List.range rows).flatMap fun m => (List.range row).map fun i => base + m * stride + i

/-- The products of chunk `j` of element (m, n): terms scaleA × a × scaleB × b for k in [32j, min(32j + 32, K)) (R102). -/
def matChunk (p : Package) (t : Nat) (x : Mat) (m n j : Nat) : Option (List Val) :=
  let kb := (x.k + 31) / 32
  let base := sramBase t
  allVals ((List.range (min 32 (x.k - 32 * j))).map fun i =>
    match valAt p (base + x.a + m * x.sa) x.fa (32 * j + i) (base + x.scA + m * kb + j),
          valAt p (base + x.b + n * x.sb) x.fb (32 * j + i) (base + x.scB + n * kb + j) with
    | some a, some b => some (a.mul b)
    | _, _ => none)

/-- One chunk is added: exact sum, then one rounding to FP32, or a saturating INT32 add (R102). The Bool tells saturation. -/
def matAdd (int8 : Bool) (acc : Val × Bool) (terms : List Val) : Val × Bool :=
  let s := sumExact terms
  if int8 then
    let (i, sat) := satAdd32 acc.1.toInt s.toInt
    (ofInt i 0, acc.2 || sat)
  else (roundFp32 (sumExact [acc.1, s]), acc.2)

/-- Element (m, n) of D before its conversion; none where it depends on withheld bytes (R102). -/
def matElem (p : Package) (t : Nat) (x : Mat) (m n : Nat) : Option (Val × Bool) :=
  let int8 := decide (x.fa = 8)
  let c := if x.acc then valAt p (sramBase t + x.c + m * x.sd) (if int8 then 10 else 0) n 0 else some (.fin false 0 0)
  match c with
  | none => none
  | some c =>
    (List.range ((x.k + 31) / 32)).foldl (fun acc j =>
      match acc, matChunk p t x m n j with
      | some a, some terms => some (matAdd int8 a terms)
      | _, _ => none) (some (c, false))

/-- The bytes of one converted element, and whether it saturated (R106); withheld elements have none. -/
def encodeOut (code : Nat) (v : Option (Val × Bool)) : List (Option Byte) × Bool :=
  match v with
  | none => (List.replicate (fmtBits code / 8) none, false)
  | some (x, sat) =>
    let (bits, s) := encodeElem code x
    ((le (fmtBits code / 8) bits).map some, sat || s)

/-- A row of D. -/
def matRow (p : Package) (t : Nat) (x : Mat) (m : Nat) : List (Option Byte) × Bool :=
  (List.range x.n).foldl (fun acc n =>
    let (b, s) := encodeOut x.fd (matElem p t x m n)
    (acc.1 ++ b, acc.2 || s)) ([], false)

/-- The bytes MATMUL reads. -/
def matReads (t : Nat) (x : Mat) : List Nat :=
  let b := sramBase t
  let kb := (x.k + 31) / 32
  rowBytes (b + x.a) x.m x.sa x.rowA ++ rowBytes (b + x.b) x.n x.sb x.rowB
    ++ (if x.acc then rowBytes (b + x.c) x.m x.sd x.rowC else [])
    ++ (if isBlock x.fa then rowBytes (b + x.scA) x.m kb kb else [])
    ++ (if isBlock x.fb then rowBytes (b + x.scB) x.n kb kb else [])

/-- The MACs of one engine in a matrix cycle (R101). -/
def macRate (fa : Nat) : Nat := if fa = 1 ∨ fa = 2 then 8192 else 16384

/-- A logical engine that the mask names is hollow, or has no physical engine (R103, R109). -/
def maskHollow (p : Package) (t mask : Nat) : Bool :=
  (List.range 8).any fun i => bitOf mask i &&
    (bitOf (p.rdF (tilePage t 0 + Off.ME_HOLLOW) 7 0) i || decide (8 < p.rdF (tilePage t 0 + Off.ME_MAP) (4 * i + 3) (4 * i)))

/-- MATMUL: D = A × Bᵀ (+ C); PERF_MATRIX_BUSY counts the cycles its MACs need (R101, R102; log 20). One that meets an engine that has
become hollow since its decode ends HOLLOW_UNIT (R103). -/
def matmulDesc (r : HopRef) (free : Nat) (p : Package) (e : HopEntry) : Package :=
  let x := matOf e.bytes
  let t := tileOfHop p r
  if maskHollow p t x.mask then finishEntry p r e.idx St.hollowUnit false else
  let die := p.dieOfTile t
  let cs := matReads t x
  let st := readStatus p cs
  let rows := (List.range x.m).map fun m =>
    (sramBase t + x.d + m * x.sd, mixed free st (matRow p t x m).1)
  let sat := (List.range x.m).any fun m => (matRow p t x m).2
  let p := noteBad p cs die
  let (p, st) := writeRows p die st rows
  let macs := popcount x.mask 8 * macRate x.fa
  let p := countFlagged p (tilePage t 0 + Off.PERF_MATRIX_BUSY) ((x.m * x.n * x.k + macs - 1) / macs) 5
  finishEntry p r e.idx st sat

/-- The tile's SRAM is served now: no repair runs, and no earlier write waits for a granule (R118, R465). -/
def sramReady (r : HopRef) (p : Package) (_e : HopEntry) : Bool :=
  (mfind (tileOfHop p r) p.mem.repairing).isNone && p.mem.zeroWait.all fun w => decide (w.1 ≠ tileOfHop p r)

/-- MATMUL (R102). -/
def execMatmul (p : Nat) (ref : HopRef) (idx : Nat) (s : State) : Res :=
  runEngine p ref idx 0x10 (sramReady ref) (matmulDesc ref) s

/-! ## A matrix engine fails (R103) -/

/-- The logical engines of tile `t` that a physical engine serves (R103, R109). -/
def logicalOf (p : Package) (t phys : Nat) : List Nat :=
  (List.range 8).filter fun i => decide (p.rdF (tilePage t 0 + Off.ME_MAP) (4 * i + 3) (4 * i) = phys)

/-- A MATMUL that ran on the failing engine ends HOLLOW_UNIT; its D extent holds old and new values (R103). -/
def failMatmul (free : Nat) (ls : List Nat) (p : Package) (r : HopRef) : Package :=
  (p.hop r).foldl (fun q e =>
    if e.stage = .issued ∧ dOp e.bytes = 0x10 ∧ (ls.any fun i => bitOf (matOf e.bytes).mask i) then
      let x := matOf e.bytes
      let t := tileOfHop q r
      let rows := (List.range x.m).map fun m => (sramBase t + x.d + m * x.sd, mixed free 6 (matRow q t x m).1)
      finishEntry (writeRows q (q.dieOfTile t) 0 rows).1 r e.idx St.hollowUnit false
    else q) p

/-- ENGINE_FAILED: the physical engine is fenced, its logical numbers are hollow, its descriptor ends (R103, R110). -/
def engineFailed (free : Nat) (p : Package) (t phys : Nat) : Package :=
  let ls := logicalOf p t phys
  let p := { p with tl := { p.tl with fencedEngines := mupd 0 p.tl.fencedEngines t fun m => m ||| 2 ^ phys } }
  let p := (hopsOn p t).foldl (failMatmul free ls) p
  let p := p.wrF (tilePage t 0 + Off.ME_HOLLOW) 7 0 (p.rdF (tilePage t 0 + Off.ME_HOLLOW) 7 0 ||| ofBits ls)
  ls.foldl (fun p i => raise p (tilePage t 0) 2 { c2 := i, c3 := phys }) p

/-- ENGINE_FAILED (R103). -/
def execEngineFailed (p t phys : Nat) (s : State) : Res := onPkgFree p (fun free x => engineFailed free x t phys) s

end Sys2Proof.Machine
end

