-- ==== Sys2Proof/Machine/Rma.lean ====
section
/-! DEFINITION. Remote memory access: descriptors on connections, packets out, checks and application at the target,
acknowledgements, retransmission, breaks and the rows of the table that drive them (R205–R229, R263–R268). -/

namespace Sys2Proof.Machine

/-! ## Connections -/

/-- The link die of a connection (R205), and its RMA page and connection window. -/
def connDie (c : Nat) : Nat := c / 2048
def rmaPage (d : Nat) : Nat := linkPage d 2
def connPage (d : Nat) : Nat := linkPage d 3

/-- PLANE_ORD of a plane: committed ordered source contexts whose plane is that port (R400). -/
def planeOrd (p : Package) (q : Nat) : Nat :=
  (p.fab.conns.filter fun e => e.2.commit && e.2.ordered && !e.2.target && decide (connPlane e.1 e.2 = q)).length

/-- Planes are being drained, and each has no ordered connection left (R401). -/
def planesClear (p : Package) : Bool :=
  let m := p.rdF (hubPage 2 + Off.DRAIN_PLANES) 17 0
  decide (m ≠ 0) && (bitList m 18).all fun q => planeOrd p q = 0

/-- PLANES_DRAINED is raised when a change from `old` leaves the planes clear (R401). -/
def notePlanes (old p : Package) : Package := if planesClear p && !planesClear old then raise p (hubPage 2) 1 {} else p

/-- The charge of a request packet in bytes, and a connection's outstanding charge (R222). -/
def chargeOf (k : Pkt) : Nat := if k.op = .rread then 4096 else 256
def outstanding (ks : List Pkt) : Nat := ks.foldl (fun n k => n + chargeOf k) 0

/-- Read tags in use on a link die: one for each read request whose data are not all in (R228). -/
def tagsUsed (p : Package) (d : Nat) : Nat :=
  p.fab.conns.foldl (fun n e => if connDie e.1 = d then n + e.2.reading.length else n) 0

/-- The status a RESPONSE status completes with (R230). -/
def completionOf (st : Nat) : Nat :=
  match st with
  | 0x01 => St.headerDepth
  | 0x03 => St.noRoute
  | 0x10 => St.remoteCrossPitch
  | 0x11 => St.remoteAddressFault
  | 0x12 => St.hollowUnit
  | 0x13 => St.dataUncorrectable
  | 0x14 => St.struck
  | 0x15 => St.connAbsent
  | 0x17 => St.bumpRefused
  | 0x18 => St.bumpHollow
  | n => n

/-- A descriptor on a connection ends: its engine has finished it (R216, R230). -/
def finishOp (p : Package) (o : ConnOp) : Package :=
  match o.ref with
  | some r => finishEntry p r o.idx o.status false
  | none => p

/-- The oldest operation of a connection that still has something to send (R214). -/
def nextOp (x : Conn) : Option ConnOp := x.queue.find? fun o => decide (o.sent < o.len)

/-- The operations of a queue that have nothing left to send and nothing unanswered leave it, finished; with nothing left to send
the connection waits at no bound (R216, R229). -/
def settleOps (p : Package) (c : Nat) : Package :=
  let x := p.conn c
  let done := fun (o : ConnOp) => decide (o.len ≤ o.sent ∧ o.pending = 0)
  let p := (x.queue.filter done).foldl finishOp (p.setConn c { x with queue := x.queue.filter fun o => !done o })
  if (nextOp x).isNone then stallEnd p c else p

/-- The operation that holds a PSN, and it changed (R214). -/
def holdsPsn (psn : Nat) (o : ConnOp) : Bool :=
  match o.firstPsn with
  | none => false
  | some f => decide (serialDist 24 psn f ≤ serialDist 24 o.lastPsn f)
def mapOp (psn : Nat) (f : ConnOp → ConnOp) (q : List ConnOp) : List ConnOp := q.map fun o => if holdsPsn psn o then f o else o

/-- The first failure decides an operation's status (R230). -/
def failOp (st : Nat) (o : ConnOp) : ConnOp := { o with status := firstStatus o.status st }

/-- A connection breaks: the failed packet's descriptor completes with its status, the others with CONN_BROKEN (R226). -/
def breakConn (p : Package) (c st psn : Nat) : Package :=
  let x := p.conn c
  let d := connDie c
  let ops := x.queue.map fun o => if holdsPsn psn o then failOp st o else failOp St.connBroken o
  let p := ops.foldl finishOp (p.setConn c { x with broken := true, queue := [], unacked := [], reading := [], retries := 0 })
  let p := stallEnd p c
  let p := p.count (rmaPage d + Off.BROKEN_CNT)
  raise p (rmaPage d) 1 { c2 := c + st * 2 ^ 16, c3 := psn, pitch := x.pitch }

/-! ## At the source (R195, R212–R216, R222) -/

/-- The new operation of an RWRITE, RREAD or REMOTE_BUMP descriptor (R139, R212). -/
def newOp (r : HopRef) (e : HopEntry) : ConnOp :=
  let d := e.bytes
  let base : ConnOp := { ref := some r, idx := e.idx, op := .rwrite, len := 1, loc := 0, remote := 0, sent := 0,
                         firstPsn := none, lastPsn := 0, pending := 0, bump := false, peg := 0, add := 0, status := 0,
                         write := none }
  match dOp d with
  | 0x40 => { base with op := .rwrite, len := fieldAt d 20 4, loc := fieldAt d 24 8, remote := fieldAt d 32 8,
                        bump := bitOf (byteAt d 18) 0, peg := fieldAt d 40 2 % 8192, add := fieldAt d 44 4 }
  | 0x41 => { base with op := .rread, len := fieldAt d 20 4, loc := fieldAt d 24 8, remote := fieldAt d 32 8 }
  | _ => { base with op := .peg, len := 1, peg := fieldAt d 18 2 % 8192, add := fieldAt d 20 4 }

/-- The connection a remote descriptor names (R139, R212). -/
def connOf (d : Bytes) : Nat := if dOp d = 0x60 then fieldAt d 24 2 % 4096 else fieldAt d 16 2 % 4096

/-- A remote descriptor reaches its connection: it is queued, or refused at issue (R195, R226); while ENABLE of the link die's RMA
page is 0 it waits (R40). -/
def queueRemote (p : Package) (r : HopRef) (e : HopEntry) : Package :=
  let c := connOf e.bytes
  let x := p.conn c
  let st := portState p.base (connPlane c x)
  if !enabledPage p.base (rmaPage (connDie c)) then p
  else if x.broken then finishEntry p r e.idx St.connBroken false
  else if x.ordered && !isLoopback p x && st ≠ 7 && st ≠ 8 then finishEntry p r e.idx St.portLoss false
  else p.setConn c { x with queue := x.queue ++ [newOp r e] }

/-- RWRITE (R212). -/
def execRwrite (p : Nat) (ref : HopRef) (idx : Nat) (s : State) : Res :=
  onPkg p (fun x => match issuedEntry x ref idx 0x40 with
    | some e => queueRemote x ref e
    | none => x) s

/-- RREAD (R212). -/
def execRread (p : Nat) (ref : HopRef) (idx : Nat) (s : State) : Res :=
  onPkg p (fun x => match issuedEntry x ref idx 0x41 with
    | some e => queueRemote x ref e
    | none => x) s

/-- REMOTE_BUMP (R139). -/
def execRemoteBump (p : Nat) (ref : HopRef) (idx : Nat) (s : State) : Res :=
  onPkg p (fun x => match issuedEntry x ref idx 0x60 with
    | some e => if byteAt e.bytes 16 = 3 then queueRemote x ref e else x
    | none => x) s

/-- Bytes the next packet of an operation moves (R214). -/
def nextLen (o : ConnOp) : Nat :=
  let at' := o.remote + o.sent
  match o.op with
  | .rread => min (o.len - o.sent) (4096 - at' % 4096)
  | .rwrite => min (o.len - o.sent) (256 - at' % 256)
  | _ => 1

/-- The next packet of an operation without its payload and plane (R173, R210, R214, R215). -/
def requestPkt (p : Package) (c : Nat) (x : Conn) (o : ConnOp) : Pkt :=
  let n := nextLen o
  let last := decide (o.len ≤ o.sent + n)
  let bump := o.bump && (last || !x.ordered)
  { cls := 0, epoch := p.epoch, pitch := x.pitch, destRack := x.peerRack, destSlot := x.peerSlot, srcRack := p.base.rack,
    srcSlot := p.base.pos, ordered := x.ordered, op := o.op, bump := bump, last := last && o.op ≠ .rread,
    spray := !x.ordered, conn := c, psn := x.psn,
    offset := if o.op = .peg then 0 else o.remote + o.sent
    bumpPeg := if bump ∨ o.op = .peg then o.peg else 0
    arg := match o.op with
      | .rread => n
      | .peg => o.add
      | _ => if bump then o.add else 0 }

/-- Where a request packet goes now (R162, R195, R208). -/
inductive Path where
  | loop
  | port (q : Nat)
  | waits
  | refused (status : Nat)
  deriving DecidableEq, Repr

/-- The path of a connection's packet: its plane's port, the next sprayed port but for plane `avoid`, or the package itself; an
entry whose VALID is 0 names no reachable package (R162, R163, R195). -/
def pathOf (p : Package) (c : Nat) (x : Conn) (k : Pkt) (avoid : Option Nat := none) : Path :=
  let e := routeEntry p p.epoch (x.peerRack * 64 + x.peerSlot)
  if isLoopback p x then .loop
  else if !bitOf e 18 then .refused St.noRoute
  else if x.ordered then
    let q := connPlane c x
    if !bitOf e q then .refused St.planeUnavailable
    else if portTakes p.base q k then .port q
    else if portState p.base q = 8 then .waits
    else .refused St.portLoss
  else
    match nextPort ((sprayPorts p c x).filter fun q => decide (avoid ≠ some q)) x.rr with
    | some q => .port q
    | none => .waits

/-- A request packet leaves on its path. -/
def sendRequest (p : Package) (c : Nat) (k : Pkt) (path : Path) : Package :=
  match path with
  | .loop => { p with fab := { p.fab with delivered := p.fab.delivered ++ [(18, k)] } }
  | .port q => (injectOn p q k).setConn c { p.conn c with rr := q }
  | _ => p

/-- The payload of a write packet, and the status of reading it (R85, R119). -/
def payloadOf (p : Package) (c : Nat) (o : ConnOp) : Package × Nat × Bytes :=
  if o.op = .rwrite then readBytes p (16 + connDie c) (o.loc + o.sent) (nextLen o) else (p, 0, [])

/-- The operation's remaining packets are not sent: it ends with a status once those sent are answered. -/
def endOp (p : Package) (c st : Nat) (o : ConnOp) : Package :=
  let x := p.conn c
  let stop := fun (o' : ConnOp) => if o' = o then { failOp st o' with sent := o'.len } else o'
  settleOps (p.setConn c { x with queue := x.queue.map stop }) c

/-- The window of a connection has room for a packet (R222). -/
def windowOpen (x : Conn) (k : Pkt) : Bool := decide (outstanding x.unacked + chargeOf k ≤ x.window * 4096)

/-- The connections of a link die that wait for a read tag and still have a read to send (R228). -/
def tagWaiters (p : Package) (d : Nat) : List Nat :=
  (p.fab.waits.filter fun w => decide (w.1 < 4096 ∧ connDie w.1 = d ∧ w.2.2.1 = 0)
    && ((nextOp (p.conn w.1)).map fun o => decide (o.op = .rread)).getD false).map fun w => w.1

/-- A free read tag of its link die is this connection's (R228). -/
def tagFor (p : Package) (c : Nat) : Bool :=
  turnAllows 4096 (mget 0 p.fab.tagTurn (connDie c)) (8192 - tagsUsed p (connDie c)) c (tagWaiters p (connDie c))

/-- A connection could send its next packet now: its window is open, and it waits at no bound and for no memory (R117, R214,
R228). -/
def connReady (p : Package) (c : Nat) : Bool :=
  let x := p.conn c
  match nextOp x with
  | none => false
  | some o =>
    let k := requestPkt p c x o
    windowOpen x k && (o.op ≠ .rread || tagFor p c) && decide (pathOf p c x k ≠ .waits)
      && (o.op ≠ .rwrite || memReady p (o.loc + o.sent) (nextLen o))

/-- It is the connection's turn: the RMA engine of a link die serves the connections that could send one packet each, round-robin
(R214). -/
def sendTurn (p : Package) (c : Nat) : Bool :=
  let d := connDie c
  let ready := (p.fab.conns.filter fun e => decide (connDie e.1 = d) && connReady p e.1).map fun e => e.1
  decide (nextPort ready (mget 4095 p.fab.rmaTurn d) = some c)

/-- A connection's packet has left: the turns of its link die move, and it waits no more (R214, R228, R229). -/
def sentTurn (p : Package) (c : Nat) (op : POp) : Package :=
  let d := connDie c
  let tags := if op = .rread ∧ tagWaiters p d ≠ [] then mset p.fab.tagTurn d c else p.fab.tagTurn
  stallEnd { p with fab := { p.fab with rmaTurn := mset p.fab.rmaTurn d c, tagTurn := tags } } c

/-- The connection after its next packet: the operation has sent more, the packet awaits its acknowledgement, a read request its
data (R214, R222, R228). -/
def afterSend (x : Conn) (o : ConnOp) (k : Pkt) : Conn :=
  let o' := { o with sent := o.sent + nextLen o, pending := o.pending + 1, lastPsn := x.psn, firstPsn := some (o.firstPsn.getD x.psn) }
  { x with
    queue := x.queue.map fun y => if y = o then o' else y
    unacked := x.unacked ++ [k], psn := (x.psn + 1) % 2 ^ 24
    reading := if k.op = .rread then x.reading ++ [(k, [])] else x.reading }

/-- An operation that R162 or R163 rejects: counted in NO_ROUTE_CNT (R180). -/
def countNoRoute (p : Package) : Package := raise (p.count (routePage + Off.NO_ROUTE_CNT)) routePage 1 {}

/-- RMA_PACKET_SEND: the next packet of a connection's oldest unsent operation leaves in its turn, under window, tags and path
(R214, R222, R228). -/
def rmaPacketSend (p : Package) (c : Nat) : Package :=
  let x := p.conn c
  match nextOp x with
  | none => p
  | some o =>
    let k := requestPkt p c x o
    if !windowOpen x k then stallBegin p x.pitch c 2
    else if o.op = .rread && !tagFor p c then stallBegin p x.pitch c 0
    else
      match pathOf p c x k with
      | .waits => stallBegin p x.pitch c 3
      | .refused st => endOp (if st = St.portLoss then p else countNoRoute p) c st o
      | path =>
        if !sendTurn p c then p
        else
          let (p, st, data) := payloadOf p c o
          if st ≠ 0 then endOp p c st o
          else
            let k := { k with payload := data }
            sendRequest ((sentTurn p c o.op).setConn c (afterSend x o k)) c k path

/-! ## Answers reach the source (R220, R223, R225, R230) -/

/-- The request packets that an acknowledgement of a PSN covers: its own, and every older one where it is cumulative (R220). -/
def ackedBy (psn : Nat) (cumulative : Bool) (k : Pkt) : Bool := k.psn = psn || (cumulative && serialGt 24 psn k.psn)

/-- The window after an acknowledgement that released some charge (R223). -/
def windowAfter (b : Base) (x : Conn) (d : Nat) (cm : Bool) (psn released : Nat) : Base × Conn :=
  if cm then
    if serialGt 24 x.halvePsn psn then (b, x)
    else
      (count b (rmaPage d + Off.HALVE_CNT) 1, { x with window := max 1 (x.window / 2), grown := 0, halvePsn := x.psn })
  else
    let g := x.grown + released
    if x.window * 4096 ≤ g then (b, { x with window := min 64 (x.window + 1), grown := 0 }) else (b, { x with grown := g })

/-- A packet of an operation is answered. -/
def answered (q : List ConnOp) (psn : Nat) : List ConnOp := mapOp psn (fun o => { o with pending := o.pending - 1 }) q

/-- An acknowledgement is taken: charge is released, the window moves, and the retry count returns to 0 when the oldest PSN
advances (R222, R223, R225). A read request stays with its operation until its data are in (R216). -/
def takeAck (p : Package) (c psn : Nat) (cumulative cm : Bool) : Package :=
  let x := p.conn c
  let gone := x.unacked.filter (ackedBy psn cumulative)
  let stay := x.unacked.filter fun k => !ackedBy psn cumulative k
  let advanced := decide (x.unacked.head? ≠ stay.head?)
  let (b, y) := windowAfter p.base x (connDie c) cm psn (outstanding gone)
  let queue := gone.foldl (fun q k => if k.op = .rread then q else answered q k.psn) y.queue
  let y := { y with unacked := stay, queue := queue, retries := if advanced then 0 else y.retries
                    retxActed := if advanced then [] else y.retxActed }
  settleOps ({ p with base := b }.setConn c y) c

/-- A read request has its last data, or an error in their place: its read tag is free (R216, R228). -/
def endRead (p : Package) (c psn : Nat) : Package :=
  let x := p.conn c
  if x.reading.any fun r => decide (r.1.psn = psn) then
    p.setConn c { x with reading := x.reading.filter fun r => decide (r.1.psn ≠ psn), queue := answered x.queue psn }
  else p

/-! ### Retransmission (R162, R166, R225, R226) -/

/-- A retransmission waits for a path, once for each PSN. -/
def retxLater (p : Package) (k : Pkt) : Package :=
  if p.fab.retxWait.any fun j => decide (j.conn = k.conn ∧ j.psn = k.psn) then p
  else { p with fab := { p.fab with retxWait := p.fab.retxWait ++ [k] } }

/-- The operation that holds an unacknowledged packet ends with a status, and none of its packets is sent again (R162, R163). -/
def failUnacked (p : Package) (c st psn : Nat) : Package :=
  let x := p.conn c
  let stop := fun (o : ConnOp) => { failOp st o with sent := o.len, pending := 0 }
  let gone := fun (k : Pkt) => x.queue.any fun o => holdsPsn psn o && holdsPsn k.psn o
  settleOps (p.setConn c { x with
    queue := mapOp psn stop x.queue, unacked := x.unacked.filter fun k => !gone k
    reading := x.reading.filter fun r => !gone r.1 }) c

/-- An unacknowledged packet is sent again: a new injection in the active epoch under its PSN, on another plane than `avoid`.
One that finds no path waits for it; one whose destination or plane the route entry no longer has ends its operation, and on an
ordered connection a missing route breaks it; one whose ordered port is lost is left to the retry timer (R162, R163, R166, R195,
R225, R226). -/
def resend (avoid : Option Nat) (c : Nat) (p : Package) (k : Pkt) : Package :=
  let x := p.conn c
  let k := { k with epoch := p.epoch }
  if !x.unacked.any fun j => decide (j.psn = k.psn) then p
  else
    match pathOf p c x k avoid with
    | .waits => retxLater p k
    | .refused st =>
      if st = St.portLoss then p
      else
        let p := countNoRoute p
        if x.ordered ∧ st = St.noRoute then breakConn p c st k.psn else failUnacked p c st k.psn
    | path => sendRequest (p.count (rmaPage (connDie c) + Off.RETRANS_CNT)) c k path

/-- Packets are retransmitted in PSN order. -/
def retransmit (p : Package) (c : Nat) (ks : List Pkt) (avoid : Option Nat := none) : Package := ks.foldl (resend avoid c) p

/-- Held packets and retransmissions that waited for a port try again. -/
def retryWaiting (p : Package) : Package :=
  let ks := p.fab.waitPath
  let rs := p.fab.retxWait
  let p := ks.foldl reinject { p with fab := { p.fab with waitPath := [], retxWait := [] } }
  rs.foldl (fun p k => resend none k.conn p k) p

/-- STALE_EPOCH and OUT_OF_ORDER: retransmit at once, at most once for each value named until an acknowledgement advances
(R225). -/
def retransmitFrom (p : Package) (c psn : Nat) : Package :=
  let x := p.conn c
  if x.retxActed.contains psn then p
  else
    let p := p.setConn c { x with retxActed := x.retxActed ++ [psn] }
    retransmit p c (if x.ordered then x.unacked.filter fun k => serialGt 24 k.psn psn else x.unacked.filter fun k => decide (k.psn = psn))

/-! ### Read data -/

/-- A piece of a read's data is written where it belongs and noted (R216, R220). -/
def noteRead (p : Package) (c : Nat) (k : Pkt) (o : ConnOp) : Package :=
  let (p, st) := writeBytes p (16 + connDie c) (o.loc + (k.offset - o.remote)) k.payload
  let x := p.conn c
  let note := fun (r : Pkt × List Nat) =>
    if r.1.psn = k.psn ∧ ¬r.2.contains k.offset then (r.1, r.2 ++ [k.offset]) else r
  p.setConn c { x with queue := mapOp k.psn (failOp st) x.queue, reading := x.reading.map note }

/-- How many bytes the piece at an offset of a request holds: to the next 256-byte boundary, or the request's end (R175, R220). -/
def pieceLen (r : Pkt) (off : Nat) : Nat := min (256 - off % 256) (r.offset + r.arg - off)

/-- Every byte of a read request has been written. -/
def readWhole (x : Conn) (psn : Nat) : Bool :=
  x.reading.any fun r => decide (r.1.psn = psn ∧ r.1.arg ≤ r.2.foldl (fun n off => n + pieceLen r.1 off) 0)

/-- Read data are written where they belong. The last piece acknowledges its request, and on an ordered connection every older
PSN; the request ends when all of its data are in (R216, R220). -/
def takeReadData (p : Package) (c : Nat) (k : Pkt) : Package :=
  let x := p.conn c
  match x.queue.find? (holdsPsn k.psn) with
  | none => p
  | some o =>
    if o.op ≠ .rread ∨ k.offset < o.remote ∨ o.remote + o.len < k.offset + k.payload.length then p
    else
      let p := noteRead p c k o
      let p := if readWhole (p.conn c) k.psn then endRead p c k.psn else p
      if k.last then takeAck p c k.psn x.ordered k.cm else settleOps p c

/-- Where the data of a response go. -/
def readTarget (x : Conn) (k : Pkt) : Nat :=
  match x.queue.find? (holdsPsn k.psn) with
  | some o => o.loc + (k.offset - o.remote)
  | none => 0

/-- A RESPONSE for a connection (R225, R226, R230, R268). -/
def connResponse (p : Package) (c : Nat) (k : Pkt) : Package :=
  let x := p.conn c
  if !x.commit || x.target || x.pitch ≠ k.pitch then p.count (rmaPage (connDie c) + Off.OOO_CNT)
  else if x.broken then p
  else if k.status = 0 then
    if k.payload.isEmpty then takeAck p c k.psn true k.cm else takeReadData p c k
  else if k.status = 2 ∨ k.status = 0x16 then retransmitFrom p c k.psn
  else if k.status = 3 then
    if x.ordered then breakConn p c St.noRoute k.psn
    else retransmit p c (x.unacked.filter fun j => decide (j.psn = k.psn)) (some k.plane)
  else if k.status = 1 ∨ (0x10 ≤ k.status ∧ k.status ≤ 0x18) then
    let p := p.setConn c { x with queue := mapOp k.psn (failOp (completionOf k.status)) x.queue }
    takeAck (endRead p c k.psn) c k.psn x.ordered k.cm
  else p

/-! ## At the target (R217–R220, R144, R145, R267) -/

/-- What a request reaches: the tiles its bytes or its peg lie on. -/
def requestTiles (p : Package) (k : Pkt) (n : Nat) : List Nat :=
  if k.op = .peg then [k.bumpPeg / 512]
  else dedup ((canonRange p k.offset n).filterMap fun c => if sramBase 0 ≤ c ∧ c < sramBase 16 then some (tileOf c) else none)

/-- A strike absorbs a request of a pitch that targets units in its reach, from its fence to its release (R217 step 6, R273
step 4, R274). -/
def strikeAbsorbs (p : Package) (pitch : Nat) (tiles : List Nat) : Option Strike :=
  p.hub.strikes.find? fun s =>
    !s.released && (s.step = 3 || s.step = 4) &&
      ((s.reach = 5 && (mfind pitch p.hub.hosted).isSome) || ((s.reach = 3 || s.reach = 4) && s.pitch = pitch)
        || (s.reach = 2 && s.pitch = pitch && tiles.contains s.tile))

/-- A request is absorbed: it is counted at its strike. -/
def countAbsorbed (p : Package) (sid : Nat) : Package :=
  { p with hub := { p.hub with strikes := p.hub.strikes.map fun s => if s.sid = sid then { s with absorbed := s.absorbed + 1 } else s } }

/-- The pitch fence check (R263, R267); loopback is not checked. -/
def fenceOk (p : Package) (k : Pkt) : Bool :=
  k.pitch = 0 || (k.srcRack = p.base.rack && k.srcSlot = p.base.pos) ||
    ((mfind k.pitch p.hub.hosted).isSome &&
      p.hub.fences.any fun f => decide (f.pitch = k.pitch ∧ f.rack = k.srcRack) && bitOf f.slots k.srcSlot)

/-- The page that records a cross-pitch access to a byte: its tile's, or its memory die's (R217). -/
def unitPage (c : Nat) : Nat := if c < dramSize then pg (0x22 + stackOf c / 4) 0 else tilePage (tileOf c) 0

/-- The first byte of a range that the map has and the pitch does not own (R27, R217 step 3). -/
def foreignMapped (p : Package) (pitch off len : Nat) : Option Nat :=
  ((List.range len).find? fun i => (regionOf p (off + i)).isSome && !ownsByte p pitch (canon p (off + i))).map fun i => off + i

/-- Steps 3 to 6 of R217 for a range: the package, and the response status. A byte that no region holds is no pitch's, and step 4
answers for it; a range outside memory space, which a packet that moves bytes cannot reach, is one of those (R29; log 156). -/
def targetChecks (p : Package) (d : Nat) (k : Pkt) (n : Nat) : Package × Nat :=
  let src := some (k.srcRack, k.srcSlot)
  let addr := globalAddr p.base.rack p.base.pos k.space k.offset
  let inMap := k.op = .peg || (k.space = 0 && inRegion p k.offset n)
  let foreign := if k.op = .peg ∨ k.space ≠ 0 then none else foreignMapped p k.pitch k.offset n
  let page := if k.op = .peg then pegPage (k.bumpPeg / 512)
    else match foreign with
      | some a => unitPage (canon p a)
      | none => if inMap then unitPage (canon p k.offset) else connPage d
  if !fenceOk p k || foreign.isSome then (crossPitch p page k.pitch addr src, 0x10)
  else if !inMap then (raise p (rmaPage d) 2 { c2 := 0x11 + k.conn * 2 ^ 16, c3 := k.offset % 2 ^ 32, pitch := k.pitch, src := src }, 0x11)
  else if k.op ≠ .peg ∧ (canonRange p k.offset n).any (deadAt p) then
    (raise p (rmaPage d) 2 { c2 := 0x12 + k.conn * 2 ^ 16, c3 := k.offset % 2 ^ 32, pitch := k.pitch, src := src }, 0x12)
  else
    match strikeAbsorbs p k.pitch (requestTiles p k n) with
    | some s => (countAbsorbed p s.sid, 0x14)
    | none => (p, 0)

/-- The acknowledgement a target owes: status OK, the newest PSN of an unbroken row, in the active epoch (R166, R220). -/
def ackPkt (p : Package) (c : Nat) (x : Conn) (psn : Nat) (cm : Bool) : Pkt :=
  { cls := 1, epoch := p.epoch, pitch := x.pitch, destRack := x.peerRack, destSlot := x.peerSlot, srcRack := p.base.rack,
    srcSlot := p.base.pos, ordered := x.ordered, op := .response, spray := !x.ordered, cm := cm, conn := c, psn := psn }

/-- EXPECT_PSN of a context, and it replaced (R206, R208). -/
def expectOf (p : Package) (x : Conn) : Nat := if isLoopback p x && !x.target then x.loopExpect else x.psn
def setExpect (p : Package) (x : Conn) (v : Nat) : Conn := if isLoopback p x && !x.target then { x with loopExpect := v } else { x with psn := v }

/-- The context after an acknowledgement that covers every applied packet up to a PSN: nothing is owed (R220, R233). -/
def ackSent (x : Conn) (psn : Nat) : Conn := { x with toAck := 0, ackCm := false, lastAcked := psn }

/-- The owed acknowledgement is sent (R220). -/
def sendAck (p : Package) (c : Nat) : Package :=
  let x := p.conn c
  let k := ackPkt p c x ((expectOf p x + 2 ^ 24 - 1) % 2 ^ 24) x.ackCm
  injectResponse (p.setConn c (ackSent x k.psn)) x.ackPort k

/-- A response to one request packet (R220). -/
def answerRequest (p : Package) (q : Nat) (k : Pkt) (st : Nat) : Package :=
  injectResponse p q (responseTo k p.epoch st k.psn k.offset [] false)

/-- A response that acknowledges its own PSN, and on an ordered connection every older one: the context, and the mark it copies from
the packets it answers (R220). -/
def ownAck (x : Conn) (k : Pkt) : Conn × Bool :=
  if x.ordered then (ackSent x k.psn, k.cm || x.ackCm) else ({ x with lastAcked := k.psn }, k.cm)

/-- An error response of a connection's context (R220). -/
def answerError (p : Package) (c q : Nat) (k : Pkt) (st : Nat) : Package :=
  let (x, cm) := ownAck (p.conn c) k
  answerRequest (p.setConn c x) q { k with cm := cm } st

/-- The pieces of a read's data: offset, bytes and whether it is the last (R175, R220). -/
def readPieces (off : Nat) (data : Bytes) : Nat → List (Nat × Bytes × Bool)
  | 0 => []
  | n + 1 =>
    let m := 256 - off % 256
    if data.length ≤ m then [(off, data, true)] else (off, data.take m, false) :: readPieces (off + m) (data.drop m) n

/-- What a control-space packet does at its target: the package, the response status, and the data read (R20, R33, R50). -/
abbrev CtlServe := Package → Pkt → Package × Nat × Bytes

/-- The bytes of a request are read, or the request is refused: the package, the response status and the data (R217, R218). -/
def readAtTarget (ctl : CtlServe) (p : Package) (d : Nat) (k : Pkt) : Package × Nat × Bytes :=
  if k.space = 1 then ctl p k
  else
    let (p, st) := targetChecks p d k k.arg
    if st ≠ 0 then (p, st, [])
    else
      let (p, st, data) := readBytes p (16 + d) k.offset k.arg
      (p, if st = 0 then 0 else if st = 6 then 0x12 else 0x13, if st = 0 then data else [])

/-- A read request is answered with its data, or with the status of its refusal; the answer acknowledges (R220). -/
def serveRead (ctl : CtlServe) (p : Package) (c q : Nat) (k : Pkt) : Package × Nat :=
  let (p, st, data) := readAtTarget ctl p (connDie c) k
  if st ≠ 0 then (answerError p c q k st, st)
  else
    let (x, cm) := ownAck (p.conn c) k
    let piece := fun (p : Package) (e : Nat × Bytes × Bool) =>
      injectResponse p q (responseTo { k with cm := if e.2.2 then cm else k.cm } p.epoch 0 k.psn e.1 e.2.1 e.2.2)
    ((readPieces k.offset data 17).foldl piece (p.setConn c x), 0)

/-- The bump a packet carries, applied at the target: the package and the response status (R144, R145). -/
def targetBump (p : Package) (x : Conn) (k : Pkt) : Package × Nat :=
  if !k.bump && k.op ≠ .peg then (p, 0)
  else
    let v := if x.ordered || k.op = .peg then k.arg else k.payload.length
    let (p, st) := remoteBumpAt p k.pitch k.bumpPeg v (some (k.srcRack, k.srcSlot))
    (p, if st = 0x50 then 0x17 else if st = 0x51 then 0x18 else 0)

/-- A write of memory or control space at the target: the package and the response status (R20, R217). -/
def writeAtTarget (ctl : CtlServe) (p : Package) (d : Nat) (k : Pkt) : Package × Nat :=
  if k.space = 1 ∧ k.op = .rwrite then
    let (p, st, _) := ctl p k
    (p, st)
  else
    let (p, st) := targetChecks p d k k.payload.length
    if st ≠ 0 ∨ k.op = .peg then (p, st)
    else
      let (p, w) := writeBytes p (16 + d) k.offset k.payload
      (p, if w = 6 then 0x12 else if w = 8 then 0x13 else 0)

/-- A write or bump packet in turn is applied, or rejected: the package and the response status (R217, R218). -/
def applyWrite (ctl : CtlServe) (p : Package) (c : Nat) (k : Pkt) : Package × Nat :=
  let x := p.conn c
  let (p, st) := writeAtTarget ctl p (connDie c) k
  if st ≠ 0 then (p, st)
  else if x.ordered ∧ x.reject ≠ 0 ∧ k.last then (p, x.reject)
  else targetBump p x k

/-- The PSNs a packet advances: EXPECT_PSN and, on a sprayed connection, the bitmap (R219). -/
def advancePsn (p : Package) (x : Conn) (psn : Nat) : Conn :=
  let e := expectOf p x
  if x.ordered then setExpect p { x with oooAnswered := none } ((e + 1) % 2 ^ 24)
  else
    let marks := x.marked ++ [psn]
    let n := ((List.range 1024).takeWhile fun i => marks.contains ((e + i) % 2 ^ 24)).length
    setExpect p { x with marked := marks.filter fun m => decide (n ≤ serialDist 24 m e) } ((e + n) % 2 ^ 24)

/-- A rejected packet in turn: its PSN is consumed, and the rejection flag of an ordered connection set, and cleared after LAST
(R217, R218). -/
def rejectPsn (p : Package) (x : Conn) (k : Pkt) (st : Nat) : Conn :=
  { advancePsn p x k.psn with reject := if k.last ∨ !x.ordered then 0 else firstStatus x.reject st }

/-- A packet in turn is taken: applied, its PSN consumed, and answered (R218–R220). -/
def takeRequest (ctl : CtlServe) (p : Package) (c q : Nat) (k : Pkt) : Package :=
  if k.op = .rread then
    let (p', st) := serveRead ctl (p.setConn c { advancePsn p (p.conn c) k.psn with ackPort := q }) c q k
    let x := p'.conn c
    p'.setConn c { x with reject := if x.ordered then firstStatus x.reject st else 0 }
  else
    let (p, st) := applyWrite ctl p c k
    let x := { rejectPsn p (p.conn c) k st with ackPort := q }
    if st ≠ 0 then answerError (p.setConn c x) c q k st
    else
      let p := p.setConn c { x with toAck := x.toAck + 1, ackCm := x.ackCm || k.cm }
      if k.last ∨ 16 ≤ x.toAck + 1 then sendAck p c else p

/-- A duplicate is discarded and the newest PSN acknowledged again, a read served again (R219). -/
def duplicateRequest (ctl : CtlServe) (p : Package) (c q : Nat) (k : Pkt) : Package :=
  let p := p.count (rmaPage (connDie c) + Off.DUP_CNT)
  if k.op = .rread then
    let (p, st, data) := readAtTarget ctl p (connDie c) k
    if st ≠ 0 then answerRequest p q k st
    else
      (readPieces k.offset data 17).foldl (fun p e => injectResponse p q (responseTo k p.epoch 0 k.psn e.1 e.2.1 e.2.2)) p
  else
    let x := p.conn c
    let a := ackPkt p c x ((expectOf p x + 2 ^ 24 - 1) % 2 ^ 24) (k.cm || x.ackCm)
    injectResponse (p.setConn c (ackSent x a.psn)) q a

/-- Whether a sprayed PSN is older than the bitmap or already marked. -/
def seenPsn (e : Nat) (x : Conn) (psn : Nat) : Bool := serialGt 24 e psn || x.marked.contains psn

/-- A packet is the one, or one of those, that its connection applies now (R219). -/
def inTurn (p : Package) (x : Conn) (psn : Nat) : Bool :=
  let e := expectOf p x
  if x.ordered then decide (psn = e) else !seenPsn e x psn && decide (serialDist 24 psn e < 1024)

/-- A request packet's place in its connection (R219). -/
def orderRequest (ctl : CtlServe) (p : Package) (c q : Nat) (k : Pkt) : Package :=
  let x := p.conn c
  let e := expectOf p x
  let ooo := p.count (rmaPage (connDie c) + Off.OOO_CNT)
  if inTurn p x k.psn then takeRequest ctl p c q k
  else if seenPsn e { x with marked := if x.ordered then [] else x.marked } k.psn then duplicateRequest ctl p c q k
  else if !x.ordered ∨ x.oooAnswered = some e then ooo
  else injectResponse (ooo.setConn c { x with oooAnswered := some e }) q
    (responseTo k p.epoch 0x16 ((e + 2 ^ 24 - 1) % 2 ^ 24) k.offset [] false)

/-- A request packet at its target: context and peer first, then its place in the connection (R217, R219). A packet of another
pitch or peer is rejected, and consumes its PSN where it is in turn. -/
def requestIn (ctl : CtlServe) (p : Package) (q : Nat) (k : Pkt) : Package :=
  let c := k.conn
  let x := p.conn c
  let d := connDie c
  let src := some (k.srcRack, k.srcSlot)
  if !x.commit || !(x.target || isLoopback p x) then
    answerRequest (raise p (rmaPage d) 2 { c2 := 0x15 + c * 2 ^ 16, c3 := k.offset % 2 ^ 32, pitch := k.pitch, src := src }) q k 0x15
  else if ¬(x.pitch = k.pitch ∧ x.peerRack = k.srcRack ∧ x.peerSlot = k.srcSlot) then
    let p := crossPitch p (connPage d) k.pitch (globalAddr p.base.rack p.base.pos k.space k.offset) src
    if inTurn p x k.psn then answerError (p.setConn c { rejectPsn p x k 0x10 with ackPort := q }) c q k 0x10 else answerRequest p q k 0x10
  else orderRequest ctl p c q k

/-- The target's memory serves a request now, and a port has room for the data of a read; else it waits (R117, R152). -/
def requestReady (p : Package) (q : Nat) (k : Pkt) : Bool :=
  let n := if k.op = .rread then k.arg else k.payload.length
  (k.op = .peg || k.space ≠ 0 || !inRegion p k.offset n || memReady p k.offset n)
    && (k.op ≠ .rread || 18 ≤ q || dataRoom p.base q k.arg)

/-- A request packet of memory or peg space arrives and is judged (R210, R217). One of a management connection carries a job's
pitch here, and is a cross-pitch access. -/
def memoryPacket (ctl : CtlServe) (p : Package) (q : Nat) (k : Pkt) : Package :=
  if !requestReady p q k then p
  else
    let p := takeDelivered p q k
    if k.mgmt then
      answerRequest (crossPitch p (connPage (b2n p.hubL1)) k.pitch (globalAddr p.base.rack p.base.pos k.space k.offset)
        (some (k.srcRack, k.srcSlot))) q k 0x10
    else requestIn ctl p q k

/-- ACK_TIMER: applications wait for their acknowledgement (R220). -/
def ackTimer (p : Package) (c : Nat) : Package := if (p.conn c).toAck = 0 then p else sendAck p c

/-- ACK_TIMER (R220). -/
def execAckTimer (p conn : Nat) (s : State) : Res := onPkg p (fun x => ackTimer x conn) s

/-- PITCH_STALLED: the pitch's stall episode has lasted STALL_LIMIT, and is reported once (R229). -/
def pitchStalled (p : Package) (pitch : Nat) : Package :=
  match mfind pitch p.fab.stalls with
  | some (t0, conn, bound, false) =>
    let limit := p.rdF (rmaPage 0 + Off.STALL_LIMIT) 23 0
    if limit = 0 ∨ p.base.gtime < t0 + limit * 1000000 then p
    else
      let p := { p with fab := { p.fab with stalls := mset p.fab.stalls pitch (t0, conn, bound, true) } }
      raise p (rmaPage 0) 0 { c2 := bound + 1, c3 := if bound = 1 then 2 ^ 31 else conn, pitch := pitch }
  | _ => p

/-- PITCH_STALLED (R229). -/
def execPitchStalled (p pitch : Nat) (s : State) : Res := onPkg p (fun x => pitchStalled x pitch) s

end Sys2Proof.Machine
end

