-- ==== Sys2Proof/Machine/Mgmt.lean ====
section
/-! DEFINITION. The hub's management connections, and the rows that send, answer, retransmit and hold packets of any connection
(R195, R197, R210, R225, R226). -/

namespace Sys2Proof.Machine

/-- The management connection to the package of a global index, and it replaced (R210). -/
def Package.mg (p : Package) (i : Nat) : Mgmt := mget {} p.fab.mgmt i
def Package.setMg (p : Package) (i : Nat) (x : Mgmt) : Package := { p with fab := { p.fab with mgmt := mset p.fab.mgmt i x } }

/-- The link die of the active hub (R210). -/
def hubDie (p : Package) : Nat := b2n p.hubL1

/-- The lowest-numbered ACTIVE port of the hub's link die whose plane the peer's route entry names (R210). -/
def mgmtPort (p : Package) (i : Nat) : Option Nat :=
  let e := routeEntry p p.epoch i
  ((List.range 9).map fun l => 9 * hubDie p + l).find? fun q => bitOf e 18 && bitOf e q && portOpen p.base q

/-- The port a management connection is bound to still carries it: ACTIVE, and its plane in the peer's route entry (R210). -/
def mgmtBound (p : Package) (i : Nat) : Bool :=
  bitOf (routeEntry p p.epoch i) (p.mg i).port && portOpen p.base (p.mg i).port

/-- A management connection whose port has left ACTIVE or the mask, and which has nothing unacknowledged, is bound to the next such
port; the PSN is kept (R210, R227). -/
def mgmtRebind (p : Package) (i : Nat) : Package :=
  let x := p.mg i
  if x.valid && x.unacked.isEmpty && !mgmtBound p i then
    match mgmtPort p i with
    | some q => p.setMg i { x with port := q }
    | none => p
  else p

/-- Every management connection is bound anew where its port has gone. -/
def mgmtRebindAll (p : Package) : Package := (p.fab.mgmt.map fun e => e.1).foldl mgmtRebind p

/-- A management connection is established: NEXT_PSN 0, a new GEN, and SYNC owed (R210). -/
def establish (p : Package) (i : Nat) : Package :=
  let x := p.mg i
  p.setMg i { x with
    valid := true, broken := false, port := (mgmtPort p i).getD x.port
    genOut := (p.rd (emberPage + Off.RESET_COUNT) + x.estab) % 256
    estab := min 0xFFFFFFFF (x.estab + 1), nextPsn := 0, syncOwed := true, retries := 0, queue := [], unacked := [], retxActed := [] }

/-- Every management connection is established: to each other package that the active epoch reaches (R210). -/
def establishAll (p : Package) : Package :=
  ((List.range 1024).filter fun i => decide (i ≠ p.index) && bitOf (routeEntry p p.epoch i) 18).foldl establish p

/-- An operation of the hub on a management connection: `space` 1 a control write, 2 a span strike message, 3 its answer
(R209, R276; log 34). -/
def mgmtOp (tag : Nat) (lastOfTag : Bool) (space off : Nat) (data : Bytes) : ConnOp :=
  { ref := none, idx := tag, op := .rwrite, len := data.length, loc := 0, remote := off, sent := 0, firstPsn := none, lastPsn := 0,
    pending := 0, bump := lastOfTag, peg := 0, add := space, status := 0, write := some data }

/-- The hub puts an operation on a management connection. -/
def mgmtIssue (p : Package) (i : Nat) (o : ConnOp) : Package := p.setMg i { p.mg i with queue := (p.mg i).queue ++ [o] }

/-- A member write of a PUSH is done: the last of a member's writes takes it off the list of those waited for; a failure
leaves it there (R237). -/
def mgmtDone (p : Package) (i : Nat) (o : ConnOp) : Package :=
  if o.add = 1 ∧ o.bump ∧ o.status = 0 then
    let g := p.grp o.idx
    let rest := g.pushWait.filter (· ≠ i)
    p.setGrp o.idx { g with pushWait := rest, busy := g.busy && !rest.isEmpty }
  else p

/-- A management packet on its port (R210). -/
def mgmtPkt (p : Package) (i : Nat) (x : Mgmt) (o : ConnOp) : Pkt :=
  { cls := 3, epoch := p.epoch, destRack := i / 64, destSlot := i % 64, srcRack := p.base.rack, srcSlot := p.base.pos,
    ordered := true, op := o.op, last := true, sync := x.syncOwed, mgmt := true, conn := p.index, psn := x.nextPsn,
    offset := if o.add = 1 then o.remote else 0, space := o.add, gen := x.genOut, payload := o.write.getD [] }

/-- The next packet of a management connection leaves: at most one credit of 4,096 bytes is unacknowledged. An entry whose VALID
is 0 rejects the operation; a port that is lost or out of the mask is waited for (R162, R163, R210). -/
def mgmtSend (p : Package) (i : Nat) : Package :=
  let p := mgmtRebind p i
  let x := p.mg i
  match x.queue.find? fun o => decide (o.sent = 0) with
  | none => p
  | some o =>
    let k := mgmtPkt p i x o
    if !x.valid || x.broken then p
    else if !bitOf (routeEntry p p.epoch i) 18 then
      mgmtDone (countNoRoute (p.setMg i { x with queue := x.queue.erase o })) i (failOp St.noRoute o)
    else if 4096 < outstanding x.unacked + chargeOf k || !bitOf (routeEntry p p.epoch i) x.port || !portTakes p.base x.port k then p
    else
      let o' := { o with sent := 1, firstPsn := some x.nextPsn, lastPsn := x.nextPsn, pending := 1 }
      let p := p.setMg i { x with
        syncOwed := false, nextPsn := (x.nextPsn + 1) % 2 ^ 24, unacked := x.unacked ++ [k]
        queue := x.queue.map fun y => if y = o then o' else y }
      injectOn p x.port k

/-- A management connection breaks: counted, raised, and established again at once (R210, R226). -/
def mgmtBreak (p : Package) (i st psn : Nat) : Package :=
  let d := hubDie p
  let p := p.count (rmaPage d + Off.BROKEN_CNT)
  let p := raise p (rmaPage d) 1 { c2 := i + st * 2 ^ 16, c3 := psn }
  establish p i

/-- Retransmission on a management connection: a missing route breaks it; a port that takes none is left to the retry timer (R163,
R225, R226). -/
def mgmtRetransmit (p : Package) (i : Nat) (ks : List Pkt) : Package :=
  ks.foldl (fun p k =>
    let port := (p.mg i).port
    if !(p.mg i).unacked.any fun j => decide (j.psn = k.psn) then p
    else if !bitOf (routeEntry p p.epoch i) 18 then mgmtBreak p i St.noRoute k.psn
    else if bitOf (routeEntry p p.epoch i) port && portTakes p.base port k then
      injectOn (p.count (rmaPage (hubDie p) + Off.RETRANS_CNT)) port { k with epoch := p.epoch }
    else p) p

/-- STALE_EPOCH and OUT_OF_ORDER: at once, at most once for each value named until an acknowledgement advances (R225). -/
def mgmtRetransmitFrom (p : Package) (i psn : Nat) : Package :=
  let x := p.mg i
  if x.retxActed.contains psn then p
  else
    mgmtRetransmit (p.setMg i { x with retxActed := x.retxActed ++ [psn] }) i (x.unacked.filter fun j => serialGt 24 j.psn psn)

/-- An answer to a management packet (R210, R220, R225, R230). -/
def mgmtResponse (p : Package) (i : Nat) (k : Pkt) : Package :=
  let x := p.mg i
  let d := hubDie p
  if !x.valid || k.pitch ≠ 0 then p.count (rmaPage d + Off.OOO_CNT)
  else if k.status = 2 ∨ k.status = 0x16 then mgmtRetransmitFrom p i k.psn
  else if k.status = 3 then mgmtBreak p i St.noRoute k.psn
  else
    let acked := fun (j : Pkt) => decide (j.psn = k.psn) || serialGt 24 k.psn j.psn
    let mine := fun (o : ConnOp) => match o.firstPsn with
      | some f => decide (f = k.psn) || serialGt 24 k.psn f
      | none => false
    let failed := fun (o : ConnOp) => if o.firstPsn = some k.psn then failOp (completionOf k.status) o else o
    let done := (x.queue.filter mine).map failed
    let stay := x.unacked.filter fun j => !acked j
    let advanced := decide (x.unacked.head? ≠ stay.head?)
    let p := p.setMg i { x with
      unacked := stay, queue := x.queue.filter fun o => !mine o, retries := if advanced then 0 else x.retries
      retxActed := if advanced then [] else x.retxActed }
    mgmtRebind (done.foldl (fun p o => mgmtDone p i o) p) i

/-- The number by which a row names a management connection: bit 15 of CONN set, as in a packet (R173, R210). -/
def mgmtIndex (c : Nat) : Option Nat := if 32768 ≤ c ∧ c < 32768 + 1024 then some (c - 32768) else none

/-- RMA_PACKET_SEND (R214). -/
def execRmaPacketSend (p conn : Nat) (s : State) : Res :=
  onPkgMem p (fun x => match mgmtIndex conn with
    | some i => mgmtSend x i
    | none => rmaPacketSend x conn) s

/-- RESPONSE_PACKET: an answer reaches its source context (R210, R230, R268). -/
def responsePacket (p : Package) (q : Nat) (k : Pkt) : Package :=
  let x := p.conn k.conn
  if k.op ≠ .response ∨ (!k.mgmt ∧ !k.payload.isEmpty ∧ !memReady p (readTarget x k) k.payload.length
      ∧ inRegion p (readTarget x k) k.payload.length) then p
  else
    let p := takeDelivered p q k
    if k.mgmt then mgmtResponse p (k.srcRack * 64 + k.srcSlot) k else connResponse p k.conn k

/-- RESPONSE_PACKET (R230). -/
def execResponsePacket (p port : Nat) (pkt : Pkt) (s : State) : Res := onPkgMem p (fun x => responsePacket x port pkt) s

/-- RETRY_TIMEOUT: the retry timer of a source context expires (R225). -/
def retryTimeout (p : Package) (c : Nat) : Package :=
  let limit := fun (d : Nat) => p.rdF (rmaPage d + Off.RMA_RETRY) 19 16
  match mgmtIndex c with
  | some i =>
    let x := p.mg i
    match x.unacked with
    | [] => p
    | k :: _ =>
      if limit (hubDie p) < x.retries + 1 then mgmtBreak p i St.timeout k.psn
      else mgmtRetransmit (p.setMg i { x with retries := x.retries + 1 }) i x.unacked
  | none =>
    let x := p.conn c
    match x.unacked with
    | [] => p
    | k :: _ =>
      if limit (connDie c) < x.retries + 1 then breakConn p c St.timeout k.psn
      else retransmit (p.setConn c { x with retries := x.retries + 1 }) c x.unacked

/-- RETRY_TIMEOUT (R225). -/
def execRetryTimeout (p conn : Nat) (s : State) : Res := onPkg p (fun x => retryTimeout x conn) s

/-! ## Held packets at a link die (R197) -/

/-- An ordered packet that a port gives up: a request breaks its connection with the port-loss status, a management packet
breaks its management connection; an answer or a collective packet is lost (R197, R226, R255). -/
def failHeld (p : Package) (k : Pkt) : Package :=
  if k.op = .response ∨ k.op = .coll then p
  else if k.mgmt then mgmtBreak p (k.destRack * 64 + k.destSlot) St.portLoss k.psn
  else if (p.conn k.conn).broken then p
  else breakConn p k.conn St.portLoss k.psn

/-- One held packet is rerouted or failed: the package, and how many of each (R197). A collective packet is neither
(R255). -/
def handleHeld (acc : Package × Nat × Nat) (k : Pkt) : Package × Nat × Nat :=
  let (p, rerouted, failed) := acc
  if k.op ≠ .coll ∧ !k.ordered then (reinject p k, rerouted + 1, failed)
  else
    let p := p.mapBase fun b => inflightSub b k.epoch
    if k.op = .coll then (p, rerouted, failed) else (failHeld p k, rerouted, failed + 1)

/-- The packets a package port holds are handled (R197): counters, and how many were rerouted and failed. -/
def giveUpHeld (p : Package) (q : Nat) : Package × Nat × Nat :=
  let (b, held) := takeHeld p.base q
  let (p, n, m) := held.foldl handleHeld ({ p with base := b }, 0, 0)
  (p.mapBase fun b => count (count b (portPage q + Off.REROUTED_CNT) n) (portPage q + Off.ORDERED_FAILED_CNT) m, n, m)

/-- A hold expires at a link die (R197, R203). -/
def linkHoldExpires (p : Package) (q : Nat) : Package :=
  let p := p.mapBase fun b => endHold b q
  let (p, n, m) := giveUpHeld p q
  raise (p.count (portPage q + Off.HOLD_EXPIRED_CNT)) (portPage q) 2 { c2 := min n 0xFFFF + min m 0xFFFF * 2 ^ 16 }

/-- What a port event leaves to its package: the events, held packets to handle, waiting packets to send (R162, R196). -/
def afterPort (p : Package) (q : Nat) (r : Base × PortEvs × PortNext) : Package :=
  let p := raisePort { p with base := r.1 } q r.2.1
  let p := match r.2.2 with
    | .done => p
    | .expire train retry =>
      let draining := (p.base.port q).draining
      let p := linkHoldExpires p q
      if draining then p
      else if train then p.mapBase fun b => startTraining b q
      else if (r.2.1.any fun e => e.1 = 5) then p.mapBase fun b => setPortState b q 10
      else
        let (b, evs) := partnerCheck p.base q retry
        raisePort { p with base := b } q evs
  mgmtRebindAll (if portUp p.base q then retryWaiting p else p)

/-! ## A switch of the active epoch (R167, R210) -/

/-- A management connection whose peer the active epoch no longer reaches is gone, and what it carried has no route (R163,
R210). -/
def mgmtGone (p : Package) (i : Nat) : Package :=
  let x := p.mg i
  x.queue.foldl (fun p o => mgmtDone p i (failOp St.noRoute o)) (p.setMg i { x with valid := false, queue := [], unacked := [] })

/-- ROUTE_EPOCH has been written: where ACTIVE has changed, the connections to peers that the new epoch makes VALID are established,
those to peers it no longer reaches are gone, and the others are bound anew (R163, R210). -/
def epochSwitched (old : Nat) (p : Package) : Package :=
  if p.epoch = old then p
  else
    let valid := fun (e i : Nat) => bitOf (routeEntry p e i) 18
    let peers := (List.range 1024).filter fun i => decide (i ≠ p.index)
    let p := (peers.filter fun i => valid p.epoch i && !valid old i).foldl establish p
    let p := (peers.filter fun i => !valid p.epoch i && (p.mg i).valid).foldl mgmtGone p
    mgmtRebindAll p

end Sys2Proof.Machine
end

