-- ==== Sys2Proof/Machine/Coll.lean ====
section
/-! DEFINITION. Collectives at a member package: the COLL descriptor's rows, ARRIVE, GO, DATA, RESULT, BREAK, REJECT and the
member's deadline (R234–R247, R250–R256). -/

namespace Sys2Proof.Machine

/-! ## The COLL header (R247) -/

/-- Bytes 7–23 of a COLL transport header. -/
def collHdr (ctype op fmt redop : Nat) (reduced sat : Bool) (rank word half credit : Nat) : Bytes :=
  le 1 ctype ++ le 1 (op + fmt * 2 ^ 4) ++ le 1 (redop + 4 * b2n reduced + 8 * b2n sat) ++ le 2 rank ++ le 4 word ++ le 2 half
    ++ le 2 credit ++ zeros 4

/-- Its fields. -/
def cType (k : Pkt) : Nat := byteAt k.coll 0
def cOp (k : Pkt) : Nat := byteAt k.coll 1 % 16
def cFmt (k : Pkt) : Nat := byteAt k.coll 1 / 16
def cRedop (k : Pkt) : Nat := byteAt k.coll 2 % 4
def cReduced (k : Pkt) : Bool := bitOf (byteAt k.coll 2) 2
def cSat (k : Pkt) : Bool := bitOf (byteAt k.coll 2) 3
def cRank (k : Pkt) : Nat := fieldAt k.coll 3 2 % 1024
def cWord (k : Pkt) : Nat := fieldAt k.coll 5 4
def cHalf (k : Pkt) : Nat := fieldAt k.coll 9 2
def cCredit (k : Pkt) : Nat := fieldAt k.coll 11 2

/-! ## The group at a member (R234, R235) -/

/-- The link die of a group, its window page, and the package ports of its planes, lead plane first. -/
def grpDie (g : Nat) : Nat := g / 1024
def grpPage (g : Nat) : Nat := linkPage (grpDie g) 4
def grpPlanes (g : Nat) (x : Grp) : List Nat := (bitList x.planes 9).map fun l => 9 * grpDie g + l

/-- The member's rank, and the group's size. -/
def ownRank (p : Package) (x : Grp) : Nat := rankOf x.members p.index
def grpSize (x : Grp) : Nat := sizeOf' x.members

/-- The descriptor's bytes of the collective that runs. -/
def runBytes (p : Package) (r : CollRun) : Bytes :=
  match (p.hop r.ref).find? fun e => decide (e.idx = r.idx) with
  | some e => e.bytes
  | none => []

/-- Its fields. -/
def runCol (p : Package) (r : CollRun) : Col := colOf (runBytes p r)

/-- The run replaced. -/
def setRun (p : Package) (g : Nat) (r : CollRun) : Package := p.setGrp g { p.grp g with run := some r }

/-- A 1,024-bit map is written to MAP_ADDR when MAP is 1 (R242, R254). -/
def writeMap (p : Package) (g : Nat) (c : Col) (map : Nat) : Package :=
  if c.useMap then (writeBytes p (16 + grpDie g) c.map (le 128 map)).1 else p

/-- The memory that a map is written to serves the write (R117). -/
def mapReady (p : Package) (c : Col) : Bool := !c.useMap || memReady p c.map 128

/-- The running collective ends with a status, and its descriptor's engine is done. `next` says that the sequence is consumed
(R246, R250). -/
def endColl (p : Package) (g st : Nat) (next : Bool) : Package :=
  let x := p.grp g
  match x.run with
  | none => p
  | some r =>
    let p := p.setGrp g { x with
      run := none, seq := (if next then (x.seq + 1) % 2 ^ 16 else x.seq), lastDone := (if next then some x.seq else x.lastDone) }
    finishEntry p r.ref r.idx st r.saturated

/-! ## Sending -/

/-- A packet of a member on a plane of its group: it is addressed to the member's own rack and slot (R245). -/
def memberPkt (p : Package) (g : Nat) (x : Grp) (seq : Nat) (last : Bool) (hdr payload : Bytes) : Pkt :=
  { cls := 2, epoch := p.epoch, pitch := x.pitch, destRack := p.base.rack, destSlot := p.base.pos, srcRack := p.base.rack,
    srcSlot := p.base.pos, ordered := true, op := .coll, last := last, conn := g, psn := seq, coll := hdr, payload := payload }

/-- Words in packets of 64, numbered. -/
def wordPackets (ws : List Nat) : List (Nat × Bytes) :=
  (List.range ((ws.length + 63) / 64)).map fun i => (i, ((ws.drop (64 * i)).take 64).flatMap (le 4))

/-- The half-word of an ARRIVE: BPEG of a BARRIER; ROOT of a BROADCAST, for which the manual gives no place (R247, R250;
log 35). -/
def arriveHalf (c : Col) : Nat := if c.op = 4 then c.bpeg else if c.op = 3 then c.root else 0

/-- The member's ARRIVE leaves on the lead plane, in one packet or with its counts (R243). It waits while the port takes
none, and while the memory of its counts does not serve it (R117). -/
def sendArrive (p : Package) (g : Nat) : Package :=
  let x := p.grp g
  match x.run with
  | none => p
  | some r =>
    let c := runCol p r
    let n := grpSize x
    let q := (grpPlanes g x).headD (9 * grpDie g)
    let counts := suppliedCounts p c n
    if (c.op = 6 ∨ c.op = 8) ∧ !memReady p c.counts (4 * n) then p else
    let (p, st, _) := if c.op = 6 ∨ c.op = 8 then readBytes p (16 + grpDie g) c.counts (4 * n) else (p, 0, [])
    let hdr := fun (half : Nat) => collHdr 0 c.op c.fmt c.redop false false (ownRank p x) c.count half 0
    let pkts := if isVariable c.op then (wordPackets counts).map fun e => memberPkt p g x r.seq false (hdr e.1) e.2
      else [memberPkt p g x r.seq false (hdr (arriveHalf c)) []]
    if st ≠ 0 then endColl p g st true
    else if r.arrived || !pkts.all (portTakes p.base q) then p
    else setRun (pkts.foldl (fun p k => injectOn p q k) p) g { r with arrived := true, t0 := p.base.gtime, supplied := counts }

/-- The writes and bumps of a pitch on ordered connections that are not yet acknowledged, by hopper and index (R243). -/
def orderedPending (p : Package) (pitch : Nat) : List (Nat × Nat) :=
  p.fab.conns.flatMap fun e =>
    if e.2.pitch = pitch ∧ e.2.ordered ∧ !e.2.target then
      e.2.queue.filterMap fun o => match o.ref with
        | some h => if o.op = .rread then none else some (hopKey h, o.idx)
        | none => none
    else []

/-- The group's next queued COLL starts; a broken group's completes GROUP_BROKEN without sending (R242, R243). None starts while its
page's ENABLE is 0, or while the memory of a map that is due does not serve the write (R40, R117). -/
def startColl (p : Package) (g : Nat) : Package :=
  let x := p.grp g
  match x.run, x.queue with
  | none, (ref, idx) :: rest =>
    let r : CollRun := { ref := ref, idx := idx, seq := x.seq, t0 := p.base.gtime }
    let held := !enabledPage p.base (grpPage g) || (x.broken && !mapReady p (runCol p r))
    if held then p else
    let p := p.setGrp g { x with queue := rest, run := some r }
    let c := runCol p r
    if x.broken then endColl (writeMap p g c x.missing) g St.groupBroken false
    else if c.op = 4 then setRun p g { r with barrierWaits := orderedPending p x.pitch }
    else sendArrive p g
  | _, _ => p

/-- A COLL of one operation reaches its group (R240, R242). -/
def collRow (op : Nat) (r : HopRef) (p : Package) (idx : Nat) : Package :=
  match issuedEntry p r idx 0x50 with
  | none => p
  | some e =>
    let c := colOf e.bytes
    let x := p.grp c.g
    let queued := x.queue.contains (r, idx) || (x.run.map fun u => decide (u.ref = r ∧ u.idx = idx)).getD false
    if c.op ≠ op || queued then p
    else
      let p := p.setGrp c.g { x with queue := x.queue ++ [(r, idx)] }
      if x.run.isNone && x.queue.isEmpty then startColl p c.g else p

/-- ALL_REDUCE (R240). -/
def execAllReduce (p : Nat) (ref : HopRef) (idx : Nat) (s : State) : Res := onPkgMem p (fun x => collRow 0 ref x idx) s
/-- REDUCE_SCATTER (R240). -/
def execReduceScatter (p : Nat) (ref : HopRef) (idx : Nat) (s : State) : Res := onPkgMem p (fun x => collRow 1 ref x idx) s
/-- ALL_GATHER (R240). -/
def execAllGather (p : Nat) (ref : HopRef) (idx : Nat) (s : State) : Res := onPkgMem p (fun x => collRow 2 ref x idx) s
/-- BROADCAST (R240). -/
def execBroadcast (p : Nat) (ref : HopRef) (idx : Nat) (s : State) : Res := onPkgMem p (fun x => collRow 3 ref x idx) s
/-- BARRIER (R243). -/
def execBarrier (p : Nat) (ref : HopRef) (idx : Nat) (s : State) : Res := onPkgMem p (fun x => collRow 4 ref x idx) s
/-- ALL_TO_ALL (R240). -/
def execAllToAll (p : Nat) (ref : HopRef) (idx : Nat) (s : State) : Res := onPkgMem p (fun x => collRow 5 ref x idx) s
/-- REDUCE_SCATTERV (R251). -/
def execReduceScatterv (p : Nat) (ref : HopRef) (idx : Nat) (s : State) : Res := onPkgMem p (fun x => collRow 6 ref x idx) s
/-- ALL_GATHERV (R251). -/
def execAllGatherv (p : Nat) (ref : HopRef) (idx : Nat) (s : State) : Res := onPkgMem p (fun x => collRow 7 ref x idx) s
/-- ALL_TO_ALLV (R251). -/
def execAllToAllv (p : Nat) (ref : HopRef) (idx : Nat) (s : State) : Res := onPkgMem p (fun x => collRow 8 ref x idx) s

/-- COLL_NEXT_SEQUENCE (R242). -/
def execCollNextSequence (p g : Nat) (s : State) : Res := onPkgMem p (fun x => startColl x g) s

/-- BARRIER_ARRIVE: the earlier ordered writes are acknowledged, and ARRIVE is sent (R243). -/
def barrierArrive (p : Package) (g : Nat) : Package :=
  let x := p.grp g
  match x.run with
  | none => p
  | some r =>
    let waits := r.barrierWaits.filter fun w => (orderedPending p x.pitch).contains w
    if r.arrived || !waits.isEmpty then p else sendArrive (setRun p g { r with barrierWaits := [] }) g

/-- BARRIER_ARRIVE (R243). -/
def execBarrierArrive (p g : Nat) (s : State) : Res := onPkgMem p (fun x => barrierArrive x g) s

/-! ## The data phase (R240, R244) -/

/-- Pieces of a block: offsets and lengths of at most 256 bytes. -/
def chunks (n : Nat) : List (Nat × Nat) := (List.range ((n + 255) / 256)).map fun i => (256 * i, min 256 (n - 256 * i))

/-- Bytes of an element, and of COUNT elements (R240). -/
def elemSize (c : Col) : Nat := fmtBits c.fmt / 8
def countBytes (c : Col) : Nat := c.count * elemSize c

/-- The sum of the first `n` counts. -/
def sumTo (cs : List Nat) (n : Nat) : Nat := (cs.take n).sum

/-- The blocks a member of rank `me` sends: block number, source offset and length (R240, R244). -/
def sendBlocks (c : Col) (r : CollRun) (n me : Nat) : List (Nat × Nat × Nat) :=
  let es := elemSize c
  let all := (List.range n).filter fun b => !bitOf r.dropped b
  match c.op with
  | 0 => [(0, c.src, countBytes c)]
  | 1 => all.map fun b => (b, c.src + b * countBytes c, countBytes c)
  | 2 => [(0, c.src, countBytes c)]
  | 3 => if me = c.root then [(0, c.src, countBytes c)] else []
  | 5 => all.map fun b => (b, c.src + b * countBytes c, countBytes c)
  | 6 => all.map fun b => (b, c.src + es * sumTo r.supplied b, es * nth 0 r.supplied b)
  | 7 => [(0, c.src, countBytes c)]
  | 8 => all.map fun b => (b, c.src + es * sumTo r.supplied b, es * nth 0 r.supplied b)
  | _ => []

/-- The results a member of rank `me` expects: source rank, destination offset and length (R240, R251). -/
def expectBlocks (c : Col) (r : CollRun) (n me : Nat) : List (Nat × Nat × Nat) :=
  let es := elemSize c
  let all := (List.range n).filter fun b => !bitOf r.dropped b
  match c.op with
  | 0 => [(0, c.dst, countBytes c)]
  | 1 => [(0, c.dst, countBytes c)]
  | 2 => all.map fun s => (s, c.dst + s * countBytes c, countBytes c)
  | 3 => [(0, c.dst, countBytes c)]
  | 5 => all.map fun s => (s, c.dst + s * countBytes c, countBytes c)
  | 6 => [(0, c.dst, es * nth 0 r.counts me)]
  | 7 => all.map fun s => (s, c.dst + es * sumTo r.counts s, es * nth 0 r.counts s)
  | 8 => all.map fun s => (s, c.dst + es * sumTo r.counts s, es * nth 0 r.counts s)
  | _ => []

/-- The destination of a variable result is checked when its counts are known, in all its extent; one that shares a byte with another
area gives ADDRESS_FAULT then (R241; log 162). -/
def dstFault (p : Package) (pitch : Nat) (c : Col) (n : Nat) (r : CollRun) : Nat :=
  let len := elemSize c * r.counts.sum
  if (c.op = 7 ∨ c.op = 8) ∧ len ≠ 0 then
    match checkAligned p pitch c.dst len (fmtAlign c.fmt) 30 with
    | f :: _ => f.2
    | [] =>
      let sl := if c.op = 7 then countBytes c else elemSize c * r.supplied.sum
      if (collOverlaps p c n (some sl) (some len)).isEmpty then 0 else St.addressFault
  else 0

/-- A collective that has sent and received everything completes (R246, R256). -/
def tryComplete (p : Package) (g : Nat) : Package :=
  let x := p.grp g
  match x.run with
  | none => p
  | some r =>
    let all := r.expect.all fun e => r.got.contains (e.1, e.2.1)
    if r.phase = 2 ∧ r.toSend.isEmpty ∧ r.lastOwed.isEmpty ∧ all then
      endColl p g (if r.fault ≠ 0 then r.fault else if r.reduced then St.reducedMembership else 0) true
    else p

/-- The data phase begins: what is sent and what is expected. -/
def beginData (p : Package) (g : Nat) (r : CollRun) : Package :=
  let x := p.grp g
  let c := runCol p r
  let n := grpSize x
  let me := ownRank p x
  let blocks := sendBlocks c r n me
  let fault := dstFault p x.pitch c n r
  let r := { r with
    phase := 2, fault := fault
    toSend := blocks.flatMap fun b => (chunks b.2.2).map fun o => (b.1, o.1, o.2)
    lastOwed := if c.op = 3 ∧ me ≠ c.root then [] else grpPlanes g x
    expect := if fault ≠ 0 then [] else (expectBlocks c r n me).flatMap fun b => (chunks b.2.2).map fun o => (b.1, o.1, o.2) }
  tryComplete (setRun p g r) g

/-- The plane index of a piece (R244). -/
def pieceIndex (planes block off : Nat) : Nat := (block + off / 256) % planes

/-- Where a piece of a block stands in the member's memory. -/
def pieceSource (c : Col) (r : CollRun) (n me block off : Nat) : Nat :=
  match (sendBlocks c r n me).find? fun b => decide (b.1 = block) with
  | some b => b.2.1 + off
  | none => 0

/-- COLL_DATA_SEND: the next DATA packet of a plane leaves. The last one of a plane carries LAST, an empty one where the plane
has none (R244; log 36). -/
def collDataSend (p : Package) (g q : Nat) : Package :=
  let x := p.grp g
  let planes := grpPlanes g x
  match x.run with
  | none => p
  | some r =>
    let c := runCol p r
    let i := planes.findIdx fun l => decide (l = q)
    let mine := r.toSend.filter fun t => pieceIndex planes.length t.1 t.2.1 = i
    if r.phase ≠ 2 ∨ !planes.contains q ∨ !r.lastOwed.contains q ∨ 32 ≤ mget 0 r.outstanding q then p
    else
      let piece := mine.headD (0, 0, 0)
      let last := decide (mine.length ≤ 1)
      let src := pieceSource c r (grpSize x) (ownRank p x) piece.1 piece.2.1
      let hdr := collHdr 2 c.op c.fmt c.redop r.reduced false (ownRank p x) piece.2.1 piece.1 0
      let room := memberPkt p g x r.seq last hdr (zeros piece.2.2)
      if !portTakes p.base q room ∨ (piece.2.2 ≠ 0 ∧ !memReady p src piece.2.2) then p
      else
        let (p, st, data) := if piece.2.2 = 0 then (p, 0, []) else readBytes p (16 + grpDie g) src piece.2.2
        if st ≠ 0 then endColl p g st true
        else
          let p := injectOn p q (memberPkt p g x r.seq last hdr data)
          tryComplete (setRun p g { r with
            toSend := r.toSend.filter fun t => t ≠ piece ∨ mine.isEmpty
            lastOwed := if last then r.lastOwed.filter (· ≠ q) else r.lastOwed
            outstanding := mset r.outstanding q (mget 0 r.outstanding q + 1) }) g

/-- COLL_DATA_SEND (R244). -/
def execCollDataSend (p g plane : Nat) (s : State) : Res := onPkgMem p (fun x => collDataSend x g plane) s

/-! ## Packets from a Weir (R243, R246, R254, R256, R268) -/

/-- A packet leaves the list of those accepted, whichever port it came by. -/
def takeAny (p : Package) (k : Pkt) : Package :=
  match p.fab.delivered.find? fun e => decide (e.2 = k) with
  | some e => takeDelivered p e.1 k
  | none => p

/-- The plane port of a packet from a Weir: its PLANE (R16). -/
def creditIn (r : CollRun) (k : Pkt) : CollRun :=
  { r with outstanding := mset r.outstanding k.plane (mget 0 r.outstanding k.plane - cCredit k) }

/-- A collective packet of a type is taken if its group is committed to its pitch; else it is discarded, and one of a
striking pitch without a count (R268, R273). -/
def collIn (ctype : Nat) (f : Package → Nat → Pkt → Package) (p : Package) (k : Pkt) : Package :=
  if k.op ≠ .coll ∨ cType k ≠ ctype then p
  else
    let p := takeAny p k
    let g := k.conn
    let x := p.grp g
    if (strikeAbsorbs p k.pitch []).isSome then p
    else if !x.commit || x.pitch ≠ k.pitch then p.count (rmaPage (grpDie g) + Off.OOO_CNT)
    else f p g k

/-- The words a GO's table must hold: a map of 1,024 bits when it is reduced, then the counts of a variable form (R243, R251,
R256; log 37). -/
def goWords (c : Col) (n : Nat) (reduced : Bool) : Nat := (if reduced then 32 else 0) + (if isVariable c.op then n else 0)

/-- Words of the packets gathered so far, in order. -/
def tableBytes (t : SMap Bytes) : Bytes := t.flatMap fun e => e.2

/-- GO is complete: the map and the counts are taken, the counts written, and the data phase or the barrier's end follows
(R243, R251, R256). -/
def goComplete (p : Package) (g : Nat) (r : CollRun) (reduced : Bool) : Package :=
  let x := p.grp g
  let c := runCol p r
  let n := grpSize x
  let bytes := tableBytes r.table
  let map := if reduced then ofLe (bytes.take 128) else 0
  let cb := if reduced then bytes.drop 128 else bytes
  let counts := if isVariable c.op then (List.range n).map fun i => fieldAt cb (4 * i) 4 else []
  let r := { r with reduced := reduced, dropped := map, counts := counts }
  let p := p.setGrp g { x with dropped := x.dropped ||| map, run := some r }
  let p := if reduced then raise p (grpPage g) 2 { c2 := g + popcount map 1024 * 2 ^ 16, c3 := r.seq, pitch := x.pitch } else p
  let p := if reduced then writeMap p g c map else p
  let p := if isVariable c.op then (writeBytes p (16 + grpDie g) c.rcounts (counts.flatMap (le 4))).1 else p
  if c.op = 4 then
    let (p, st) := if c.bpegValid then remoteBumpAt p x.pitch c.bpeg 1 none else (p, 0)
    endColl p g (if st ≠ 0 then st else if reduced then St.reducedMembership else 0) true
  else beginData p g r

/-- GO at a member (R243). -/
def goIn (p : Package) (g : Nat) (k : Pkt) : Package :=
  match (p.grp g).run with
  | none => p
  | some r =>
    if r.phase ≠ 1 ∨ !r.arrived ∨ r.seq ≠ k.psn then p
    else
      let r := { creditIn r k with table := mset r.table (cWord k) k.payload, reduced := r.reduced || cReduced k }
      let p := setRun p g r
      if (tableBytes r.table).length < 4 * goWords (runCol p r) (grpSize (p.grp g)) r.reduced then p
      else goComplete p g r r.reduced

/-- A GO waits while the memory of the map or of the counts it brings does not serve the writes (R117). -/
def goReady (p : Package) (k : Pkt) : Bool :=
  let x := p.grp k.conn
  match x.run with
  | none => true
  | some r =>
    let c := runCol p r
    (!(cReduced k || r.reduced) || mapReady p c) && (!isVariable c.op || memReady p c.rcounts (4 * grpSize x))

/-- GO (R243). -/
def execGo (p : Nat) (pkt : Pkt) (s : State) : Res :=
  onPkgMem p (fun x => if goReady x pkt then collIn 1 goIn x pkt else x) s

/-- RESULT bytes are written where their block belongs, and its credits taken (R244, R246). -/
def resultIn (p : Package) (g : Nat) (k : Pkt) : Package :=
  let x := p.grp g
  match x.run with
  | none => p
  | some r =>
    if r.seq ≠ k.psn ∨ r.phase ≠ 2 then p
    else
      let c := runCol p r
      let r := { creditIn r k with saturated := r.saturated || cSat k }
      let piece := (cRank k, cWord k, k.payload.length)
      match (expectBlocks c r (grpSize x) (ownRank p x)).find? fun b => decide (b.1 = cRank k) with
      | none => tryComplete (setRun p g r) g
      | some b =>
        if !r.expect.contains piece || r.got.contains (cRank k, cWord k) then tryComplete (setRun p g r) g
        else
          let (p, st) := writeBytes p (16 + grpDie g) (b.2.1 + cWord k) k.payload
          tryComplete (setRun p g { r with got := r.got ++ [(cRank k, cWord k)], fault := firstStatus r.fault st }) g

/-- A RESULT waits while the memory it writes does not serve it (R117). -/
def resultReady (p : Package) (k : Pkt) : Bool :=
  let x := p.grp k.conn
  match x.run with
  | none => true
  | some r =>
    match (expectBlocks (runCol p r) r (grpSize x) (ownRank p x)).find? fun b => decide (b.1 = cRank k) with
    | some b => k.payload.isEmpty || memReady p (b.2.1 + cWord k) k.payload.length
    | none => true

/-- RESULT (R246). -/
def execResult (p : Nat) (pkt : Pkt) (s : State) : Res :=
  onPkgMem p (fun x => if resultReady x pkt then collIn 3 resultIn x pkt else x) s

/-- The group breaks at a member: the running descriptor completes GROUP_BROKEN (R254, R255). -/
def breakGroup (p : Package) (g seq map : Nat) : Package :=
  let x := p.grp g
  let p := match x.run with
    | some r => endColl (writeMap p g (runCol p r) map) g St.groupBroken false
    | none => p
  let p := p.setGrp g { p.grp g with broken := true, brokenSeq := some seq, missing := map }
  raise p (grpPage g) 0 { c2 := g + popcount map 1024 * 2 ^ 16, c3 := seq, pitch := x.pitch }

/-- BREAK at a member: the first breaks the group, be it of the sequence that runs or of the one the member completed last; later ones
of the sequence add to GRP_MISSING; COUNT_MISMATCH consumes the sequence (R250, R254; log 38). Its status stands in the half-word, for
which the manual gives no place (log 35). -/
def breakIn (p : Package) (g : Nat) (k : Pkt) : Package :=
  let x := p.grp g
  let map := ofLe (k.payload.take 128)
  if x.brokenSeq = some k.psn ∧ x.broken then p.setGrp g { x with missing := x.missing ||| map }
  else if x.broken ∨ (x.seq ≠ k.psn ∧ x.lastDone ≠ some k.psn) then p
  else if cHalf k = St.countMismatch then
    match x.run with
    | none => p
    | some r =>
      if r.seq ≠ k.psn then p else
      let p := endColl (writeMap p g (runCol p r) map) g St.countMismatch true
      let p := p.setGrp g { p.grp g with missing := map }
      raise p (grpPage g) 1 { c2 := g + popcount map 1024 * 2 ^ 16, c3 := k.psn, pitch := x.pitch }
  else breakGroup p g k.psn map

/-- A BREAK or the member's deadline waits while the memory of the map does not serve the write (R117). -/
def breakReady (p : Package) (g : Nat) : Bool :=
  match (p.grp g).run with
  | none => true
  | some r => mapReady p (runCol p r)

/-- REJECT at a member: the descriptor completes with its status (R252, R256). -/
def rejectIn (p : Package) (g : Nat) (k : Pkt) : Package :=
  let x := p.grp g
  match x.run with
  | none => p
  | some r =>
    if r.seq ≠ k.psn then p
    else
      let p := endColl p g (cWord k % 256) false
      if cWord k % 256 = St.sequenceError then raise p (grpPage g) 3 { c2 := g, c3 := k.psn, pitch := x.pitch } else p

/-- REJECT (R256). -/
def execReject (p : Nat) (pkt : Pkt) (s : State) : Res := onPkgMem p (fun x => collIn 5 rejectIn x pkt) s

/-- MEMBER_DEADLINE: 2 × DEADLINE + 1 ms after its ARRIVE the member gives up with an all-zero map (R255). -/
def memberDeadline (p : Package) (g : Nat) : Package :=
  match (p.grp g).run with
  | some r => if r.arrived && mapReady p (runCol p r) then breakGroup p g r.seq 0 else p
  | none => p

/-- MEMBER_DEADLINE (R255). -/
def execMemberDeadline (p g : Nat) (s : State) : Res := onPkgMem p (fun x => memberDeadline x g) s

end Sys2Proof.Machine
end

