-- ==== Sys2Proof/Machine/Groups.lean ====
section
/-! DEFINITION. Setting groups up: the images a PUSH sends to Weirs, its writes to members, and their answers
(R235–R238, R261, R278). -/

namespace Sys2Proof.Machine

/-! ## What a PUSH derives (R235, R236, R261) -/

/-- The members in a rack, as a 64-bit slot map, and the racks that hold members. -/
def rackSlots (members rack : Nat) : Nat := fld members (64 * rack + 63) (64 * rack)
def memberRacks (members : Nat) : List Nat := (List.range 16).filter fun r => decide (rackSlots members r ≠ 0)

/-- The SETUP image of a group for the Weir of plane `q` in the own rack. -/
def pushImage (p : Package) (g q : Nat) : Bytes :=
  let x := p.grp g
  let racks := memberRacks x.members
  let lead := (grpPlanes g x).head? = some q
  let root := racks.head? = some p.base.rack
  let slots := rackSlots x.members p.base.rack
  le 4 (x.pitch + 2 ^ 16 + b2n x.countsFirst * 2 ^ 18 + b2n x.drop * 2 ^ 19 + b2n lead * 2 ^ 20 + b2n root * 2 ^ 21)
    ++ le 4 x.deadline ++ le 4 x.seq ++ le 4 (ofBits racks) ++ le 4 slots ++ le 4 (slots / 2 ^ 32)
    ++ le 4 (popcount x.members (64 * p.base.rack) + sizeOf' x.members * 2 ^ 16) ++ le 4 0

/-- An image that uncommits. -/
def uncommitImage : Bytes := zeros 32

/-- A SETUP leaves for the Weir of plane `q`, in the management class with pitch 0; a port that takes nothing sends none
(R237). -/
def sendSetup (p : Package) (g q : Nat) (img : Bytes) : Package :=
  let k := { memberPkt p g {} 0 true (collHdr 6 0 0 0 false false 0 0 0 0) img with cls := 3 }
  if portTakes p.base q k then injectOn p q k else p

/-- The image a Weir answers with is the one pushed: BROKEN and the phase are its own. -/
def sameImage (a b : Bytes) : Bool :=
  setBit (fieldAt a 0 4) 17 false = setBit (fieldAt b 0 4) 17 false && (a.drop 4).take 24 = (b.drop 4).take 24

/-! ## PUSH (R236, R237) -/

/-- A control-space write of a PUSH at another package's group window. -/
def memberWrite (g : Nat) (last : Bool) (off n v : Nat) : ConnOp := mgmtOp g last 1 (grpPage g + off) (le n v)

/-- The writes that uncommit and recommit the copy at a member. -/
def memberWrites (p : Package) (g : Nat) : List ConnOp :=
  let x := p.grp g
  let ctl := x.pitch + b2n x.countsFirst * 2 ^ 18 + b2n x.drop * 2 ^ 19
  [memberWrite g false Off.GRP_SEL 4 (g % 1024), memberWrite g false Off.GRP_CTL 4 ctl,
    memberWrite g false Off.GRP_PLANES 4 x.planes, memberWrite g false Off.GRP_DEADLINE 4 x.deadline,
    memberWrite g false Off.GRP_SEQ 4 x.seq]
    ++ ((List.range 16).map fun i => memberWrite g false (Off.GRP_MEMBERS + 8 * i) 8 (fld x.members (64 * i + 63) (64 * i)))
    ++ [memberWrite g true Off.GRP_CTL 4 (ctl + 2 ^ 16)]

/-- The writes that uncommit a former member; nobody waits for them. -/
def formerWrites (g : Nat) : List ConnOp := [memberWrite g false Off.GRP_SEL 4 (g % 1024), memberWrite g false Off.GRP_CTL 4 0]

/-- The packages of the own rack, other than this one, that a member map names. -/
def ownRackMembers (p : Package) (members : Nat) : List Nat :=
  (bitList (rackSlots members p.base.rack) 64).filterMap fun s =>
    if s = p.base.pos then none else some (64 * p.base.rack + s)

/-- PUSH: every Weir of PLANES and every other member of the rack is sent the committed definition, and former members are
uncommitted. A PUSH of a group that is not committed, or while one runs, does nothing (log 39). -/
def pushGroup (p : Package) (g : Nat) : Package :=
  let x := p.grp g
  if !x.commit || x.busy then p
  else
    let planes := grpPlanes g x
    let members := ownRackMembers p x.members
    let former := (ownRackMembers p x.oldMembers).filter fun i => !members.contains i
    let p := p.setGrp g { x with
      busy := true, failed := false, oldMembers := x.members, pushWait := planes.map (fun q => 1024 + q) ++ members }
    let p := planes.foldl (fun p q => sendSetup (sendSetup p g q uncommitImage) g q (pushImage p g q)) p
    let p := members.foldl (fun p i => (memberWrites p g).foldl (fun p o => mgmtIssue p i o) p) p
    former.foldl (fun p i => (formerWrites g).foldl (fun p o => mgmtIssue p i o) p) p

/-- PUSH_TIMEOUT: a Weir or member has not answered (R237, R260). -/
def pushTimeout (p : Package) (g : Nat) : Package :=
  let x := p.grp g
  match x.pushWait with
  | [] => p
  | i :: _ =>
    let p := p.setGrp g { x with busy := false, failed := true, pushWait := [] }
    raise p (grpPage g) 4 { c2 := g, c3 := if 1024 ≤ i then (i - 1024 + 1) * 2 ^ 16 else i % 64, pitch := x.pitch }

/-- PUSH_TIMEOUT (R237). -/
def execPushTimeout (p g : Nat) (s : State) : Res := onPkg p (fun x => if g < 2048 then pushTimeout x g else x) s

/-- SETUP_ANSWER: a Weir's answer settles a PUSH's copy, or the uncommit that a span strike sent (R237, R278). -/
def setupAnswer (p : Package) (k : Pkt) : Package :=
  if k.op ≠ .coll ∨ cType k ≠ 6 then p
  else
    let p := takeAny p k
    let g := k.conn
    let x := p.grp g
    let owed := if bitOf (fieldAt k.payload 0 4) 16 then x.setupOwed else x.setupOwed.filter (· ≠ k.plane)
    let rest :=
      if x.pushWait.contains (1024 + k.plane) && sameImage k.payload (pushImage p g k.plane) then
        x.pushWait.filter (· ≠ 1024 + k.plane)
      else x.pushWait
    p.setGrp g { x with setupOwed := owed, pushWait := rest, busy := x.busy && !rest.isEmpty }

/-- SETUP_ANSWER (R237). -/
def execSetupAnswer (p : Nat) (pkt : Pkt) (s : State) : Res := onPkg p (fun x => setupAnswer x pkt) s

/-- SETUP_UNCOMMIT_RESEND: Weirs that have not accepted the uncommit are sent it again (R278). -/
def setupUncommitResend (p : Package) (g : Nat) : Package :=
  (p.grp g).setupOwed.foldl (fun p q => sendSetup p g q uncommitImage) p

/-- SETUP_UNCOMMIT_RESEND (R278). -/
def execSetupUncommitResend (p g : Nat) (s : State) : Res := onPkg p (fun x => setupUncommitResend x g) s

end Sys2Proof.Machine
end

