-- ==== Sys2Proof/Machine/Vector.lean ====
section
/-! DEFINITION. The vector units' sub-operations and the attention streaming engine (R104, R124–R128). -/

namespace Sys2Proof.Machine

/-! ## VECTOR (R104) -/

/-- The result of a sub-operation on operands exact in FP32, rounded to FP32 (R104). -/
def vecArith (sub : Nat) (s x y : Val) : Val :=
  match sub with
  | 0 => roundFp32 (sumExact [x, y])
  | 1 => roundFp32 (x.mul y)
  | 2 => roundFp32 (sumExact [s.mul x, y])
  | 3 => x.max y
  | 4 => x.min y
  | 9 => roundFp32 (s.mul x)
  | n => transcend n (fp32.encode x)

/-- Element `i` of Z; CONVERT takes the exact value straight to FMT_Z (R104). -/
def vecElem (p : Package) (t : Nat) (v : Vec) (i : Nat) : Option Val :=
  let b := sramBase t
  match valAt p (b + v.x) v.fx i (b + v.sx + i / 32) with
  | none => none
  | some x =>
    if v.sub = 8 then some x
    else if v.twoIn then (valAt p (b + v.y) v.fy i 0).map fun y => vecArith v.sub (fp32.decode v.scalar) x y
    else some (vecArith v.sub (fp32.decode v.scalar) x x)

/-- The bytes of Z in order, and whether any element saturated. -/
def vecOut (p : Package) (t : Nat) (v : Vec) : List (Option Byte) × Bool :=
  (List.range v.n).foldl (fun acc i =>
    let (b, s) := encodeOut v.fz ((vecElem p t v i).map fun x => (x, false))
    (acc.1 ++ b, acc.2 || s)) ([], false)

/-- The bytes VECTOR reads. -/
def vecReads (t : Nat) (v : Vec) : List Nat :=
  let b := sramBase t
  rowBytes (b + v.x) 1 0 (fmtLen v.fx v.n) ++ (if v.twoIn then rowBytes (b + v.y) 1 0 (fmtLen v.fy v.n) else [])
    ++ (if isBlock v.fx then rowBytes (b + v.sx) 1 0 ((v.n + 31) / 32) else [])

/-- A VECTOR descriptor of a sub-operation runs (R104). -/
def vectorDesc (sub : Nat) (r : HopRef) (free : Nat) (p : Package) (e : HopEntry) : Package :=
  let v := vecOf e.bytes
  if v.sub ≠ sub then p
  else
    let t := tileOfHop p r
    let cs := vecReads t v
    let st := readStatus p cs
    let (bs, sat) := vecOut p t v
    let p := noteBad p cs (p.dieOfTile t)
    let (p, st') := writeMem p (p.dieOfTile t) (sramBase t + v.z) (mixed free st bs)
    finishEntry p r e.idx (firstStatus st st') sat

/-- A VECTOR command of one sub-operation (R104). -/
def runVector (sub p : Nat) (ref : HopRef) (idx : Nat) (s : State) : Res :=
  runEngine p ref idx 0x20 (sramReady ref) (vectorDesc sub ref) s

/-- VECTOR_ADD: x + y (R104). -/
def execVectorAdd (p : Nat) (ref : HopRef) (idx : Nat) (s : State) : Res := runVector 0 p ref idx s

/-- VECTOR_MUL: x × y (R104). -/
def execVectorMul (p : Nat) (ref : HopRef) (idx : Nat) (s : State) : Res := runVector 1 p ref idx s

/-- AXPY: S × x + y, rounded once (R104). -/
def execAxpy (p : Nat) (ref : HopRef) (idx : Nat) (s : State) : Res := runVector 2 p ref idx s

/-- VECTOR_MAX: the larger of x and y (R104). -/
def execVectorMax (p : Nat) (ref : HopRef) (idx : Nat) (s : State) : Res := runVector 3 p ref idx s

/-- VECTOR_MIN: the smaller of x and y (R104). -/
def execVectorMin (p : Nat) (ref : HopRef) (idx : Nat) (s : State) : Res := runVector 4 p ref idx s

/-- EXP: e^x (R104). -/
def execExpCmd (p : Nat) (ref : HopRef) (idx : Nat) (s : State) : Res := runVector 5 p ref idx s

/-- RECIP: 1 / x (R104). -/
def execRecip (p : Nat) (ref : HopRef) (idx : Nat) (s : State) : Res := runVector 6 p ref idx s

/-- RSQRT: 1 / √x (R104). -/
def execRsqrt (p : Nat) (ref : HopRef) (idx : Nat) (s : State) : Res := runVector 7 p ref idx s

/-- CONVERT: x converted to FMT_Z (R104). -/
def execConvert (p : Nat) (ref : HopRef) (idx : Nat) (s : State) : Res := runVector 8 p ref idx s

/-- SCALE: S × x (R104). -/
def execScale (p : Nat) (ref : HopRef) (idx : Nat) (s : State) : Res := runVector 9 p ref idx s

/-! ## ATTEND (R124–R128, R133) -/

/-- Bytes of a KV block (R127). -/
def kvBlockLen (x : Att) : Nat := 2 * 256 * x.hkv * x.dim * (fmtBits x.fkv / 8)

/-- Block table entry `b` as read; its fault status, 0 for none (R127). -/
def entryFault (p : Package) (pitch : Nat) (x : Att) (ent : Nat) : Nat :=
  let blk := ent % 2 ^ 48
  let len := kvBlockLen x
  if ent / 2 ^ 48 ≠ 0 ∨ blk % 64 ≠ 0 ∨ !inRegion p blk len then St.addressFault
  else if !ownsRange p pitch blk len then St.crossPitch
  else if (canonRange p blk len).any (deadAt p) then St.hollowUnit
  else 0

/-- The element of token `i`, head, dimension `d` of a block's K plane, or of its V plane (R127). -/
def kvVal (p : Package) (x : Att) (blk plane i d : Nat) : Option Val :=
  valAt p (blk + plane * (kvBlockLen x / 2)) x.fkv ((i * x.hkv + x.head) * x.dim + d) 0

/-- Keys of block `b` that row `r` sees, ascending (R128). -/
def visibleKeys (x : Att) (r b : Nat) : List Nat :=
  (List.range 256).filterMap fun i =>
    let j := 256 * b + i
    if j < x.seqLen ∧ (!x.causal ∨ j ≤ x.qpos + r / x.group) then some j else none

/-- A row's running state: m, l and the accumulators (R128). -/
structure AttRow where
  m : Val
  l : Val
  acc : List Val
  deriving DecidableEq, Repr

/-- exp of the VECTOR algorithm on a value rounded to FP32 (R128). -/
def attExp (v : Val) : Val := transcend 5 (fp32.encode v)

/-- Difference rounded to FP32. -/
def attSub (a b : Val) : Val := roundFp32 (sumExact [a, b.neg])

/-- One block of one row: the update of m, l and the accumulators (R128). -/
def attBlock (p : Package) (t : Nat) (x : Att) (r b blk : Nat) (st : AttRow) : Option AttRow :=
  let keys := visibleKeys x r b
  if keys.isEmpty then some st
  else
    let q := allVals ((List.range x.dim).map fun d => valAt p (sramBase t + x.q) x.fq (r * x.dim + d) 0)
    let kv := allVals (keys.flatMap fun j => (List.range x.dim).map fun d => kvVal p x blk 0 (j % 256) d)
    let vv := allVals (keys.flatMap fun j => (List.range x.dim).map fun d => kvVal p x blk 1 (j % 256) d)
    match q, kv, vv with
    | some q, some kv, some vv =>
      let scale := fp32.decode x.scale
      let score := fun (i : Nat) =>
        roundFp32 (scale.mul (sumExact ((List.range x.dim).map fun d =>
          (nth .nan q d).mul (nth .nan kv (i * x.dim + d)))))
      let ss := (List.range keys.length).map score
      let mb := ss.foldl Val.max st.m
      let c := attExp (attSub st.m mb)
      let l := roundFp32 (st.l.mul c)
      let acc := st.acc.map fun a => roundFp32 (a.mul c)
      some ((List.range keys.length).foldl (fun (w : AttRow) i =>
        let e := attExp (attSub (nth .nan ss i) mb)
        { m := mb, l := roundFp32 (sumExact [w.l, e]),
          acc := (List.range x.dim).map fun d =>
            roundFp32 (sumExact [e.mul (nth .nan vv (i * x.dim + d)), nth .nan w.acc d]) }) { m := mb, l := l, acc := acc })
    | _, _, _ => none

/-- A quotient rounded to FP32, in the steps of IEEE 754 division (R128). -/
def divFp32 (a b : Val) : Val :=
  match a, b with
  | .nan, _ => .nan
  | _, .nan => .nan
  | .inf _, .inf _ => .nan
  | .inf s, .fin n _ _ => .inf (s != n)
  | .fin s _ _, .inf n => .fin (s != n) 0 0
  | .fin s m e, .fin n k f =>
    if k = 0 then (if m = 0 then .nan else .inf (s != n))
    else if m = 0 then .fin (s != n) 0 0
    else
      let sh := Nat.log2 k + 64
      let q := m * 2 ^ sh / k
      roundFp32 (.fin (s != n) (2 * q + (if m * 2 ^ sh % k = 0 then 0 else 1)) (e - f - (sh : Int) - 1))

/-- A row of O in FMT_O and its statistics (R128). -/
def attRow (p : Package) (t : Nat) (x : Att) (r : Nat) (blocks : List Nat) : Option AttRow :=
  (List.range blocks.length).foldl (fun acc b =>
    match acc with
    | none => none
    | some w => attBlock p t x r b (nth 0 blocks b) w)
    (some { m := .inf true, l := .fin false 0 0, acc := List.replicate x.dim (.fin false 0 0) })

/-- The bytes of K and V that some row needs of block `b` at `blk`: those of the keys its last row sees, for no row sees more (R125,
R128). -/
def blockNeeds (p : Package) (x : Att) (b blk : Nat) : List Nat :=
  let es := fmtBits x.fkv / 8
  (visibleKeys x (x.nq - 1) b).flatMap fun j => [0, 1].flatMap fun plane =>
    canonRange p (blk + plane * (kvBlockLen x / 2) + (j % 256 * x.hkv + x.head) * x.dim * es) (x.dim * es)

/-- How far the engine has come: the blocks processed, the status that ends it, and a faulty entry with its index (R127). -/
structure AttRun where
  pkg : Package
  blocks : List Nat := []
  status : Nat := 0
  fault : Option (Nat × Nat) := none

/-- What is read counts its errors; the status of the read (R85, R119, R122). -/
def readNoted (p : Package) (cs : List Nat) (die : Nat) : Package × Nat :=
  let q := noteBad p cs die
  (q, if cs.any (deadAt q) then St.hollowUnit else if cs.any (badAt p) then St.dataUncorrectable else 0)

/-- The engine reaches block `b`: it reads the entry, judges it, and reads what it needs of the block (R127, R128). -/
def attReach (pitch die : Nat) (x : Att) (w : AttRun) (b : Nat) : AttRun :=
  if w.status ≠ 0 then w
  else
    let entry := canonRange w.pkg (x.bt + 8 * b) 8
    let (p, st) := readNoted w.pkg entry die
    if st ≠ 0 then { w with pkg := p, status := st }
    else
      let ent := ofLe (entry.map (byteValue p))
      let st := entryFault p pitch x ent
      if st ≠ 0 then { w with pkg := p, status := st, fault := some (b, ent) }
      else
        let (p, st) := readNoted p (blockNeeds p x b ent) die
        if st ≠ 0 then { w with pkg := p, status := st } else { w with pkg := p, blocks := w.blocks ++ [ent] }

/-- The blocks of a sequence. -/
def attBlocks (x : Att) : Nat := (x.seqLen + 255) / 256

/-- Open bytes, where O and STATS hold undefined values (R127; log 7). -/
def openBytes (free n : Nat) : List (Option Byte) := (List.range n).map fun i => some (Config.freeByte free i)

/-- Q is read, then the blocks in ascending order as far as they can be used (R127, R128). -/
def attRun (p : Package) (t pitch : Nat) (x : Att) : AttRun :=
  let die := p.dieOfTile t
  let (p, st) := readNoted p (rowBytes (sramBase t + x.q) 1 0 (fmtLen x.fq (x.nq * x.dim))) die
  (List.range (attBlocks x)).foldl (attReach pitch die x) { pkg := p, status := st }

/-- ATTEND: attention of NQ rows over the cache that the block table names (R124–R128). An entry fault ends it with the
entry's status, data withheld at a block it reaches with DATA_UNCORRECTABLE or HOLLOW_UNIT; O and STATS are then open. ATT_STAT shows
the block reached, ATT_BLOCKS counts those processed (R133). -/
def attendDesc (r : HopRef) (free : Nat) (p : Package) (e : HopEntry) : Package :=
  let x := attOf e.bytes
  let t := tileOfHop p r
  let die := p.dieOfTile t
  let b := sramBase t
  let page := tilePage t 8
  let w := attRun p t (pitchOfHop p r) x
  let p := w.pkg
  let rows := (List.range x.nq).map fun q => attRow p t x q w.blocks
  let o := if w.status ≠ 0 then openBytes free (fmtLen x.fo (x.nq * x.dim))
    else rows.flatMap fun w => match w with
      | some w => w.acc.flatMap fun a => (encodeOut x.fo (some (divFp32 a w.l, false))).1
      | none => []
  let stats := if w.status ≠ 0 then openBytes (free + 1) (8 * x.nq)
    else rows.flatMap fun w => match w with
      | some w => (le 4 (fp32.encode w.m) ++ le 4 (fp32.encode w.l)).map some
      | none => []
  let (p, st) := engineWrite p die w.status (b + x.o) o
  let (p, st) := if x.useStats then engineWrite p die st (b + x.stats) stats else (p, st)
  let p := countFlagged p (page + Off.ATT_BLOCKS) w.blocks.length 1
  let p := p.wrF (page + Off.ATT_STAT) 12 0 (min w.blocks.length (attBlocks x - 1))
  let p := match w.fault with
    | some (i, ent) => raise p page 0 { c2 := i, c3 := ent % 2 ^ 32 }
    | none => p
  finishEntry p r e.idx st false

/-- The tile's SRAM, the table and what is needed of every block are served now (R117). -/
def attendReady (r : HopRef) (p : Package) (e : HopEntry) : Bool :=
  let x := attOf e.bytes
  let serves := fun (c : Nat) => servesAt p c && !zeroQueued p c
  sramReady r p e && memReady p x.bt (8 * attBlocks x)
    && (List.range (attBlocks x)).all fun b =>
      let ent := ofLe ((canonRange p (x.bt + 8 * b) 8).map (byteValue p))
      entryFault p (pitchOfHop p r) x ent ≠ 0 || (blockNeeds p x b ent).all serves

/-- ATTEND (R128). -/
def execAttend (p : Nat) (ref : HopRef) (idx : Nat) (s : State) : Res :=
  runEngine p ref idx 0x30 (attendReady ref) (attendDesc ref) s

end Sys2Proof.Machine
end

