-- ==== Sys2Proof/Machine/Cores.lean ====
section
/-! DEFINITION. Sequencer cores: start, hold, traps, doorbells and the peg window (R86–R89, R140, R141). -/

namespace Sys2Proof.Machine

/-- A trap of core `c` of tile `t`: it enters the handler that mtvec names, or halts the core where mtvec is 0 (R88, R110;
mtvec's low two bits select its mode, log 21). -/
def trapCore (p : Package) (t c cause pc tval : Nat) : Package :=
  let x := p.core t c
  let p := p.wrF (coreStatReg t c) 2 2 0
  if x.mtvec = 0 then
    let p := ((p.wrF (coreStatReg t c) 1 0 2).wrF (coreStatReg t c) 15 8 cause).wr (coreReg t c Off.FAULT_PC) pc
    raise (p.setCore t c { x with pc := pc }) (tilePage t 2) c { c2 := pc % 2 ^ 32, c3 := cause % 2 ^ 32 }
  else
    let target := x.mtvec / 4 * 4 + (if x.mtvec % 4 = 1 ∧ 2 ^ 63 ≤ cause then 4 * (cause % 2 ^ 63) else 0)
    p.setCore t c { x with mepc := pc, mcause := cause, mtval := tval, pc := target }

/-- A core whose CORE_CTRL.RUN is 1 starts once its page is enabled: at RESET_PC, its instruction cache invalid (R88,
R465). -/
def startCore (p : Package) (t c : Nat) : Package :=
  let st := coreStatReg t c
  if bitOf (p.rd (coreReg t c Off.CORE_CTRL)) 0 && enabledPage p.base (tilePage t 2) && (p.core t c).held
      && !strikingPage p.base (tilePage t 2) then
    let x := p.core t c
    let pc := 0x80000000 + p.rd (coreReg t c Off.RESET_PC) / 4 * 4
    (p.setCore t c { x with held := false, pc := pc, icache := [] }).wrF st 2 0 1
  else p

/-- CORE_CTRL.RUN = 0 holds a core in reset: it neither runs nor counts as halted (R88; log 22). -/
def holdCore (p : Package) (t c : Nat) : Package :=
  let x := p.core t c
  (p.setCore t c { x with held := true, pc := 0, mtvec := 0, mepc := 0, mcause := 0, mtval := 0, icache := [] }).wrF
    (coreStatReg t c) 2 0 0

/-- CORE_TRAP: a running core traps (R88); one stopped in WFI only by an interrupt, which resumes it (R141). -/
def execCoreTrap (p t c cause pc tval : Nat) (s : State) : Res :=
  onPkg p (fun x => if coreActive x t c || (coreRuns x t c && decide (2 ^ 63 ≤ cause)) then trapCore x t c cause pc tval else x) s

/-- A core may reach local peg `k` of its tile: its entry is committed to the tile's owner (R140). -/
def corePegOk (p : Package) (t k : Nat) : Bool :=
  let a := p.rd (pegAllocReg (512 * t + k))
  bitOf a 16 && decide (fld a 11 0 = ownerOf p.base (tilePage t 0))

/-- A core's store to a word of a peg slot: the operation, or a store access fault (R140). -/
def corePegStore (p : Package) (t c k word : Nat) (f : Package → Package) : Package :=
  if !coreActive p t c || !decide (k < 512) then p
  else if corePegOk p t k then f p
  else trapCore p t c 7 (p.core t c).pc (0x02000000 + 16 * k + word)

/-- CORE_PEG_SET (R140). -/
def execCorePegSet (p t c k val : Nat) (s : State) : Res :=
  onPkg p (fun x => corePegStore x t c k 0 fun x => pegApply x (512 * t + k) (.set val)) s

/-- CORE_PEG_SET_TARGET (R140). -/
def execCorePegSetTarget (p t c k val : Nat) (s : State) : Res :=
  onPkg p (fun x => corePegStore x t c k 4 fun x => pegApply x (512 * t + k) (.setTarget val)) s

/-- CORE_PEG_ADD (R140). -/
def execCorePegAdd (p t c k val : Nat) (s : State) : Res :=
  onPkg p (fun x => corePegStore x t c k 8 fun x => pegApply x (512 * t + k) (.add val)) s

/-- CORE_WAIT_ARM (R141). -/
def execCoreWaitArm (p t c k val : Nat) (s : State) : Res :=
  onPkg p (fun x => corePegStore x t c k 12 fun x => armCore x t c k val) s

/-- A write of HOP_TAIL: accepted within the ring bounds, else ignored with HOP_OVERRUN (R89). -/
def hopTail (p : Package) (t h v : Nat) : Package :=
  let dn := p.rd (hopReg t h Off.HOP_DONE)
  let tail := p.rd (hopReg t h Off.HOP_TAIL)
  if serialDist 32 v dn ≤ 2 ^ p.rdF (hopReg t h Off.HOP_CFG) 3 0 ∧ serialDist 32 v tail < 2 ^ 31 then
    p.wr (hopReg t h Off.HOP_TAIL) v
  else raise p (tilePage t 1) (4 + h) { c2 := v, c3 := dn }

/-- The words of a peg slot as a core loads them (R140). -/
def pegSlotWord (p : Package) (t c k word : Nat) : Nat :=
  let x := p.peg (512 * t + k)
  let mine := match (p.core t c).armed with
    | some (k', _, ok) => if k' = k then 2 + b2n ok else 0
    | none => 0
  if word = 4 then x.target.toNat else if word = 12 then mine else x.counter.toNat

/-- A store to a word of a peg slot (R140). -/
def pegSlotStore (p : Package) (t c k word v : Nat) : Package :=
  match word with
  | 0 => pegApply p (512 * t + k) (.set v)
  | 4 => pegApply p (512 * t + k) (.setTarget v)
  | 8 => pegApply p (512 * t + k) (.add v)
  | _ => armCore p t c k v

/-- A core stops in WFI, unless its armed wait is satisfied (R141). -/
def coreWfi (p : Package) (t c : Nat) : Package :=
  match (p.core t c).armed with
  | some (_, _, true) => p
  | _ => p.wrF (coreStatReg t c) 2 2 1

/-- An instruction reaches a core: WFI stops it, FENCE.I invalidates its instruction cache (R87, R141; log 147). -/
def coreFetched (p : Package) (t c pc : Nat) (b : Bytes) : Package :=
  let p := p.setCore t c { p.core t c with pc := pc }
  let w := ofLe b
  if w = 0x10500073 then coreWfi p t c
  else if b.length = 4 ∧ w % 128 = 0x0F ∧ w / 2 ^ 12 % 8 = 1 then p.setCore t c { p.core t c with icache := [] }
  else p

end Sys2Proof.Machine
end

