-- ==== Sys2Proof/Machine/MemRows.lean ====
section
/-! DEFINITION. Requests to tile SRAM and to the stacks, patrol, stack temperature and training, scrubbing and line repair
(R85, R86, R116–R123, R281–R284, R311, R321). -/

namespace Sys2Proof.Machine

/-- The die whose engine sends a request (R57, R132). -/
def dieOfReq (p : Package) : Requester → Nat
  | .tileEngine d => d
  | .core c => p.dieOfTile (c / 2)
  | .linkDie d => 0x10 + d

/-- Bytes a memory operation names, and whether it changes none. -/
def opLen : MemOp → Nat
  | .read n => n
  | .write b => b.length
  | .fetch n => n
def opReads : MemOp → Bool
  | .write _ => false
  | _ => true

/-- The data and status a request answers with, kept as the last read served; a core's access that fails is its own access fault
(R86). -/
def answer (p : Package) (who : Requester) (off status : Nat) (data : Bytes) (isRead : Bool) : Package :=
  let p := { p with mem := { p.mem with lastRead := data, lastStatus := status } }
  match who with
  | .core c =>
    if status = 0 then p
    else trapCore p (c / 2) (c % 2) (if isRead then 5 else 7) (p.core (c / 2) (c % 2)).pc
      (0x80000000 + (off - sramBase (c / 2)))
  | _ => p

/-- One error found in a word or sector that a request reads: marked correctable or uncorrectable, or, beyond the code, whichever the
open choice says: uncorrectable, counted as corrected, or unnoticed (R85, R119; log 23). -/
def findError (free : Nat) (cs : List Nat) (p : Package) (e : Nat × EccErr) : Package :=
  if !cs.any (fun c => decide (eccUnit c = eccUnit e.1)) || unscrubbed p e.1 || deadAt p e.1 then p
  else
    match e.2 with
    | .correctable => if unitBad p e.1 then p else markSoft p e.1
    | .uncorrectable => markBad p e.1
    | .beyond =>
      match Config.freeChoice free e.1 % 3 with
      | 0 => markBad p e.1
      | 1 => if softAt p e.1 then p else if e.1 < dramSize then dramCorrected p e.1 else sramCorrected p e.1
      | _ => p

/-- The bytes returned for a unit whose errors lie beyond the code and were not caught are open (R119; log 23). -/
def beyondBytes (free off : Nat) (errs : List (Nat × EccErr)) (b : Bytes) (p : Package) : Bytes :=
  (List.range b.length).map fun i =>
    let c := canon p (off + i)
    if !unscrubbed p c && errs.any (fun e => decide (e.2 = .beyond ∧ eccUnit e.1 = eccUnit c ∧ Config.freeChoice free e.1 % 3 ≠ 0)) then
      Config.freeByte free i
    else nth 0 b i

/-- A request is carried out now (R85, R118–R120): its status, and the data of a read. Of a write, only partly covered words and
sectors are read first. -/
def serveOp (free : Nat) (p : Package) (who : Requester) (off : Nat) (op : MemOp) (errs : List (Nat × EccErr)) :
    Package × Nat × Bytes :=
  let cs := canonRange p off (opLen op)
  match op with
  | .write b =>
    let p := errs.foldl (findError free (cs.filter fun c => !coversUnit cs c)) p
    let (p, st) := writeBytes p (dieOfReq p who) off b
    (p, st, [])
  | _ =>
    let p := errs.foldl (findError free cs) p
    let (p, st, b) := readBytes p (dieOfReq p who) off (opLen op)
    (p, st, if st = 0 then beyondBytes free off errs b p else [])

/-- It is served whole, and answered. -/
def serveNow (free : Nat) (p : Package) (who : Requester) (off : Nat) (op : MemOp) (errs : List (Nat × EccErr)) : Package :=
  let (p, st, b) := serveOp free p who off op errs
  answer p who off st b (opReads op)

/-! ## Pieces (R83, R118, R283) -/

/-- Where a piece waits: its stack while the die is disabled or the stack retrains, its tile while a repair runs, a granule that a
write meets unscrubbed, or behind what waits there already (R117, R118, R122, R283, R465). -/
inductive WaitAt where
  | stack (s : Nat)
  | tile (t : Nat)
  | granule (u g : Nat)
  deriving DecidableEq, Repr

/-- Where a request whose bytes lie in one stack or tile and one granule waits, if anywhere. -/
def waitAt (p : Package) (off : Nat) (op : MemOp) : Option WaitAt :=
  let c := canon p off
  if !servesAt p c || (decide (c < dramSize) && !(p.stack (stackOf c)).waiting.isEmpty) then
    some (if c < dramSize then .stack (stackOf c) else .tile (tileOf c))
  else if zeroQueued p c || (unscrubbed p c && !deadAt p c && !opReads op) then some (.granule (scrubUnit c).1 (scrubUnit c).2)
  else none

/-- A piece joins the requests that wait at a place. -/
def waitsThere (p : Package) (x : Piece) : WaitAt → Package
  | .stack s => p.setStack s { p.stack s with waiting := (p.stack s).waiting ++ [x] }
  | .tile t => { p with mem := { p.mem with sramWait := p.mem.sramWait ++ [(t, x)] } }
  | .granule u g => { p with mem := { p.mem with zeroWait := p.mem.zeroWait ++ [(u, g, x)] } }

/-- A piece ends: after the last one its transfer completes, once (R83). -/
def pieceDone (p : Package) (x : Piece) (st : Nat) (data : Bytes) : Package :=
  match mfind x.xfer p.mem.xfers with
  | none => p
  | some t =>
    let t := { t with left := t.left - 1, status := firstStatus t.status st, data := mset t.data x.pos data }
    if t.left = 0 then
      answer { p with mem := { p.mem with xfers := mdel p.mem.xfers x.xfer } } t.who t.off t.status
        (if t.status = 0 then t.data.flatMap fun e => e.2 else []) t.read
    else { p with mem := { p.mem with xfers := mset p.mem.xfers x.xfer t } }

/-- A piece reaches its die: it is served, or waits. -/
def pieceIn (free : Nat) (p : Package) (x : Piece) : Package :=
  match waitAt p x.off x.op with
  | some w => waitsThere p x w
  | none =>
    let (p, st, b) := serveOp free p x.who x.off x.op x.errs
    pieceDone p x st b

/-- The unit at whose boundaries a transfer is split: 2 KiB through the interleaved alias, else a scrub granule (R83, R281). -/
def pieceUnit (off : Nat) : Nat := if ilvBase ≤ off then 0x800 else if off < dramSize then 0x200000 else 0x10000

/-- The pieces of a range: place and length (R83). -/
def piecesOf (off : Nat) : Nat → Nat → Nat → List (Nat × Nat)
  | 0, _, _ => []
  | fuel + 1, pos, len =>
    if len ≤ pos then []
    else
      let n := min (len - pos) (pieceUnit off - (off + pos) % pieceUnit off)
      (pos, n) :: piecesOf off fuel (pos + n) len

/-- The part of an operation that a piece carries. -/
def opPart (op : MemOp) (pos n : Nat) : MemOp :=
  match op with
  | .write b => .write ((b.drop pos).take n)
  | .read _ => .read n
  | .fetch _ => .fetch n

/-- A request to tile SRAM or the stacks, by package memory offset: it is served whole where no piece has to wait, else its pieces go
their own ways (R83, R118). -/
def request (free : Nat) (p : Package) (who : Requester) (off : Nat) (op : MemOp) (errs : List (Nat × EccErr)) : Package :=
  let ps := piecesOf off (opLen op + 1) 0 (opLen op)
  if ps.all fun x => (waitAt p (off + x.1) (opPart op x.1 x.2)).isNone then serveNow free p who off op errs
  else
    let id := p.mem.nextXfer
    let t : Transfer := { who := who, off := off, read := opReads op, left := ps.length }
    let p : Package := { p with mem := { p.mem with nextXfer := id + 1, xfers := mset p.mem.xfers id t } }
    ps.foldl (fun p x => pieceIn free p
      { xfer := id, pos := x.1, who := who, off := off + x.1, op := opPart op x.1 x.2, errs := errs }) p

/-! ## Cores (R86, R87, R140, R141) -/

/-- The result of a core's load from what is not SRAM. -/
def coreLoad (p : Package) (op : MemOp) (at' v size : Nat) : Package :=
  { p with mem := { p.mem with lastRead := ((le size v).drop at').take (opLen op), lastStatus := 0 } }

/-- A core's instruction comes from the lines its cache holds, unless they have left it, or from SRAM, which then stand in the cache
(R86; log 147). A line that is uncorrectable, or on a hollow tile, is an instruction access fault. -/
def coreFetchSram (free : Nat) (p : Package) (t c off n : Nat) (errs : List (Nat × EccErr)) : Package :=
  let lines := dedup [off / 64, (off + n - 1) / 64]
  let hit := fun (l : Nat) => (mfind l (p.core t c).icache).isSome && decide (Config.freeChoice free l % 2 = 0)
  let miss := lines.filter fun l => !hit l
  if !miss.all fun l => memReady p (sramBase t + 64 * l) 64 then p
  else
    let (p, st) := miss.foldl (fun (w : Package × Nat) l =>
      let (q, st, b) := serveOp free w.1 (.core (2 * t + c)) (sramBase t + 64 * l) (.fetch 64) (errs.map fun e => (sramBase t + e.1, e.2))
      (if st = 0 then q.setCore t c { q.core t c with icache := mset (q.core t c).icache l b } else q, firstStatus w.2 st)) (p, 0)
    if st ≠ 0 then trapCore p t c 1 (0x80000000 + off) (0x80000000 + off)
    else
      let b := ((lines.flatMap fun l => mget [] (p.core t c).icache l).drop (off % 64)).take n
      let p : Package := { p with mem := { p.mem with lastRead := b, lastStatus := 0 } }
      coreFetched p t c (0x80000000 + off) b

/-- Core address of a peg slot window, a doorbell, global time and SRAM (R86). -/
def pegWindow (a : Nat) : Bool := decide (0x02000000 ≤ a ∧ a < 0x02002000)
def doorbellWindow (a : Nat) : Bool := decide (0x01000000 ≤ a ∧ a < 0x01000020)
def timeWindow (a : Nat) : Bool := decide (0x03000000 ≤ a ∧ a < 0x03000008)
def scratchWindow (a : Nat) : Bool := decide (a < 0x10000)
def coreSram (a : Nat) : Bool := decide (0x80000000 ≤ a ∧ a < 0x80000000 + sramSize)

/-- The causes of a misaligned access and of an access fault, by operation (R86). -/
def misalignedCause : MemOp → Nat
  | .fetch _ => 0
  | .read _ => 4
  | .write _ => 6
def accessCause : MemOp → Nat
  | .fetch _ => 1
  | .read _ => 5
  | .write _ => 7

/-- A core's load or store in its peg window (R140). -/
def corePegAccess (p : Package) (t c a : Nat) (op : MemOp) : Package :=
  let k := (a - 0x02000000) / 16
  let word := a % 16
  let fault := trapCore p t c (accessCause op) (p.core t c).pc a
  if opLen op ≠ 4 ∨ a % 4 ≠ 0 ∨ !corePegOk p t k then fault
  else
    match op with
    | .read _ => coreLoad p op 0 (pegSlotWord p t c k word) 4
    | .write b => pegSlotStore p t c k word (ofLe b)
    | .fetch _ => fault

/-- A core's access by core address (R86): a doorbell's read gives HOP_DONE and its 4-byte write sets HOP_TAIL; global time is read
only; scratch is the core's own; SRAM is its tile's; anything else is an access fault. -/
def coreAccess (free : Nat) (p : Package) (who a : Nat) (op : MemOp) (errs : List (Nat × EccErr)) : Package :=
  let t := who / 2
  let c := who % 2
  let n := opLen op
  let x := p.core t c
  let pc := match op with
    | .fetch _ => a
    | _ => x.pc
  let fault := trapCore p t c (accessCause op) pc a
  let align := match op with
    | .fetch _ => 2
    | _ => n
  if !coreActive p t c then p
  else if pegWindow a then corePegAccess p t c a op
  else if !(n = 1 || n = 2 || n = 4 || n = 8) || a % align ≠ 0 then trapCore p t c (misalignedCause op) pc a
  else if scratchWindow a then
    match op with
    | .write b => p.setCore t c { x with scratch := memWrite x.scratch a b }
    | .read _ => { p with mem := { p.mem with lastRead := memRead x.scratch a n, lastStatus := 0 } }
    | .fetch _ =>
      coreFetched { p with mem := { p.mem with lastRead := memRead x.scratch a n, lastStatus := 0 } } t c a (memRead x.scratch a n)
  else if coreSram a && decide (a + n ≤ 0x80000000 + sramSize) then
    match op with
    | .fetch _ => coreFetchSram free p t c (a - 0x80000000) n errs
    | _ => request free p (.core who) (sramBase t + (a - 0x80000000)) op (errs.map fun e => (sramBase t + e.1, e.2))
  else if doorbellWindow a then
    let h := (a - 0x01000000) / 8
    match op with
    | .read _ => coreLoad p op (a % 8) (p.rd (hopReg t h Off.HOP_DONE)) 8
    | .write b => if n = 4 ∧ a % 8 = 0 then hopTail p t h (ofLe b) else p
    | .fetch _ => fault
  else if timeWindow a then
    match op with
    | .read _ => coreLoad p op (a % 8) p.base.gtime 8
    | _ => fault
  else fault

/-- SRAM_ACCESS: a request reaches a tile's SRAM, by tile offset (R85, R282, R283, R465); a core's access goes by core address and may
lie anywhere in its map (R86; log 147). `errs` names the words found in error, by tile offset. -/
def sramAccess (free : Nat) (p : Package) (t : Nat) (who : Requester) (off : Nat) (op : MemOp) (errs : List (Nat × EccErr)) :
    Package :=
  match who with
  | .core c => if t = c / 2 then coreAccess free p c off op errs else p
  | _ =>
    if opLen op = 0 ∨ sramSize < off + opLen op ∨ p.tiles ≤ t then p
    else request free p who (sramBase t + off) op (errs.map fun e => (sramBase t + e.1, e.2))

/-- SRAM_ACCESS (R85). -/
def execSramAccess (p t : Nat) (who : Requester) (off : Nat) (op : MemOp) (errs : List (Nat × EccErr)) (s : State) : Res :=
  onPkgFree p (fun free x => sramAccess free x t who off op errs) s

/-- MEMORY_REQUEST: the stacks serve a request in arrival order, or let it wait while a die is disabled or a stack retrains
(R83, R117–R122). `errs` names the sectors found in error, by exposed offset. -/
def memoryRequest (free : Nat) (p : Package) (who : Requester) (off : Nat) (op : MemOp) (errs : List (Nat × EccErr)) : Package :=
  let dram := regionOf p off = some .dram ∨ regionOf p off = some .ilv
  if !dram ∨ !inRegion p off (opLen op) then p else request free p who off op errs

/-- MEMORY_REQUEST (R118). -/
def execMemoryRequest (p : Nat) (who : Requester) (off : Nat) (op : MemOp) (errs : List (Nat × EccErr)) (s : State) : Res :=
  onPkgFree p (fun free x => memoryRequest free x who off op errs) s

/-- The requests that wait for a stack are served in arrival order once it serves, or end HOLLOW_UNIT (R117, R122). -/
def releaseStack (free : Nat) (p : Package) (s : Nat) : Package :=
  let ws := (p.stack s).waiting
  if servesAt p (s * stackSize) then ws.foldl (pieceIn free) (p.setStack s { p.stack s with waiting := [] }) else p

/-- A sector with errors beyond the code as patrol finds it: uncorrectable; miscorrected, counted as corrected and written back with
open bytes; or unnoticed (R119, R121; log 23). -/
def patrolBeyond (free : Nat) (p : Package) (k : Nat) : Package :=
  match Config.freeChoice free k % 3 with
  | 0 => markBad p (32 * k)
  | 1 => dramCorrected { p with mem := { p.mem with
      cells := memWrite p.mem.cells (32 * k) ((List.range 32).map fun i => Config.freeByte free (32 * k + i)) } } (32 * k)
  | _ => p

/-- PATROL_STEP: patrol visits its next granule; `errs` names the sectors found in error there (R121, R122). -/
def patrolStep (free : Nat) (p : Package) (s : Nat) (errs : List (Nat × EccErr)) : Package :=
  let a := stackPage s
  let st := p.rd (a + Off.STACK_STAT)
  if !bitOf st 0 || bitOf st 1 || bitOf st 2 || p.rdF (pg (0x22 + s / 4) 0 + Off.PATROL_CFG) 7 0 = 0 || !decide (s < 8) then p
  else
    let g := p.rdF (a + Off.PATROL_POS) 14 0
    let base := s * stackSize + g * 0x200000
    let mine := fun (c : Nat) => decide (base ≤ c ∧ c < base + 0x200000)
    let p :=
      if unscrubbed p base then p
      else
        let found := fun (x : EccErr) => dedup ((errs.filter fun e => mine e.1 && decide (e.2 = x)).map fun e => e.1 / 32)
        let soft := found .correctable
        let p := (found .uncorrectable).foldl (fun p k => markBad p (32 * k)) p
        let p := (found .beyond).foldl (patrolBeyond free) p
        let bad := p.mem.dramBad.filter fun k => mine (32 * k)
        let fix := (dedup (soft ++ p.mem.dramFix.filter fun k => mine (32 * k))).filter fun k => !bad.contains k
        let p := fix.foldl (fun p k => dramCorrected p (32 * k)) p
        let p := { p with mem := { p.mem with dramFix := p.mem.dramFix.filter fun k => !mine (32 * k) } }
        bad.foldl (fun p k => dramUncorrected p (32 * k) 0xFF true) p
    let p := p.wrF (a + Off.PATROL_POS) 14 0 ((g + 1) % 18432)
    if g + 1 = 18432 then raise p a 4 {} else p

/-- PATROL_STEP (R121). -/
def execPatrolStep (p stack : Nat) (errs : List (Nat × EccErr)) (s : State) : Res :=
  onPkgFree p (fun free x => patrolStep free x stack errs) s

/-- STACK_TEMP_SAMPLE: TEMP, and HOT with its hysteresis (R123); a temperature that cannot be read shows as 0xFF (R368). -/
def stackTempSample (p : Package) (s : Nat) (temp : Option Nat) : Package :=
  let a := stackPage s
  match temp with
  | none => p.wrF (a + Off.STACK_STAT) 15 8 0xFF
  | some v =>
    let hot := bitOf (p.rd (a + Off.STACK_STAT)) 3
    let p := p.wrF (a + Off.STACK_STAT) 15 8 (min v 254)
    if 85 ≤ v ∧ !hot then raise (p.wrF (a + Off.STACK_STAT) 3 3 1) a 3 {}
    else if v < 82 then p.wrF (a + Off.STACK_STAT) 3 3 0
    else p

/-- STACK_TEMP_SAMPLE (R123). -/
def execStackTempSample (p stack : Nat) (temp : Option Nat) (s : State) : Res :=
  onPkg p (fun x => if stack < 8 then stackTempSample x stack temp else x) s

/-- STACK_TRAINING_LOST: TRAINED reads 0 and requests wait; an offline stack retrains like any other (R122). -/
def stackTrainingLost (p : Package) (s : Nat) : Package :=
  if bitOf (p.rd (stackPage s + Off.STACK_STAT)) 1 then p
  else (p.wrF (stackPage s + Off.STACK_STAT) 0 0 0).setStack s { p.stack s with retries := 0 }

/-- STACK_TRAINING_LOST (R122). -/
def execStackTrainingLost (p stack : Nat) (s : State) : Res := onPkgMem p (fun x => stackTrainingLost x stack) s

/-- STACK_RETRAIN_DONE: the stack serves again, or fails after three attempts (R122). -/
def stackRetrainDone (free : Nat) (p : Package) (s : Nat) (ok : Bool) : Package :=
  let a := stackPage s + Off.STACK_STAT
  if bitOf (p.rd a) 0 || bitOf (p.rd a) 1 then p
  else if ok then releaseStack free ((p.wrF a 0 0 1).setStack s { p.stack s with retries := 0 }) s
  else
    let n := (p.stack s).retries + 1
    let p := p.setStack s { p.stack s with retries := n }
    if n < 3 then p else releaseStack free (stackFails p s 1) s

/-- STACK_RETRAIN_DONE (R122). -/
def execStackRetrainDone (p stack : Nat) (ok : Bool) (s : State) : Res :=
  onPkgFree p (fun free x => stackRetrainDone free x stack ok) s

/-- The next granule a scrubber zeroes: the first set one from its position, else the lowest set one (R284). -/
def nextSet (isSet : Nat → Bool) (n pos : Nat) : Option Nat :=
  match (List.range n).find? fun g => decide (pos ≤ g) && isSet g with
  | some g => some g
  | none => (List.range n).find? isSet

/-- A unit's scrubber runs: after bring-up step 2 for a tile, step 3 for a trained stack, and in no reset (R284, R295). -/
def scrubRuns (p : Package) (unit : Nat) : Bool :=
  let step := match p.base.kin.phase with
    | .inReset _ => 0
    | _ => p.rdF (kindlePage + Off.BRINGUP_STAT) 2 0
  if unit < 16 then decide (3 ≤ step) && !hollowPage p.base (tilePage unit 0)
  else decide (4 ≤ step) && !stackDead p (unit - 16) && bitOf (p.rd (stackPage (unit - 16) + Off.STACK_STAT)) 0

/-- SCRUB_GRANULE_DONE: the scrubber has zeroed its next granule (R284, R287). -/
def scrubGranuleDone (p : Package) (unit : Nat) : Package :=
  if !scrubRuns p unit then p
  else if unit < 16 then
    let isSet := fun g => bitOf (p.rd (scrubReg unit g)) (g % 32)
    let next := tilePage unit 4 + Off.SCRUB_NEXT
    match nextSet isSet 20480 (p.rd next) with
    | none => p
    | some g =>
      let p := zeroGranule p (sramBase unit + g * 0x10000)
      let isSet := fun k => bitOf (p.rd (scrubReg unit k)) (k % 32)
      p.wr next ((nextSet isSet 20480 (g + 1)).getD 0)
  else
    let s := unit - 16
    let isSet := fun g => !p.mem.dramClean.contains (18432 * s + g)
    match nextSet isSet 18432 (p.stack s).scrubPos with
    | none => p
    | some g =>
      let p := zeroGranule p (s * stackSize + g * 0x200000)
      p.setStack s { p.stack s with scrubPos := (g + 1) % 18432 }

/-- SCRUB_GRANULE_DONE (R284). -/
def execScrubGranuleDone (p unit : Nat) (s : State) : Res := onPkgMem p (fun x => scrubGranuleDone x unit) s

/-- GRANULE_ZERO_DONE: a granule zeroed for a waiting write is zero; what waited for it goes on in order (R283). -/
def granuleZeroDone (free : Nat) (p : Package) (unit granule : Nat) : Package :=
  let mine := fun (w : Nat × Nat × Piece) => decide (w.1 = unit ∧ w.2.1 = granule)
  let ws := p.mem.zeroWait.filter mine
  if ws.isEmpty then p
  else
    let c := if unit < 16 then sramBase unit + granule * 0x10000 else (unit - 16) * stackSize + granule * 0x200000
    let p := { p with mem := { p.mem with zeroWait := p.mem.zeroWait.filter fun w => !mine w } }
    let p := if unscrubbed p c then zeroGranule p c else p
    ws.foldl (fun p w => pieceIn free p w.2.2) p

/-- GRANULE_ZERO_DONE (R283). -/
def execGranuleZeroDone (p unit granule : Nat) (s : State) : Res :=
  onPkgFree p (fun free x => granuleZeroDone free x unit granule) s

/-! ## Line repair (R311, R321) -/

/-- The line of a bank and row (R85). -/
def lineOf (bank row : Nat) : Nat := row * 80 + bank

/-- Spare lines left in a bank. -/
def spares (p : Package) (t bank : Nat) : Nat :=
  p.rdF (tilePage t 3 + Off.REPAIR_FREE + 4 * (bank / 4)) (8 * (bank % 4) + 7) (8 * (bank % 4))

/-- A write of REPAIR_ADD starts a repair, or sets REPAIR_LAST at once (R311, R321). -/
def startRepair (p : Package) (t val : Nat) : Package :=
  let bank := fld val 6 0
  let row := fld val 25 8
  let last := tilePage t 3 + Off.REPAIR_LAST
  if 79 < bank then p.wr last 4
  else if p.mem.repaired.contains (t, lineOf bank row) then p.wr last 3
  else if spares p t bank = 0 then p.wr last 2
  else { p with mem := { p.mem with repairing := mset p.mem.repairing t (bank, row) } }

/-- REPAIR_DONE: the line is replaced and reads as zero, and what waited for the SRAM is served (R311, R465). -/
def repairDone (free : Nat) (p : Package) (t : Nat) : Package :=
  match mfind t p.mem.repairing with
  | none => p
  | some (bank, row) =>
    let a := tilePage t 3
    let fr := a + Off.REPAIR_FREE + 4 * (bank / 4)
    let line := lineOf bank row
    let c := sramBase t + 64 * line
    let n := spares p t bank
    let ws := p.mem.sramWait.filter fun w => decide (w.1 = t)
    let p := { p with mem := { p.mem with
      repairing := mdel p.mem.repairing t
      repaired := p.mem.repaired ++ [(t, line)]
      cells := memZero p.mem.cells c 64
      sramBad := p.mem.sramBad.filter fun w => decide (w / 8 ≠ c / 64)
      sramFix := p.mem.sramFix.filter fun w => decide (w / 8 ≠ c / 64)
      sramWait := p.mem.sramWait.filter fun w => decide (w.1 ≠ t) } }
    let p := p.wrF fr (8 * (bank % 4) + 7) (8 * (bank % 4)) (n - 1)
    let p := p.wrF (a + Off.REPAIR_SUM) 23 12 (p.rdF (a + Off.REPAIR_SUM) 23 12 + 1)
    let p := p.wr (a + Off.REPAIR_LAST) 1
    ws.foldl (fun p w => pieceIn free p w.2) p

/-- REPAIR_DONE (R311). -/
def execRepairDone (p t : Nat) (s : State) : Res := onPkgFree p (fun free x => repairDone free x t) s

end Sys2Proof.Machine
end

