-- ==== Sys2Proof/Machine/PortRows.lean ====
section
/-! DEFINITION. The rows of fabric ports at a package or a Weir: frames, loss, hold, relock, training, identity and optics
(R185–R199, R204). -/

namespace Sys2Proof.Machine

/-! ## What an element does after its port -/

/-- One packet that a Weir's port gives up: a sprayed one held for an up-port takes the direction's other port if that is
open and enabled; any other is discarded as having no route (R198, R255). -/
def weirHeld (q : Nat) (w : Weir) (k : Pkt) : Weir :=
  let w := w.mapBase fun b => inflightSub b k.epoch
  let other := 64 + ((q - 64) ^^^ 1)
  let r := w.rd (rackRoute k.epoch k.destRack)
  if 64 ≤ q ∧ !k.ordered ∧ k.op ≠ .coll ∧ bitOf r 0 ∧ bitOf r (8 + (other - 64)) ∧ portOpen w.base other then weirSend w other k
  else if k.op = .coll then w.bump (weirCounter q 0xC)
  else weirNoRoute w q k

/-- The packets a Weir's port holds are handled (R198). -/
def weirGiveUp (w : Weir) (q : Nat) : Weir :=
  let (b, held) := takeHeld w.base q
  held.foldl (weirHeld q) { w with base := b }

/-- A hold expires at a Weir (R198, R203). -/
def weirHoldExpires (w : Weir) (q : Nat) : Weir :=
  let held := heldCount (w.base.port q)
  let w := weirGiveUp (w.mapBase fun b => endHold b q) q
  let w := w.bump (portReg w.base q Off.HOLD_EXPIRED_CNT)
  w.mapBase fun b => recordPort b q [(2, { c2 := min held 0xFFFF * 2 ^ 16 })]

/-- What a port event leaves to its Weir; a port that drained is disabled with its hold (R199). -/
def afterWeirPort (w : Weir) (q : Nat) (r : Base × PortEvs × PortNext) : Weir :=
  let w := { w with base := recordPort r.1 q r.2.1 }
  match r.2.2 with
  | .done => w
  | .expire train retry =>
    let draining := (w.base.port q).draining
    let w := weirHoldExpires w q
    if draining then w
    else if train then w.mapBase fun b => startTraining b q
    else if (r.2.1.any fun e => e.1 = 5) then w.mapBase fun b => setPortState b q 10
    else
      let (b, evs) := partnerCheck w.base q retry
      { w with base := recordPort b q evs }

/-- A row of a port that exists: what it does at the base, and what follows at the package or Weir. -/
def onPort (e : Elem) (q : Nat) (f : Base → Base × PortEvs × PortNext) (s : State) : Res :=
  onElem e (fun p => if q < 18 then afterPort p q (f p.base) else p) (fun w => if q < 72 then afterWeirPort w q (f w.base) else w) s

/-- The same for a row that asks for nothing more. -/
def onPortDone (e : Elem) (q : Nat) (f : Base → Base × PortEvs) (s : State) : Res :=
  onPort e q (fun b => ((f b).1, (f b).2, .done)) s

/-! ## Frames -/

/-- A down notice at an ACTIVE port: cause 5, no hold; held packets are handled at once, and training starts (R186, R199). -/
def noticeAtPackage (p : Package) (q : Nat) : Package :=
  if !portUp p.base q then p
  else
    let x := p.base.port q
    let (b, evs) := recordDown p.base q 5 (heldCount x)
    let (p, _, _) := giveUpHeld (raisePort { p with base := setPortState b q 0 } q evs) q
    p.mapBase fun b => if x.draining then b.setPort q { b.port q with draining := false } else startTraining b q

/-- The same at a Weir. -/
def noticeAtWeir (w : Weir) (q : Nat) : Weir :=
  if !portUp w.base q then w
  else
    let x := w.base.port q
    let (b, evs) := recordDown w.base q 5 (heldCount x)
    let w := weirGiveUp { w with base := recordPort (setPortState b q 0) q evs } q
    w.mapBase fun b => if x.draining then b.setPort q { b.port q with draining := false } else startTraining b q

/-- FRAME_RECEIVE (R185): a down notice taken in order is one of R199. -/
def execFrameReceive (e : Elem) (port : Nat) (frame : Frame) (s : State) : Res :=
  onElem e
    (fun p =>
      if port < 18 then
        let r := frameIn p.base port frame
        let p := afterPort p port (r.1, r.2.1, .done)
        if r.2.2 then noticeAtPackage p port else p
      else p)
    (fun w =>
      if port < 72 then
        let r := frameIn w.base port frame
        let w := afterWeirPort w port (r.1, r.2.1, .done)
        if r.2.2 then noticeAtWeir w port else w
      else w) s

/-- FRAME_REPLAY_REQUEST (R185). -/
def execFrameReplayRequest (e : Elem) (port ack : Nat) (s : State) : Res := onPortDone e port (fun b => replayAsked b port ack) s

/-- DOWN_NOTICE (R199). -/
def execDownNotice (e : Elem) (port : Nat) (s : State) : Res :=
  onElem e (fun p => if port < 18 then noticeAtPackage p port else p) (fun w => if port < 72 then noticeAtWeir w port else w) s

/-! ## Loss, hold and relock -/

/-- PORT_SIGNAL_LOSS (R186, R194). `optics`: an up-port's module was removed or flags loss of signal. -/
def execPortSignalLoss (e : Elem) (port : Nat) (optics : Bool) (s : State) : Res :=
  onPortDone e port (fun b => if optics && !(b.isWeir && decide (64 ≤ port)) then (b, []) else portDown b port 1) s

/-- PORT_LOCK_LOSS (R186). -/
def execPortLockLoss (e : Elem) (port : Nat) (s : State) : Res := onPortDone e port (fun b => portDown b port 2) s

/-- A port regains lock while it relocks: in time with the same partner it returns; else its return is an expiry. After the
hold it enters ACTIVE with an empty replay buffer (R196). -/
def relockNow (b : Base) (q : Nat) (same : Bool) : Base × PortEvs × PortNext :=
  let x := b.port q
  if !x.relocking then (b, [], .done)
  else if x.holdStart.isSome then
    if same then
      let (b, evs) := returnActive b q
      (b, evs, .done)
    else (b.setPort q { x with relocking := false }, [], .expire true false)
  else if same then (enterActive b q, [(0, {})], .done)
  else (startTraining (b.setPort q { x with relocking := false }) q, [], .done)

/-- PORT_RELOCK (R196). -/
def execPortRelock (e : Elem) (port : Nat) (samePartner : Bool) (s : State) : Res :=
  onPort e port (fun b => relockNow b port samePartner) s

/-- RELOCK_TIMEOUT: relock has failed, and attempt 1 starts (R196). -/
def execRelockTimeout (e : Elem) (port : Nat) (s : State) : Res :=
  onPortDone e port (fun b =>
    if (b.port port).relocking then (startTraining (b.setPort port { b.port port with relocking := false }) port, []) else (b, [])) s

/-- LINK_HOLD_EXPIRE (R197). -/
def execLinkHoldExpire (p port : Nat) (s : State) : Res :=
  onPkg p (fun x => if port < 18 ∧ (x.base.port port).holdStart.isSome then linkHoldExpires x port else x) s

/-- WEIR_HOLD_EXPIRE (R198). -/
def execWeirHoldExpire (w port : Nat) (s : State) : Res :=
  onWeir w (fun x => if port < 72 ∧ (x.base.port port).holdStart.isSome then weirHoldExpires x port else x) s

/-- PORT_DISABLE_DRAINED (R199). -/
def execPortDisableDrained (e : Elem) (port : Nat) (s : State) : Res := onPortDone e port (fun b => drainedNow b port) s

/-! ## Training -/

/-- TRAIN_PHASE_PASS (R187). -/
def execTrainPhasePass (e : Elem) (port : Nat) (s : State) : Res := onPort e port (fun b => phasePass b port) s

/-- TRAIN_PHASE_TIMEOUT (R188). -/
def execTrainPhaseTimeout (e : Elem) (port : Nat) (s : State) : Res := onPortDone e port (fun b => phaseTimeout b port) s

/-- PARTNER_RESTART: the partner has returned to Detect, and this end's attempt fails (R188). -/
def execPartnerRestart (e : Elem) (port : Nat) (s : State) : Res :=
  onPortDone e port (fun b => if 2 ≤ (b.port port).phase then failAttempt b port (b.port port).phase else (b, [])) s

/-- IDENTITY_BLOCK (R190): its CRC-32 covers bytes 0–15. -/
def execIdentityBlock (e : Elem) (port : Nat) (block : IdBlock) (s : State) : Res :=
  onPortDone e port (fun b => (identitySeen b port block (decide (fieldAt block 16 4 = crc32 (block.take 16))), [])) s

/-- TRAIN_PARK_RETRY (R188, R189). -/
def execTrainParkRetry (e : Elem) (port : Nat) (s : State) : Res := onPortDone e port (fun b => (retryParked b port, [])) s

/-- WIRING_FAULT_IDENTITY: a port in WIRING_FAULT sends one identity frame (R191). -/
def execWiringFaultIdentity (e : Elem) (port : Nat) (s : State) : Res :=
  onPortDone e port (fun b => (if portState b port = 10 then sendIdentity b port else b, [])) s

/-! ## Optics (R194, R204) -/

/-- OPTICS_POLL: the module's registers are read; alarms other than loss of signal are logged, as records of code 12; removal or loss
of signal is cause 1 (R194; log 30). -/
def opticsPoll (w : Weir) (q temp state alarms : Nat) (present ready los : Bool) : Weir :=
  if q < 64 ∨ 71 < q then w
  else
    let w := w.wr (opticsReg q) (b2n present + 2 * b2n ready + state % 16 * 2 ^ 4 + temp % 256 * 2 ^ 8)
    let w := if alarms = 0 then w else weirEvent w q 12 0 alarms 0
    if !present ∨ los then
      let (b, evs) := portDown w.base q 1
      { w with base := recordPort b q evs }
    else w

/-- OPTICS_POLL: bits [3:0] of `state` are the module's state, and the bits above them its alarm flags (R194; log 30). -/
def execOpticsPoll (w port temp state : Nat) (present ready los : Bool) (s : State) : Res :=
  onWeir w (fun x => opticsPoll x port temp (state % 16) (state / 16) present ready los) s

/-- OPTICS_READY_TIMEOUT: a module that is not ready is a failed Detect (R194). -/
def execOpticsReadyTimeout (w port : Nat) (s : State) : Res :=
  onPortDone (.weir w) port (fun b =>
    if (b.port port).phase = 1 ∧ !moduleReady b port then failAttempt b port 1 else (b, [])) s

/-! ## A port page's ENABLE and EXPECT -/

/-- ENABLE of a package's port page has changed (R199). -/
def portEnableChanged (p : Package) (q : Nat) (on : Bool) : Package :=
  p.mapBase fun b => if on then portEnabledNow b q else portDisabledNow b q

/-- A register of EXPECT has been written: a port in UP_UNATTESTED that now matches becomes ACTIVE (R192). -/
def expectNow (b : Base) (q : Nat) : Base × PortEvs :=
  if portState b q = 6 && expectValid b q && expectMatches b q then (enterActive b q, [(0, {})]) else (b, [])

end Sys2Proof.Machine
end

