-- ==== Sys2Proof/Machine/Strikes.lean ====
section
/-! DEFINITION. Strikes: what a reach covers, fence and quiesce, drain, absorb, scrub-mark, release, records, overlapping
strikes and span strikes (R55, R56, R148, R262, R263, R270–R281, R295, R340). -/

namespace Sys2Proof.Machine

/-! ## What a strike covers (R270, R273) -/

/-- `step` of a strike that a wider one has taken over, and of a request that joined a running strike (R279). -/
abbrev Strike.takenOver : Nat := 5
abbrev Strike.joining : Nat := 6

/-- A strike runs its own steps. -/
def strikeLive (s : Strike) : Bool := !s.released && (s.step = 3 || s.step = 4)

/-- The pitches a strike strikes as a whole: its own, or for a package strike every pitch hosted. -/
def strikesPitch (p : Package) (s : Strike) (q : Nat) : Bool :=
  if s.reach = 5 then (mfind q p.hub.hosted).isSome
  else decide ((s.reach = 3 ∨ s.reach = 4) ∧ s.pitch = q ∧ q ≠ 0)
def struckPitches (p : Package) (s : Strike) : List Nat :=
  if s.reach = 5 then p.hub.hosted.map fun e => e.1 else if s.reach = 3 ∨ s.reach = 4 then [s.pitch] else []

/-- The tiles in reach, all of whose pages and cores a strike covers; a core strike covers none. -/
def struckTiles (p : Package) (s : Strike) : List Nat :=
  if s.reach = 5 then List.range p.tiles
  else if s.reach = 2 then [s.tile]
  else if s.reach = 3 ∨ s.reach = 4 then (List.range p.tiles).filter fun t => ownerOf p.base (tilePage t 0) = s.pitch
  else []

/-- The virtual functions in reach. -/
def struckVfs (p : Package) (s : Strike) : List Nat :=
  if s.reach = 5 then (List.range 16).map (· + 1)
  else if s.reach = 3 ∨ s.reach = 4 then (List.range 16).filterMap fun v => if p.vfOf s.pitch = v + 1 then some (v + 1) else none
  else []

/-- The implemented pages of a class. -/
def classPages (p : Package) (cls : Nat) : List Nat :=
  ((List.range 0x40).filter fun i => (pageKind p.hubL1 cls i).isSome).map fun i => pg cls i

/-- The pages in reach: of tiles, their peg pages and virtual functions; for a package strike also those of the other dies and
of routing, while the hub's own classes stand outside it (log 40). A core strike has no page of its own (log 41). -/
def struckPages (p : Package) (s : Strike) : List Nat :=
  ((struckTiles p s).flatMap fun t => (List.range 16).map (tilePage t) ++ [pegPage t]) ++ (struckVfs p s).map vfPage
    ++ (if s.reach = 5 then [0x20, 0x21, 0x22, 0x23, 0x38].flatMap (classPages p) else [])

/-- A hopper's descriptors are in reach. -/
def refStruck (p : Package) (s : Strike) (r : HopRef) : Bool :=
  decide (2 ≤ s.reach) && ((struckTiles p s).contains (tileOfHop p r) || strikesPitch p s (pitchOfHop p r) || decide (s.reach = 5))

/-- One strike's reach contains another's, or is the same (R279): a core lies in its tile, a tile in the pitch that owns it, a
pitch in the same pitch across the span and in the package; a span strike lies in nothing wider. -/
def strikeContains (wide narrow : Strike) : Bool :=
  match wide.reach with
  | 5 => decide (narrow.reach ≠ 4)
  | 4 => decide (wide.pitch ≠ 0 ∧ wide.pitch = narrow.pitch ∧ narrow.reach ≤ 4)
  | 3 => decide (wide.pitch ≠ 0 ∧ wide.pitch = narrow.pitch ∧ narrow.reach ≤ 3)
  | 2 => decide (narrow.reach ≤ 2 ∧ wide.tile = narrow.tile)
  | _ => decide (narrow.reach = wide.reach ∧ wide.tile = narrow.tile)

/-- A package strike covers the units of a span strike's share, though neither lies in the other by R279: the share of a span
strike under a running package strike waits for that strike's release (log 151). -/
def shareUnder (wide narrow : Strike) : Bool := decide (wide.reach = 5 ∧ narrow.reach = 4)

/-- The nesting by which a second GO of one page is judged: strictly wider (R56, R279). -/
def strictlyWider (new old : Strike) : Bool :=
  strikeContains new old &&
    (match new.reach with
     | 5 => decide (old.reach ≤ 3)
     | 4 => decide (old.reach ≤ 3)
     | 3 => decide (old.reach ≤ 2)
     | 2 => decide (old.reach ≤ 1)
     | _ => false)

/-! ## Records and replies (R265, R275, R337) -/

/-- The 16-byte payload of a strike record: `mid` is the duration, or the late peer (R275, R277). -/
def strikePayload (s : Strike) (kind result : Nat) (mid : Bytes) : Bytes :=
  le 1 kind ++ le 1 s.code ++ le 2 (if s.reach = 5 then 0 else s.pitch) ++ le 1 result ++ le 1 s.requester
    ++ le 2 (s.page / 0x1000) ++ mid ++ le 2 (min 0xFFFF s.nAbandoned) ++ le 2 (min 0xFFFF s.absorbed)

/-- A strike record joins the hub event ring (R441; an overwrite raises RING_OVERWRITE, R442). -/
def strikeRing (p : Package) (payload : Bytes) : Package :=
  let (p, overw) := ringAppend p 2 0 0 payload
  let r := hubPage 3
  if overw && !bitOf (p.rd (r + Off.EVT_STAT)) 2 then raise p r 2 {} else p

/-- The 32 bytes of a pitch reply (R264). -/
def pitchReplyBytes (cmd : Bytes) (status : Nat) (data : Bytes) : Bytes :=
  (cmd.take 1 ++ le 1 status ++ (cmd.drop 2).take 6 ++ data ++ zeros 24).take 32

/-- The hub replies to a pitch command: through the mailbox, or to the tray controller (R265, R337, R411). -/
def pitchReply (p : Package) (via : Via) (cmd : Bytes) (status : Nat) (data : Bytes) : Package :=
  let b := pitchReplyBytes cmd status data
  match via with
  | .msp => p.mapBase fun x => sendTc x 0x07 b
  | .mailbox =>
    let p := (List.range 8).foldl (fun p i => p.wr (pfPage + Off.MBOX_REPLY + 4 * i) (fieldAt b (4 * i) 4)) p
    let a := pfPage + Off.MBOX_CTL
    let p := (p.wrF a 1 1 0).wrF a 2 2 1
    let p : Package := { p with host := { p.host with mboxCmd := none } }
    hostMsix (raise p pfPage 0 {}) 0 (p.rdF a 26 16)

/-- A strike requested by a write of STRIKE_CTRL, by whichever pitch-0 issuer (R49, R55). -/
def byPage (s : Strike) : Bool := s.go

/-- A strike requested by a write on a page: of STRIKE_CTRL, or of the mailbox on the physical function's page (R275, R337). -/
def onPage (s : Strike) : Bool :=
  s.go || (match s.replyTo with
    | some (.mailbox, _) => true
    | _ => false)

/-- The strike is one that a Function Level Reset asked for: of the hub, for the host interface's class (R275, R339). -/
def byFlr (s : Strike) : Bool := !s.go && decide (s.requester = 2 ∧ s.page = pfPage)

/-- The requester of a strike learns of its completion: its page's STRIKE_CTRL, its reply, its answer, or the end of its
function's reset (R55, R265, R276, R339, R345). -/
def tellRequester (p : Package) (s : Strike) (result : Nat) (abandoned : Bool) : Package :=
  let a := s.page + Off.STRIKE_CTRL
  let p := if byPage s then ((p.wrF a 0 0 0).wrF a 4 4 (b2n abandoned)).wrF a 7 5 result else p
  let p := match s.replyTo with
    | some (via, cmd) => pitchReply p via cmd 0 (le 1 result ++ le 1 (b2n abandoned))
    | none => p
  let p := if byFlr s then raise p pfPage 2 {} else p
  match s.answerTo with
  | some (r, t) => mgmtIssue p (r * 64 + t) (mgmtOp s.pitch false 3 0 (le 4 s.pitch))
  | none => p

/-- A strike completes: its record, which also goes to the physical function where its page's EVT_ROUTE says so (R275). -/
def completeStrike (p : Package) (s : Strike) (result : Nat) (abandoned : Bool) : Package :=
  let p :=
    if s.step = Strike.joining then p
    else
      let p := strikeRing p (strikePayload s 2 result (le 4 (min 0xFFFFFFFF (p.base.gtime - s.t0))))
      let route := p.rd (s.page + Off.EVT_ROUTE)
      if onPage s && bitOf route 0 then hostMsix p 0 (fld route 26 16) else p
  tellRequester p s result abandoned

/-! ## Fence and quiesce (R273 steps 1 and 2, R340) -/

/-- A strike replaced in the hub's list. -/
def setStrike (p : Package) (s : Strike) : Package :=
  { p with hub := { p.hub with strikes := p.hub.strikes.map fun x => if x.sid = s.sid then s else x } }
def strikeOf (p : Package) (sid : Nat) : Option Strike := p.hub.strikes.find? fun x => decide (x.sid = sid)

/-- The committed groups and connections of struck pitches (R273). -/
def groupsOf (p : Package) (s : Strike) : List Nat :=
  p.fab.grps.filterMap fun e => if e.2.commit && strikesPitch p s e.2.pitch then some e.1 else none
def connsOf (p : Package) (s : Strike) : List Nat :=
  p.fab.conns.filterMap fun e => if e.2.commit && strikesPitch p s e.2.pitch then some e.1 else none

/-- Step 1: STRIKING and FENCED on every page in reach, ABSORB on the pitch's fence entries. -/
def fenceStep (p : Package) (s : Strike) : Package :=
  let p := (struckPages p s).foldl (fun p a => p.wrF (a + Off.PAGE_STAT) 3 2 3) p
  let absorb := fun (f : Fence) => if strikesPitch p s f.pitch then { f with absorb := true } else f
  { p with hub := { p.hub with fences := p.hub.fences.map absorb } }

/-- A core's armed wait leaves its peg (R141, R148). -/
def disarmCore (p : Package) (t c : Nat) : Package :=
  let x := p.core t c
  match x.armed with
  | none => p
  | some (k, _, _) =>
    let n := 512 * t + k
    let keep := fun (w : Waiter) => match w with
      | .core c' _ => decide (c' ≠ 2 * t + c)
      | .hopper .. => true
    let y := p.peg n
    (p.setPeg n { y with waiters := y.waiters.filter keep }).setCore t c { x with armed := none }

/-- A struck core is held in reset, and its armed wait is gone. -/
def strikeCore (p : Package) (t c : Nat) : Package := holdCore (disarmCore p t c) t c

/-- The operations of struck descriptors send nothing more; those with nothing outstanding are gone. -/
def stopOps (p : Package) (hit : HopRef → Bool) : Package :=
  let stop := fun (o : ConnOp) => if (o.ref.map hit).getD false then { o with sent := o.len } else o
  p.fab.conns.foldl (fun p e => settleOps (p.setConn e.1 { p.conn e.1 with queue := (p.conn e.1).queue.map stop }) e.1) p

/-- The collectives of struck descriptors are taken off their groups. -/
def stopColls (p : Package) (hit : HopRef → Bool) : Package :=
  let keepRun := fun (x : Grp) => match x.run with
    | some u => if hit u.ref then none else some u
    | none => none
  { p with fab := { p.fab with
    grps := p.fab.grps.map fun e => (e.1, { e.2 with run := keepRun e.2, queue := e.2.queue.filter fun d => !hit d.1 }) } }

/-- A hopper's descriptors end STRUCK: a tile hopper's without a record, and a struck virtual function's as one range at
release; those of a host hopper whose tile alone is struck are reported one by one and halt it (R273, R340). -/
def strikeHop (s : Strike) (p : Package) (r : HopRef) : Package :=
  let p := leavePegs p r
  match r with
  | .tile _ _ => p.setHop r []
  | .host v _ =>
    if (struckVfs p s).contains v then p.setHop r []
    else (p.hop r).foldl (fun p e => if e.stage = .retired then p else completeCore p r e.idx St.struck 0 false) p

/-- Step 2: engines stop, descriptors in reach end STRUCK, cores are held. -/
def quiesceStep (p : Package) (s : Strike) : Package :=
  if s.reach ≤ 1 then strikeCore p s.tile s.reach
  else
    let hit := refStruck p s
    let p := stopColls (stopOps p hit) hit
    let p := (allHops.filter hit).foldl (strikeHop s) p
    (struckTiles p s).foldl (fun p t => strikeCore (strikeCore p t 0) t 1) p

/-! ## Requesting a strike (R56, R270, R276, R279) -/

/-- The packages that a pitch's fence entries name, but for this one (R276). -/
def spanPeers (p : Package) (pitch : Nat) : List (Nat × Nat) :=
  dedupPairs ((p.hub.fences.filter fun f => decide (f.pitch = pitch)).flatMap fun f =>
    (bitList f.slots 64).filterMap fun t => if f.rack = p.base.rack ∧ t = p.base.pos then none else some (f.rack, t))
where
  /-- A list of pairs without repeats. -/
  dedupPairs (l : List (Nat × Nat)) : List (Nat × Nat) := l.foldl (fun a x => if a.contains x then a else a ++ [x]) []

/-- Strike messages to the peers of a span strike that have not answered (R276). -/
def sendStrikeMessages (p : Package) (s : Strike) : Package :=
  s.peers.foldl (fun p e => mgmtIssue p (e.1 * 64 + e.2) (mgmtOp s.pitch false 2 0 (le 4 s.pitch))) p

/-- A new strike of a reach, not yet begun. -/
def newStrike (p : Package) (page code reach pitch tile requester : Nat) : Strike :=
  { sid := p.hub.nextSid, page := page, code := code, reach := reach, pitch := pitch, tile := tile, requester := requester,
    step := 3, t0 := p.base.gtime, abandoned := false, nAbandoned := 0, absorbed := 0, groups := [], conns := [], peers := [],
    released := false, late := false, joined := [], replyTo := none, answerTo := none }

/-- A strike waits for the release of a running one: it joins it, or its share lies under it (R279). -/
def joinStrike (p : Package) (r s : Strike) (step : Nat) : Package :=
  let p := setStrike p { r with joined := r.joined ++ [s.sid] }
  { p with hub := { p.hub with strikes := p.hub.strikes ++ [{ s with step := step, groups := groupsOf p s }] } }

/-- An accepted strike: it joins a running strike that contains it, or takes over those it contains and runs its fence and
quiesce steps; a span strike sends its messages, but for one that joins a strike of the same span (R273, R276, R279). -/
def beginStrike (p : Package) (s : Strike) : Package :=
  let s := { s with sid := p.hub.nextSid, t0 := p.base.gtime, peers := if s.reach = 4 then spanPeers p s.pitch else [] }
  let p : Package := { p with hub := { p.hub with nextSid := p.hub.nextSid + 1 } }
  match p.hub.strikes.find? fun r => strikeLive r && strikeContains r s with
  | some r => joinStrike p r { s with peers := if s.reach = 4 then r.peers else [] } Strike.joining
  | none =>
    let p := sendStrikeMessages p s
    match p.hub.strikes.find? fun r => strikeLive r && shareUnder r s with
    | some r => strikeRing (joinStrike p r s Strike.takenOver) (strikePayload s 1 0 (zeros 4))
    | none =>
    let taken := p.hub.strikes.filter fun r => strikeLive r && (strikeContains s r || shareUnder s r)
    let s := { s with joined := taken.flatMap fun r => r.sid :: r.joined, groups := groupsOf p s, conns := connsOf p s }
    let old := p.hub.strikes.map fun r => if taken.contains r then { r with step := Strike.takenOver, joined := [] } else r
    let p : Package := { p with hub := { p.hub with strikes := old ++ [s] } }
    quiesceStep (strikeRing (fenceStep p s) (strikePayload s 1 0 (zeros 4))) s

/-- What REACH `code` written on a page strikes; none where R56 refuses it (R270). -/
def strikeTarget (p : Package) (page code requester : Nat) : Option Strike :=
  (target p page code requester).map fun s => { s with go := true }
where
 /-- The strike by page and REACH. -/
 target (p : Package) (page code requester : Nat) : Option Strike :=
  let cls := clsOf page
  let owner := ownerOf p.base page
  let onTile := decide (0x10 ≤ cls ∧ cls ≤ 0x1F)
  let tile := if onTile then cls - 0x10 else instOf page
  let pitch := fun (reach : Nat) => if owner = 0 then none else some (newStrike p page code reach owner 0 requester)
  match code with
  | 0 => if onTile then some (newStrike p page 0 0 owner tile requester) else none
  | 1 => if onTile then some (newStrike p page 1 1 owner tile requester) else none
  | 2 => if onTile || cls = 0x30 then some (newStrike p page 2 2 (ownerOf p.base (tilePage tile 0)) tile requester) else pitch 3
  | 3 => pitch 3
  | 4 => pitch 4
  | 5 => some (newStrike p page 5 5 0 0 requester)
  | _ => none

/-- The issuer of a control access acts for pitch 0 (R49). -/
def fromPitch0 : Src → Bool
  | .pf => true
  | .hub => true
  | .cs => true
  | .endpointB => false
  | .vf _ => false
  | .fabric pitch _ _ => pitch = 0

/-- REQUESTER of a strike: the physical function, the rack controller by fabric or MSP, or the hub (R275). -/
def requesterOf : Src → Nat
  | .pf => 0
  | .hub => 2
  | _ => 1

/-- A strike requested from a page still runs (R56). -/
def pageStrikes (p : Package) (page : Nat) : List Strike :=
  p.hub.strikes.filter fun s => byPage s && decide (s.page = page) && !s.released

/-- A write of STRIKE_CTRL: none where it is refused with reason 4 (R49, R55, R56). -/
def strikeCtrlWrite (p : Package) (src : Src) (page val : Nat) : Option Package :=
  let a := page + Off.STRIKE_CTRL
  let code := fld val 3 1
  if !fromPitch0 src then none
  else if !bitOf val 0 then some (p.wrF a 3 1 code)
  else
    match strikeTarget p page code (requesterOf src) with
    | none => none
    | some s =>
      if (pageStrikes p page).all (strictlyWider s) then some (beginStrike ((p.wrF a 3 1 code).wrF a 0 0 1) s) else none

/-- The hub requests a strike itself: PAGE names the class of the block whose condition led to it (R271, R275). -/
def hubStrike (p : Package) (cls reach pitch : Nat) : Package := beginStrike p (newStrike p (pg cls 0) reach reach pitch 0 2)

/-! ## Drain (R273 step 3) -/

/-- A request packet of a connection is one that a strike waits for. -/
def packetStruck (p : Package) (s : Strike) (x : Conn) (k : Pkt) : Bool :=
  strikesPitch p s x.pitch || decide (s.reach = 5) ||
    (s.reach = 2 && x.queue.any fun o => holdsPsn k.psn o && (o.ref.map (refStruck p s)).getD false)

/-- A request packet was issued for a descriptor of a tile that is hollow: its unit counts as having finished each step of a
strike (R286). -/
def packetHollow (p : Package) (x : Conn) (k : Pkt) : Bool :=
  x.queue.any fun o => holdsPsn k.psn o && (o.ref.map fun r => hollowPage p.base (tilePage (tileOfHop p r) 0)).getD false

/-- The requests of a connection that are not acknowledged or not answered. -/
def openRequests (x : Conn) : List Pkt :=
  x.unacked ++ (x.reading.filter fun r => !x.unacked.any fun k => decide (k.psn = r.1.psn)).map fun r => r.1

/-- How many requests of units in reach are outstanding, those of hollow units aside (R273, R286). -/
def strikeOutstanding (p : Package) (s : Strike) : Nat :=
  p.fab.conns.foldl (fun n e => n + ((openRequests e.2).filter fun k => packetStruck p s e.2 k && !packetHollow p e.2 k).length) 0

/-- STRIKE_DRAIN_DONE: nothing remains outstanding, and the absorb step begins (R273). -/
def strikeDrainDone (p : Package) (sid : Nat) : Package :=
  match strikeOf p sid with
  | some s => if strikeLive s && s.step = 3 && strikeOutstanding p s = 0 then setStrike p { s with step := 4 } else p
  | none => p

/-- STRIKE_DRAIN_DONE (R273). -/
def execStrikeDrainDone (p sid : Nat) (s : State) : Res := onPkg p (fun x => strikeDrainDone x sid) s

/-- The charge, tags and operations of what a strike abandons are dropped. -/
def abandonConn (p : Package) (s : Strike) (x : Conn) : Conn :=
  { x with
    unacked := x.unacked.filter fun k => !packetStruck p s x k
    reading := x.reading.filter fun r => !packetStruck p s x r.1
    queue := x.queue.filter fun o => !((o.ref.map (refStruck p s)).getD false) }

/-- STRIKE_DRAIN_ABANDON: the drain bound has passed, and DRAIN_ABANDONED shows on the page that asked (R272, R273). -/
def strikeDrainAbandon (p : Package) (sid : Nat) : Package :=
  match strikeOf p sid with
  | some s =>
    let n := strikeOutstanding p s
    if strikeLive s && s.step = 3 && n ≠ 0 then
      let conns := p.fab.conns.map fun e => (e.1, abandonConn p s e.2)
      let p := if byPage s then p.wrF (s.page + Off.STRIKE_CTRL) 4 4 1 else p
      setStrike { p with fab := { p.fab with conns := conns } } { s with step := 4, abandoned := true, nAbandoned := s.nAbandoned + n }
    else p
  | none => p

/-- STRIKE_DRAIN_ABANDON (R272). -/
def execStrikeDrainAbandon (p sid : Nat) (s : State) : Res := onPkg p (fun x => strikeDrainAbandon x sid) s

/-! ## Absorb (R273 step 4) -/

/-- A packet accepted before the fence and not yet applied is one that a strike discards. -/
def acceptedStruck (p : Package) (s : Strike) (k : Pkt) : Bool :=
  let n := if k.op = .rread then k.arg else k.payload.length
  decide (k.op ≠ .response) && !k.mgmt &&
    (strikesPitch p s k.pitch ||
      (decide (s.reach = 2 ∧ k.op ≠ .coll ∧ k.pitch = s.pitch) && (requestTiles p k n).contains s.tile))

/-- A memory request that waits at a die is one that a strike discards (R117, R273). -/
def requestStruck (p : Package) (s : Strike) (who : Requester) (off : Nat) : Bool :=
  match who with
  | .core c => (struckTiles p s).contains (c / 2) || decide (s.reach ≤ 1 ∧ c = 2 * s.tile + s.reach)
  | .tileEngine d => (struckTiles p s).any fun t => p.dieOfTile t = d
  | .linkDie _ =>
    let c := canon p off
    decide (s.reach = 5) || (struckPitches p s).any (fun q => ownsByte p q c)
      || (decide (s.reach = 2 ∧ sramBase 0 ≤ c) && tileOf c = s.tile)

/-- What waits for the struck pitch is discarded: requests accepted at a link die and not yet applied are absorbed there and answered
(R134, R273 step 4), COLL packets and requests at the dies go without an answer. -/
def discardStruck (p : Package) (s : Strike) : Package :=
  let gone := p.fab.delivered.filter fun e => acceptedStruck p s e.2
  let p := gone.foldl (fun p e =>
    let p := takeDelivered p e.1 e.2
    if e.2.op = .coll then p else requestIn (fun p _ => (p, 0x14, [])) p e.1 e.2) p
  let drops := fun (x : Piece) => requestStruck p s x.who x.off
  { p with mem := { p.mem with
    sramWait := p.mem.sramWait.filter fun w => !drops w.2
    zeroWait := p.mem.zeroWait.filter fun w => !drops w.2.2
    xfers := p.mem.xfers.filter fun e => !requestStruck p s e.2.who e.2.off
    stackSt := p.mem.stackSt.map fun e => (e.1, { e.2 with waiting := e.2.waiting.filter fun w => !drops w }) } }

/-! ## Scrub-mark and release (R273 steps 5 and 6, R281, R340) -/

/-- The data scratch of a core is zero. -/
def zeroScratch (p : Package) (t c : Nat) : Package := p.setCore t c { p.core t c with scratch := [] }

/-- Step 5: the scrub bits of the tiles in reach and of the pitch's DRAM ranges, and the scratch of the cores in reach. -/
def scrubMark (p : Package) (s : Strike) : Package :=
  if s.reach ≤ 1 then zeroScratch p s.tile s.reach
  else
    let p := (struckTiles p s).foldl (fun p t => zeroScratch (zeroScratch (unscrubTile p t) t 0) t 1) p
    let covered := fun (g : Nat) => p.hub.ranges.any fun r =>
      strikesPitch p s r.pitch && decide (r.start / 0x200000 ≤ g ∧ g < (r.start + r.len) / 0x200000)
    unscrubDram p covered

/-- The descriptor of a hopper that waits on a restored peg leaves it and completes STRUCK (R148). -/
def strikeWaiter (p : Package) (w : Waiter) : Package :=
  match w with
  | .hopper r _ =>
    match headEntry p r with
    | some e => if e.stage = .waiting then completeEntry (leavePegs p r) r e.idx St.struck 0 false else p
    | none => p
  | .core c _ => p.setCore (c / 2) (c % 2) { p.core (c / 2) (c % 2) with armed := none }

/-- A PEG descriptor whose operation has reached a restored peg and is not applied ends STRUCK (R134). -/
def strikePegDescs (n : Nat) (p : Package) (r : HopRef) : Package :=
  (p.hop r).foldl (fun p e =>
    if e.stage = .issued ∧ dOp e.bytes = 0x60 ∧ byteAt e.bytes 16 < 3 ∧ fieldAt e.bytes 18 2 % 8192 = n then
      finishEntry p r e.idx St.struck false
    else p) p

/-- A peg returns to its reset state, and its entry to pitch 0 and COMMIT 0 (R134, R148). -/
def restorePeg (p : Package) (n : Nat) : Package :=
  let p := allHops.foldl (strikePegDescs n) ((p.peg n).waiters.foldl strikeWaiter p)
  (pegRestore p n).wr (pegAllocReg n) 0

/-- The pegs whose entry names a struck pitch, on whatever tile. -/
def namedPegs (p : Package) (s : Strike) : List Nat :=
  p.base.regs.filterMap fun e =>
    if clsOf e.1 = 0x30 ∧ 0x400 ≤ offOf e.1 ∧ fld e.2.toNat 11 0 ≠ 0 ∧ strikesPitch p s (fld e.2.toNat 11 0) then
      some (512 * instOf e.1 + (offOf e.1 - 0x400) / 4)
    else none

/-- A tile's pegs, hopper queues and core state are as after reset, and a descriptor of another unit that still waits on one of
its pegs completes STRUCK (R148); its registers are restored with its pages. -/
def restoreTile (p : Package) (t : Nat) : Package :=
  let p := (tileHops t).foldl (fun p r => p.setHop r []) p
  let p := (p.tl.pegs.filter fun e => decide (e.1 / 512 = t)).foldl (fun p e => restorePeg p e.1) p
  let p := (p.setCore t 0 {}).setCore t 1 {}
  { p with tl := { p.tl with pegs := p.tl.pegs.filter fun e => decide (e.1 / 512 ≠ t) } }

/-- The K fields on some pages, or of one core's registers, return to their reset values (R13). -/
def restoreK (p : Package) (pages : List Nat) (core : Nat → Bool) : Package :=
  p.mapBase fun b => { b with
    regs := restoreRegs b.regs (fun a => pages.contains (pageOf a) || core a) fun c => c = .k
    pins := { b.pins with fatalBits := b.pins.fatalBits.filter fun x => !pages.contains (x / 32) } }

/-- The registers of core `c` of tile `t` (R112). -/
def coreRegs (t c a : Nat) : Bool := decide (coreReg t c Off.CORE_CTRL ≤ a ∧ a < coreReg t c Off.CORE_CTRL + 0x10)

/-- The quarantine of a released pitch: the greatest HOLD_US plus 2 ms (R280). -/
def quarantineEnd (p : Package) : Nat :=
  p.base.gtime + 2000000
    + 1000 * (List.range 18).foldl (fun m q => max m (p.rdF (portReg p.base q Off.PORT_HOLD) 16 0)) 0

/-- Held packets that are given up are no longer counted in flight (R169). -/
def dropCounted (b : Base) (ks : List Pkt) : Base := ks.foldl (fun b k => inflightSub b k.epoch) b

/-- A pitch leaves the package: its fence entries, its ranges, its contexts, and its quarantine begins (R263, R273). -/
def releasePitch (p : Package) (q : Nat) : Package :=
  let until' := quarantineEnd p
  { p with
    hub := { p.hub with
      fences := p.hub.fences.filter fun f => decide (f.pitch ≠ q)
      ranges := p.hub.ranges.filter fun r => decide (r.pitch ≠ q)
      hosted := mdel p.hub.hosted q
      quarantine := mset p.hub.quarantine q until' }
    fab := { p.fab with
      conns := p.fab.conns.filter fun e => decide (e.2.pitch ≠ q)
      grps := p.fab.grps.filter fun e => decide (e.2.pitch ≠ q)
      stalls := mdel p.fab.stalls q
      waits := p.fab.waits.filter fun w => decide (w.2.1 ≠ q)
      waitPath := p.fab.waitPath.filter fun k => decide (k.pitch ≠ q)
      retxWait := p.fab.retxWait.filter fun k => decide (k.pitch ≠ q) } }
    |>.mapBase fun b => dropCounted b (p.fab.waitPath.filter fun k => decide (k.pitch = q))

/-- A struck virtual function: the ranges of its hoppers are reported, its shadow written, its fields restored with its page
(R340). -/
def strikeVfRecords (p : Package) (v : Nat) : Package :=
  writeShadow ((List.range 4).foldl (fun p h => struckRange p v h) p) v

/-- What is left of a struck virtual function's bookkeeping after its rings are gone. -/
def strikeVfReset (p : Package) (v : Nat) : Package :=
  let p := (hostHops v).foldl (fun p r => p.wrF (hopStatReg r) 1 1 0) p
  let p := p.setVf v { p.vf v with holdoff := [false, false] }
  hostDrain p v

/-- ENABLE of a page has changed: what the change starts there (R88, R117, R199, R465). -/
def enableChanged (free : Nat) (p : Package) (page : Nat) (on : Bool) : Package :=
  let cls := clsOf page
  let inst := instOf page
  if 0x10 ≤ cls ∧ cls ≤ 0x1F ∧ inst = 2 ∧ on then startCore (startCore p (cls - 0x10) 0) (cls - 0x10) 1
  else if (cls = 0x22 ∨ cls = 0x23) ∧ inst = 0 ∧ on then
    (List.range 4).foldl (fun p i => releaseStack free p (4 * (cls - 0x22) + i)) p
  else if (cls = 0x20 ∨ cls = 0x21) ∧ 0x10 ≤ inst ∧ inst ≤ 0x18 then portEnableChanged p (9 * (cls - 0x20) + inst - 0x10) on
  else p

/-- The hub sets ENABLE on a page whose unit is not hollow (R273, R307). -/
def hubEnable (free : Nat) (was : List Nat) (p : Package) (page : Nat) : Package :=
  if hollowPage p.base page then p
  else
    let p := p.wrF (page + Off.PAGE_CTRL) 0 0 1
    if was.contains page then p else enableChanged free p page true

/-- The rest of a package strike's release: every context, group, fence entry and range is gone, and the management
connections are established again (R210, R273). -/
def releasePackage (p : Package) : Package :=
  establishAll { p with
    base := dropCounted p.base p.fab.waitPath
    hub := { p.hub with fences := [], ranges := [] }
    fab := { p.fab with
      conns := [], grps := [], stalls := [], waits := [], waitPath := [], retxWait := []
      mgmt := p.fab.mgmt.map fun e => (e.1, { estab := e.2.estab }) } }

/-- The lowest-numbered hosting slot of the rack, by the pitch's fence entries, is this package's (R278). -/
def lowestHost (p : Package) (pitch : Nat) : Bool :=
  (p.hub.fences.filter fun f => decide (f.pitch = pitch ∧ f.rack = p.base.rack)).all fun f =>
    (bitList f.slots 64).all fun t => decide (p.base.pos ≤ t)

/-- A strike that is part of a span strike (R276, R278). -/
def partOfSpan (s : Strike) : Bool := s.reach = 4 || s.answerTo.isSome

/-- The groups whose Weir contexts this hub uncommits after a span strike, with the ports of their planes (R278). -/
def spanSetups (p : Package) (s : Strike) : List (Nat × List Nat) :=
  if partOfSpan s && lowestHost p s.pitch then s.groups.map fun g => (g, grpPlanes g (p.grp g)) else []

/-- Uncommitting SETUPs are sent, and sent again until each Weir accepts (R278). -/
def sendUncommits (p : Package) (l : List (Nat × List Nat)) : Package :=
  l.foldl (fun p e => e.2.foldl (fun p q => sendSetup p e.1 q uncommitImage)
    (p.setGrp e.1 { p.grp e.1 with setupOwed := e.2 })) p

/-- Step 6: what is in reach returns to pitch 0 and to its reset values, and pages are enabled (R273). -/
def releaseUnits (free : Nat) (p : Package) (s : Strike) (setups : List (Nat × List Nat)) : Package :=
  if s.reach ≤ 1 then restoreK (p.setCore s.tile s.reach {}) [] (coreRegs s.tile s.reach)
  else
    let tiles := struckTiles p s
    let vfs := struckVfs p s
    let pages := struckPages p s
    let was := pages.filter (enabledPage p.base)
    let p := vfs.foldl strikeVfRecords p
    let p := (namedPegs p s).foldl restorePeg p
    let p := tiles.foldl restoreTile p
    let pitches := struckPitches p s
    let p := restoreK p pages fun _ => false
    let p := pitches.foldl releasePitch p
    let p := vfs.foldl strikeVfReset p
    let p := if s.reach = 5 then releasePackage p else p
    sendUncommits (pages.foldl (hubEnable free was) p) setups

/-- Every implemented page. -/
def allPages (p : Package) : List Nat :=
  ([0, 1, 2, 3, 4, 0x38, 0x3F] ++ [0x20, 0x21, 0x22, 0x23]).flatMap (classPages p)
    ++ (List.range p.tiles).flatMap fun t => (List.range 16).map (tilePage t) ++ [pegPage t]

/-- The strike of a return seal has completed: every page freezes, the ring takes no more records, and the bundle is being
built (R460 step 2). -/
def sealFreeze (p : Package) (sid : Nat) : Package :=
  if p.sealed.sid ≠ some sid then p
  else
    let p := (allPages p).foldl (fun p a => p.wrF (a + Off.PAGE_CTRL) 1 1 1) p
    let p := p.wrF (hubPage 4 + Off.SEAL_STAT) 2 0 2
    { p with hub := { p.hub with ringFrozen := true }, sealed := { p.sealed with sid := none } }

/-- A strike whose share is released leaves the list, unless it is a span strike that awaits peers (R276). -/
def endShare (p : Package) (s : Strike) (result : Nat) (abandoned : Bool) : Package :=
  let s := { s with abandoned := abandoned }
  if s.reach = 4 ∧ !s.peers.isEmpty then
    -- GO is a K field of a page in reach, or its own share's: it reads 0 from here on (log 42)
    let p := if byPage s then p.wrF (s.page + Off.STRIKE_CTRL) 0 0 0 else p
    setStrike p { s with released := true }
  else
    let p : Package := { p with hub := { p.hub with strikes := p.hub.strikes.filter fun x => decide (x.sid ≠ s.sid) } }
    sealFreeze (completeStrike p s result abandoned) s.sid

/-- A strike releases, and with it those it took over and those that joined it (R273, R279). -/
def releaseStrike (free : Nat) (p : Package) (s : Strike) : Package :=
  let p0 := p
  let others := p.hub.strikes.filter fun x => s.joined.contains x.sid
  let result := if s.abandoned then 2 else 1
  let setups := (others ++ [s]).flatMap (spanSetups p)
  let p := releaseUnits free (scrubMark (discardStruck p s) s) s setups
  notePlanes p0 ((others ++ [s]).foldl (fun p x => endShare p x result s.abandoned) p)

/-- STRIKE_ABSORB_DONE (R273). -/
def strikeAbsorbDone (free : Nat) (p : Package) (sid : Nat) : Package :=
  match strikeOf p sid with
  | some s => if strikeLive s && s.step = 4 then releaseStrike free p s else p
  | none => p

/-- STRIKE_ABSORB_DONE (R273). -/
def execStrikeAbsorbDone (p sid : Nat) (s : State) : Res := onPkgFree p (fun free x => strikeAbsorbDone free x sid) s

/-! ## Span strikes (R276, R277) -/

/-- The span strikes of a pitch that this package requested, oldest first: an earlier one may still wait for late peers. -/
def spanStrikes (p : Package) (pitch : Nat) : List Strike :=
  p.hub.strikes.filter fun s => decide (s.reach = 4 ∧ s.pitch = pitch)

/-- The span strike of a pitch that has not completed: its bound of 2 ms still runs (R277). -/
def spanStrikeOf (p : Package) (pitch : Nat) : Option Strike := (spanStrikes p pitch).find? fun s => !s.late

/-- A span strike message reaches a peer: it strikes the pitch, joins a strike that contains it, or answers at once
(R276). -/
def spanMessageIn (p : Package) (rack slot pitch : Nat) : Package :=
  if (p.hub.strikes.any fun s => decide (s.answerTo = some (rack, slot) ∧ s.pitch = pitch)) then p
  else if (mfind pitch p.hub.hosted).isNone then mgmtIssue p (rack * 64 + slot) (mgmtOp pitch false 3 0 (le 4 pitch))
  else beginStrike p { newStrike p 0 3 3 pitch 0 3 with answerTo := some (rack, slot) }

/-- The record of a late peer (R277). -/
def latePeer (p : Package) (s : Strike) (e : Nat × Nat) : Package :=
  strikeRing p (strikePayload s 3 2 (le 1 e.1 ++ le 1 e.2 ++ zeros 2))

/-- A span strike leaves the list. -/
def dropStrike (p : Package) (sid : Nat) : Package :=
  { p with hub := { p.hub with strikes := p.hub.strikes.filter fun x => decide (x.sid ≠ sid) } }

/-- A peer's answer counts for one span strike: the last answer completes a strike whose share is released; one to a late
strike is recorded (R276, R277). -/
def spanAnswerTo (p : Package) (s : Strike) (rack slot : Nat) : Package :=
  if !s.peers.contains (rack, slot) then p
  else
    let s := { s with peers := s.peers.filter fun e => decide (e ≠ (rack, slot)) }
    if s.late then
      let p := latePeer p s (rack, slot)
      if s.peers.isEmpty then dropStrike p s.sid else setStrike p s
    else if s.peers.isEmpty ∧ s.released then
      completeStrike (dropStrike p s.sid) s (if s.abandoned then 2 else 1) s.abandoned
    else setStrike p s

/-- A peer's answer reaches the requester: every span strike of the pitch that waits for that peer takes it (R276, R277). -/
def spanAnswerIn (p : Package) (rack slot pitch : Nat) : Package :=
  (spanStrikes p pitch).foldl (fun p s => spanAnswerTo p s rack slot) p

/-- SPAN_STRIKE_RESEND (R276). -/
def execSpanStrikeResend (p pitch : Nat) (s : State) : Res :=
  onPkg p (fun x => match spanStrikeOf x pitch with
    | some y => sendStrikeMessages x y
    | none => x) s

/-- SPAN_STRIKE_TIMEOUT: the strikes of the pitch that wait for peers complete with LAST_RESULT 2 and DRAIN_ABANDONED set; one
that joined another completes with it (R277, R279). -/
def spanStrikeTimeout (p : Package) (pitch : Nat) : Package :=
  ((spanStrikes p pitch).filter fun s => s.released && !s.late && !s.peers.isEmpty).foldl
    (fun p s =>
      completeStrike (if s.step = Strike.joining then dropStrike p s.sid else setStrike p { s with late := true }) s 2 true) p

/-- SPAN_STRIKE_TIMEOUT (R277). -/
def execSpanStrikeTimeout (p pitch : Nat) (s : State) : Res := onPkg p (fun x => spanStrikeTimeout x pitch) s

/-- One late strike's silent peers are sent the message again; 1 s after the completion each still silent is recorded. -/
def lateResend (p : Package) (s : Strike) : Package :=
  if s.t0 + 1002000000 ≤ p.base.gtime then s.peers.foldl (fun p e => latePeer p s e) (dropStrike p s.sid)
  else sendStrikeMessages p s

/-- LATE_PEER_RESEND: every late strike of the pitch asks its silent peers again (R277). -/
def latePeerResend (p : Package) (pitch : Nat) : Package :=
  ((spanStrikes p pitch).filter fun s => s.late).foldl lateResend p

/-- LATE_PEER_RESEND (R277). -/
def execLatePeerResend (p pitch : Nat) (s : State) : Res := onPkg p (fun x => latePeerResend x pitch) s

/-! ## Resets (R279, R281, R295) -/

/-- A reset ends every strike and releases every hosted pitch, with quarantine and without strike records (R279, R295). -/
def resetPitches (p : Package) : Package :=
  let p : Package := { p with hub := { p.hub with strikes := [] } }
  (p.hub.hosted.map fun e => e.1).foldl releasePitch p

end Sys2Proof.Machine
end

