-- ==== Sys2Proof/Machine/DieLink.lean ====
section
/-! DEFINITION. Die links: flits, replay, module retraining and loss; units that become hollow; the ready report
(R60–R64, R81, R285, R316). -/

namespace Sys2Proof.Machine

/-! ## The ready report (R316) -/

/-- The ports of an element that satisfy a test, as a bit map. -/
def portMap (b : Base) (f : Nat → Bool) : Nat := ofBits ((List.range (portCount b)).filter f)

/-- Logical engines without a physical engine, over the logical tiles (R310, R316). -/
def enginesMissing (p : Package) : Nat :=
  (List.range p.tiles).foldl (fun n t =>
    n + ((List.range 8).filter fun i => decide (8 < p.rdF (tilePage t 0 + Off.ME_MAP) (4 * i + 3) (4 * i))).length) 0

/-- The stacks whose HOLLOW reads 1. -/
def hollowStacks (p : Package) : Nat :=
  ofBits ((List.range 8).filter fun s => bitOf (p.rd (stackPage s + Off.STACK_STAT)) 1)

/-- The 32 bytes of a ready report. -/
def readyBytes (p : Package) (result : Nat) : Bytes :=
  let ks := p.rd (kindlePage + Off.KINDLE_STAT)
  let bs := p.rd (kindlePage + Off.BRINGUP_STAT)
  let cause := p.rd (emberPage + Off.LAST_CAUSE)
  let id := pg 3 1
  le 1 0x30 ++ le 1 result ++ le 1 (fld cause 5 4) ++ le 1 (p.rdF (pg 3 0 + Off.STRAP_STAT) 3 0)
    ++ le 1 (fld ks 6 6 + 2 * fld ks 8 8 + 4 * fld ks 9 9 + 8 * fld bs 5 5 + 16 * fld ks 11 11)
    ++ le 1 (p.rdF (hubPage 1 + Off.LTILE_COUNT) 4 0) ++ le 1 (hollowStacks p) ++ le 1 (enginesMissing p)
    ++ le 3 (portMap p.base (portUp p.base))
    ++ le 3 (portMap p.base fun q => portEnabled p.base q && !portUp p.base q)
    ++ le 1 (fld bs 10 8) ++ le 1 0 ++ le 4 (p.rdF (kindlePage + Off.BRINGUP_TIME) 23 0)
    ++ le 4 (p.rd (emberPage + Off.RESET_COUNT)) ++ le 4 (p.rd (id + Off.ID_SERIAL_LO)) ++ le 4 (p.rd (id + Off.ID_SERIAL_HI))

/-- The ready report goes to the tray controller (R316, R411). -/
def sendReady (p : Package) (result : Nat) : Package := p.mapBase fun b => sendTc b 0x04 (readyBytes p result)

/-! ## Hollow units and lost dies (R64, R81, R285) -/

/-- The logical tile of tile die `d`. -/
def tileOfDie (p : Package) (d : Nat) : Option Nat := (List.range p.tiles).find? fun t => decide (p.dieOfTile t = d)

/-- The first page of a die's own class (R57); none for a hidden tile. -/
def diePage (p : Package) (d : Nat) : Option Nat :=
  if d < 16 then (tileOfDie p d).map fun t => tilePage t 0 else if d < 20 then some (pg (d + 0x10) 0) else none

/-- The per-die power page of die `d` (R57). -/
def diePowerPage (d : Nat) : Nat := pg 2 (d + 1)

/-- The descriptors that run or wait on a tile that has become hollow complete HOLLOW_UNIT (R285). -/
def hollowHop (p : Package) (r : HopRef) : Package :=
  (p.hop r).foldl (fun p e =>
    match e.stage with
    | .issued | .finished => completeCore p r e.idx St.hollowUnit 0 false
    | .waiting => completeCore (leavePegs p r) r e.idx St.hollowUnit 0 false
    | _ => p) p

/-- A tile becomes hollow: fenced, its operations and cores end, its number kept (R285). -/
def hollowTile (p : Package) (t : Nat) : Package :=
  let pages := (List.range 16).map (tilePage t) ++ [pegPage t]
  let p := pages.foldl (fun p a => (p.wrF (a + Off.PAGE_STAT) 4 4 1).wrF (a + Off.PAGE_STAT) 2 2 1) p
  let p := (hopsOn p t).foldl hollowHop p
  strikeCore (strikeCore p t 0) t 1

/-- A die link is down: fatal event, package strike, the package reported as failed and out of service (R64, R447).
`page` and `bit` name the event whose record carries SEVERITY 3 (R441). -/
def dieLinkDown (p : Package) (page bit : Nat) : Package :=
  if p.dies.outOfService then p
  else
    let p := (ringAppend p 1 3 (page / 0x1000) (le 1 bit)).1
    let p : Package := { p with
      dies := { p.dies with outOfService := true }
      base := { p.base with pins := { p.base.pins with fatalStrike := true } } }
    sendReady (hubStrike p (clsOf page) 5 0) 3

/-- A die is silent: a record with the die and its missing reports names its power page; a logical tile becomes hollow, a link or memory
die is treated as a down die link (R81; log 45). -/
def dieSilent (p : Package) (d missing : Nat) : Package :=
  let p := (ringAppend p 1 2 (diePowerPage d / 0x1000) (le 1 d ++ le 1 missing)).1
  if d < 16 then
    match tileOfDie p d with
    | some t => if hollowPage p.base (tilePage t 0) then p else hollowTile p t
    | none => p
  else dieLinkDown p (pg (d + 0x10) 0) 0

/-! ## Module repair (R63) -/

/-- An event of a die link shows on the die's own page: 3 LANE_REPAIRED, 4 MODULE_FENCED (R63, R110; log 46). -/
def dieEvent (p : Package) (d bit q m : Nat) : Package :=
  match diePage p d with
  | some a => raise p a bit { c2 := q, c3 := m }
  | none => p

/-- Both ends of a die link change. -/
def bothEnds (p : Package) (d q : Nat) (f : DiePort → DiePort) : Package :=
  let p := p.setLink d q (f (p.link d q))
  match linkPeer d q with
  | some (e, r) => p.setLink e r (f (p.link e r))
  | none => p

/-- A module leaves the rotation at both ends, which ask for what was in flight on it (R62, R63). -/
def DiePort.without (m : Nat) (x : DiePort) : DiePort := DiePort.ask { x with out := x.out ++ [m] }

/-- It returns. -/
def DiePort.restored (m : Nat) (x : DiePort) : DiePort := { x with out := x.out.filter (· ≠ m) }

/-- A module is fenced for the power epoch at both ends; with the last active one the die link is down (R63, R64). -/
def fenceModule (p : Package) (d q m : Nat) : Package :=
  let p := bothEnds p d q fun x => DiePort.ask { x.restored m with fenced := setBit x.fenced m true }
  let x := p.link d q
  let p := p.setLink d q { x with
    retraining := if x.retraining = some m then none else x.retraining, waiting := x.waiting.filter (· ≠ m) }
  let p := dieEvent p d 4 q m
  if x.active.isEmpty then dieLinkDown p ((diePage p d).getD (pg 2 (d + 1))) 4 else p

/-- A module begins to retrain with a spare. -/
def retrainModule (p : Package) (d q m : Nat) : Package :=
  let x := p.link d q
  p.setLink d q { x with
    retraining := some m, waiting := x.waiting.filter (· ≠ m), spares := setNth x.spares m (nth 0 x.spares m - 1)
    fails := x.fails.filter fun e => decide (e.2 ≠ m) }

/-- A module whose failures pass 8 within 1 ms is fenced where it has no spare; else it retrains, or, while another of the port does,
waits without traffic for its turn. No repair takes one of the last two modules that are not fenced while another is being repaired
(R63). -/
def moduleFails (p : Package) (d q m : Nat) : Package :=
  let x := p.link d q
  if !x.active.contains m then p
  else if nth 0 x.spares m = 0 then fenceModule p d q m
  else if x.retraining.isNone then retrainModule (bothEnds p d q (DiePort.without m)) d q m
  else if x.active.length ≤ 2 then p
  else
    let p := bothEnds p d q (DiePort.without m)
    let x := p.link d q
    p.setLink d q { x with waiting := x.waiting ++ [m], fails := x.fails.filter fun e => decide (e.2 ≠ m) }

/-- The lowest module that waits begins to retrain, once none does. -/
def nextRepair (p : Package) (d q : Nat) : Package :=
  let x := p.link d q
  match x.retraining, (List.range 4).find? x.waiting.contains with
  | none, some m => retrainModule p d q m
  | _, _ => p

/-- Slice failures of a flit are counted by module; a module past the bound is acted on (R63). -/
def slicesFail (p : Package) (d q : Nat) (ms : List Nat) : Package :=
  let now := p.base.gtime
  let x := p.link d q
  let fails := (x.fails.filter fun e => decide (now < e.1 + 1000000)) ++ ms.map fun m => (now, m)
  let p := p.setLink d q (DiePort.ask { x with fails := fails })
  ms.foldl (fun p m => if 8 < ((p.link d q).fails.filter fun e => decide (e.2 = m)).length then moduleFails p d q m else p) p

/-- MODULE_RETRAIN_DONE: the module is restored with its spare lane, or fenced; the next one that waits begins (R63). -/
def moduleRetrainDone (p : Package) (d q m : Nat) (ok : Bool) : Package :=
  if (p.link d q).retraining ≠ some m then p
  else
    let p :=
      if ok then
        let p := bothEnds p d q (DiePort.restored m)
        dieEvent (p.setLink d q { p.link d q with retraining := none }) d 3 q m
      else fenceModule p d q m
    nextRepair p d q

/-- MODULE_RETRAIN_DONE (R63). -/
def execModuleRetrainDone (p die port module : Nat) (ok : Bool) (s : State) : Res :=
  onPkgMem p (fun x => moduleRetrainDone x die port module ok) s

/-! ## Receiving flits (R61, R62, R155) -/

/-- The slice's CRC-16 holds: it covers the slice's first 62 bytes (R61). -/
def sliceOk (b : Bytes) : Bool := decide (b.length = 64 ∧ crc16 (b.take 62) = fieldAt b 62 2)

/-- The bytes of a flit without the slices' CRCs (R61). -/
def flitData (f : Flit) : Bytes := f.slices.flatMap fun s => s.take 62

/-- A good flit: acknowledgement, and in its turn its credits and its data (R61, R62, R155). `rxSeq` is the SEQ expected. One of a reserved TYPE
gives nothing but its acknowledgement, and its SEQ stays expected (log 173). -/
def DiePort.take (x : DiePort) (data : Bytes) : DiePort :=
  let h := fieldAt data 0 4
  let x := if bitOf h 16 then x.acked (fld h 15 8) else x
  let type := fld h 23 20
  if type = 2 then x.replayFrom (fld h 15 8)
  else if type ≠ 1 ∧ type ≠ 3 then x
  else if fld h 7 0 ≠ x.rxSeq then x
  else
    { x with
      rxSeq := (x.rxSeq + 1) % 256, rxSome := true, asked := false
      credits := mupd 0 x.credits (fld h 19 17) (· + fld h 31 24)
      rxBuf := if type = 1 then mupd [] x.rxBuf (fld h 19 17) (· ++ data.drop 4) else x.rxBuf }

/-- The packet that a VC's buffer holds whole, and the buffer without it. A packet begins with a flit, and what follows it in its last flit is
no data (log 170). -/
def wholePacket (x : DiePort) (v : Nat) : Option Bytes :=
  let b := mget [] x.rxBuf v
  if b.length < 8 ∨ ringLen b < 8 ∨ b.length < ringLen b then none else some (b.take (ringLen b))

end Sys2Proof.Machine
end

