-- ==== Sys2Proof/Machine/Power.lean ====
section
/-! DEFINITION. Power and cooling of a package: input power, the effective cap, die budgets, the fantail, load notices,
BRAKE_N and the critical condition (R76–R81, R348–R368). -/

namespace Sys2Proof.Machine

/-- The power page's registers (R369). -/
def pw (off : Nat) : Nat := powerPage + off

/-- The mean of some samples, rounded down; 0 of none. -/
def meanOf (l : List Nat) : Nat := l.foldl (· + ·) 0 / max 1 l.length

/-! ## Input power (R348) -/

/-- INPUT_POWER_SAMPLE: P_IN is the mean of the last 1 ms of 1 µs samples; the last 10 ms of P_IN are kept (log 47). -/
def inputPowerSample (p : Package) (power : Nat) : Package :=
  let win := (power :: p.pwr.pWindow).take 1000
  let pin := min 0xFFFF (meanOf win)
  { p.wrF (pw Off.P_IN) 15 0 pin with pwr := { p.pwr with pWindow := win, pHist := (pin :: p.pwr.pHist).take 10000 } }

/-- INPUT_POWER_SAMPLE (R348). -/
def execInputPowerSample (p power : Nat) (s : State) : Res := onPkg p (fun x => inputPowerSample x power) s

/-- The mean P_IN over the last 10 ms, in 0.125 W. -/
def meanPin (p : Package) : Nat := meanOf p.pwr.pHist

/-! ## The fantail (R356–R359) -/

/-- A thermal resistance of a fuse field in the estimate's units. -/
def fuseR (p : Package) (hi lo : Nat) : Nat := p.rdF (pg 3 2 + Off.R_FUSE) hi lo * 2 ^ 32
def fuseDie (p : Package) : Nat := fuseR p 15 0
def fuseStack (p : Package) : Nat := fuseR p 31 16

/-- The inlet temperature the fantail uses (R359). -/
def inletT (p : Package) : Nat := if p.pwr.tInStale then 320 else p.rdF (pw Off.T_IN) 15 0

/-- The least-squares slope of the last T_IN writes, as a numerator and denominator in 0.125 °C per ns (R357). -/
def inletSlope (p : Package) : Int × Int :=
  let h := p.pwr.tInHist
  let t0 := (h.map fun e => e.1).foldl min ((h.map fun e => e.1).headD 0)
  let xs : List (Int × Int) := h.map fun e => (((e.1 - t0 : Nat) : Int), ((e.2 : Nat) : Int))
  let n : Int := xs.length
  let sx := xs.foldl (fun a e => a + e.1) 0
  let sy := xs.foldl (fun a e => a + e.2) 0
  (n * xs.foldl (fun a e => a + e.1 * e.2) 0 - sx * sy, n * xs.foldl (fun a e => a + e.1 * e.1) 0 - sx * sx)

/-- T_IN_FC for a time `ahead` ns from now: never below T_IN (R357). -/
def forecast (p : Package) (ahead : Nat) : Nat :=
  if p.pwr.tInStale then 320
  else
    let t := inletT p
    let (num, den) := inletSlope p
    if den ≤ 0 ∨ num ≤ 0 then t else min 0xFFFF (t + ((ahead : Int) * num / den).toNat)

/-- A thermal cap in W: the headroom over the resistance, rounded down, at most 1,600 W (R357). -/
def thermalCap (limit margin tfc r : Nat) : Nat :=
  let head := 8 * limit - 8 * margin - tfc
  if r = 0 then (if head = 0 then 0 else 1600) else min 1600 (head * 10000 * 2 ^ 32 / (8 * r))

/-- CAP_DIE and CAP_STACK for a forecast; every die with a sensor fault gives 400 W (R357, R368). -/
def capDieAt (p : Package) (tfc : Nat) : Nat :=
  let cfg := p.rd (pw Off.FANTAIL_CFG)
  if (List.range 20).all (fun d => bitOf (p.rd (diePowerPage d + Off.DIE_FLAGS)) 2) then 400
  else thermalCap (fld cfg 7 0) (fld cfg 15 8) tfc p.pwr.rDie
def capStackAt (p : Package) (tfc : Nat) : Nat :=
  let cfg := p.rd (pw Off.FANTAIL_CFG)
  thermalCap (fld cfg 23 16) (fld cfg 31 24) tfc p.pwr.rStack

/-- The dies whose last report has no sensor fault, with T_MAX. -/
def goodDies (p : Package) : List (Nat × Nat) :=
  (List.range 20).filterMap fun d =>
    if bitOf (p.rd (diePowerPage d + Off.DIE_FLAGS)) 2 then none else some (d, p.rdF (diePowerPage d + Off.DIE_THERMAL) 15 0)

/-- T_DIE and its die: the greatest T_MAX, the lowest die among equals (R356, R368). -/
def hottestDie (p : Package) : Nat × Nat := (goodDies p).foldl (fun a e => if a.2 < e.2 then e else a) (0, 0)

/-- A stack's temperature for the fantail, in 0.125 °C: TRIP_STACK − 5 °C where it cannot be read (R368). -/
def stackTemp (p : Package) (s : Nat) : Nat :=
  let t := p.rdF (stackPage s + Off.STACK_STAT) 15 8
  8 * (if t = 0xFF then p.rdF (pg 3 2 + Off.T_FUSE) 23 16 - 5 else t)

/-- A die or stack sensor fault is raised once (R368, R370). -/
def sensorFault (p : Package) (k : Nat) : Package :=
  if p.pwr.faultMarks.contains k then p
  else
    raise { p with pwr := { p.pwr with faultMarks := p.pwr.faultMarks ++ [k] } } powerPage 8
      { c2 := k, c3 := mget 0 p.pwr.lastGood k }

/-- The stacks' temperatures are taken: a good reading is remembered, a fault raised. -/
def noteStacks (p : Package) : Package :=
  (List.range 8).foldl (fun p s =>
    let t := p.rdF (stackPage s + Off.STACK_STAT) 15 8
    if t = 0xFF then sensorFault p (0x80 + s)
    else { p with pwr := { p.pwr with lastGood := mset p.pwr.lastGood (0x80 + s) t } }) p

/-- A sample resistance in the estimate's units; `none` is below zero (R356). -/
def sampleR (t tin pw' : Nat) : Int := (((t : Int) - (tin : Int)) * 10000 * 2 ^ 32) / (max 1 pw' : Nat)

/-- An estimate after a valid sample: a 64th of the way, never below 0.8 of the fused value (R356). -/
def estimateAfter (r fuse : Nat) (rs : Int) : Nat := max (fuse * 8 / 10) ((r : Int) + (rs - (r : Int)) / 64).toNat

/-- R_EST shows the estimates (R369). -/
def showEstimates (p : Package) : Package :=
  p.wr (pw Off.R_EST) (min 0xFFFF (p.pwr.rDie / 2 ^ 32) + min 0xFFFF (p.pwr.rStack / 2 ^ 32) * 2 ^ 16)

/-- Learning starts: the estimates stand at the fused values, and nothing is counted (R358). -/
def startLearning (p : Package) : Package :=
  let p := p.wr (pw Off.FANTAIL_STAT) 1
  showEstimates { p with pwr := { p.pwr with
    rDie := fuseDie p, rStack := fuseStack p, sumDie := 0, sumStack := 0, learnStart := p.base.gtime } }

/-- The fantail is learning. -/
def learning (p : Package) : Bool := bitOf (p.rd (pw Off.FANTAIL_STAT)) 0

/-- A valid sample while the fantail learns: it is counted and joins the running means (R358). -/
def learnSample (p : Package) (rsD rsS : Int) : Package :=
  let n := satAdd 0xFFFF (p.rdF (pw Off.FANTAIL_STAT) 31 16) 1
  { p.wrF (pw Off.FANTAIL_STAT) 31 16 n with
    pwr := { p.pwr with sumDie := p.pwr.sumDie + rsD, sumStack := p.pwr.sumStack + rsS } }

/-- Learning ends once both of its conditions hold (R358). -/
def learnEnd (p : Package) : Package :=
  let n : Nat := p.rdF (pw Off.FANTAIL_STAT) 31 16
  if learning p ∧ 500 ≤ n ∧ p.pwr.learnStart + 10000000000 ≤ p.base.gtime then
    let p : Package := { p with pwr := { p.pwr with
      rDie := max (p.pwr.sumDie / (n : Int)).toNat (fuseDie p * 8 / 10)
      rStack := max (p.pwr.sumStack / (n : Int)).toNat (fuseStack p * 8 / 10) } }
    raise (p.wrF (pw Off.FANTAIL_STAT) 0 0 0) powerPage 4 {}
  else p

/-- R_DRIFT is raised on each rise of R_die above 1.5 × R_FUSE_DIE (R365). -/
def checkDrift (p : Package) : Package :=
  let over' := decide (3 * fuseDie p < 2 * p.pwr.rDie)
  let p' : Package := { p with pwr := { p.pwr with drift := over' } }
  if over' && !p.pwr.drift then
    raise p' powerPage 5 { c2 := p.pwr.rDie / 2 ^ 32, c3 := fuseDie p / 2 ^ 32 }
  else p'

/-- The thermal caps and the times since when they lie below, or at or above, 400 W (R357, R365, R366). -/
def setCaps (p : Package) : Package :=
  let tfc := forecast p 2000000000
  let p := p.wrF (pw Off.T_IN) 31 16 tfc
  let d := capDieAt p tfc
  let s := capStackAt p tfc
  let low := decide (d < 400 ∨ s < 400)
  let now := p.base.gtime
  { p with pwr := { p.pwr with
    capDie := d, capStack := s
    criticalSince := if low then some (p.pwr.criticalSince.getD now) else none
    okSince := if low then none else some (p.pwr.okSince.getD now) } }

/-- FANTAIL_SAMPLE: temperatures and power are sampled, estimates and caps updated (R356–R358, R365, R368). -/
def fantailSample (p : Package) : Package :=
  let p := noteStacks p
  let (hot, tDie) := hottestDie p
  let p := p.wrF (pw Off.THERMAL_STAT) 12 8 hot
  let tStack := (List.range 8).foldl (fun m s => max m (stackTemp p s)) 0
  let pow := meanPin p
  let mean := meanOf p.pwr.samples
  let valid := decide (2400 ≤ pow) && (p.pwr.samples.isEmpty ||
    decide (10 * pow ≤ 11 * mean ∧ 9 * mean ≤ 10 * pow))
  let rsD := sampleR tDie (inletT p) pow
  let rsS := sampleR tStack (inletT p) pow
  let p : Package := { p with pwr := { p.pwr with samples := (pow :: p.pwr.samples).take 100 } }
  let p :=
    if !valid then p
    else if learning p then learnSample p rsD rsS
    else { p with pwr := { p.pwr with
      rDie := estimateAfter p.pwr.rDie (fuseDie p) rsD, rStack := estimateAfter p.pwr.rStack (fuseStack p) rsS } }
  setCaps (checkDrift (showEstimates (learnEnd p)))

/-- FANTAIL_SAMPLE (R356). -/
def execFantailSample (p : Nat) (s : State) : Res := onPkg p fantailSample s

/-- INLET_STALE: 40 °C stands in for T_IN and T_IN_FC (R359, R370). -/
def inletStale (p : Package) : Package :=
  if p.pwr.tInStale then p
  else
    let p : Package := { p with pwr := { p.pwr with tInStale := true } }
    raise (p.wrF (pw Off.T_IN) 31 16 320) powerPage 6 { c2 := (p.base.gtime - p.pwr.tInAt) / 1000000 % 2 ^ 32 }

/-- INLET_STALE (R359). -/
def execInletStale (p : Nat) (s : State) : Res := onPkg p inletStale s

/-- T_IN has been written: it joins the last ten values and is in use again (R357, R359). -/
def tInWritten (p : Package) : Package :=
  let h := p.pwr.tInHist ++ [(p.base.gtime, p.rdF (pw Off.T_IN) 15 0)]
  { p with pwr := { p.pwr with tInHist := h.drop (h.length - 10), tInAt := p.base.gtime, tInStale := false } }

/-! ## The effective cap (R351, R360) -/

/-- CAP_TC and CAP_HOST in W. -/
def capTc (p : Package) : Nat := p.rdF (pw Off.CAP_TC) 10 0
def capHost (p : Package) : Nat := p.rdF (pw Off.CAP_HOST) 10 0

/-- The learning term, 70 % of the lower cap (R351). -/
def learnTerm (p : Package) : Nat := max 400 (min (capTc p) (capHost p) * 7 / 10)

/-- The slew term applies: SLEW_W is not 0, and no notice in force lifts it (R360, R362). -/
def slewApplies (p : Package) : Bool :=
  p.rdF (pw Off.FANTAIL_SLEW) 7 0 ≠ 0 && !p.pwr.noSlew &&
    !(match p.pwr.notice with
      | some n => n.inForce && decide (n.power ≠ 0)
      | none => false)

/-- The terms of the effective cap but for the brake: LIMITER bit from 16, and value in W (R351). -/
def capTerms (p : Package) : List (Nat × Nat) :=
  [(16, capTc p), (17, capHost p), (18, max 400 p.pwr.capDie), (19, max 400 p.pwr.capStack)]
    ++ (if learning p then [(20, learnTerm p)] else [])
    ++ (if slewApplies p then [(22, max 400 (meanPin p / 8 + p.rdF (pw Off.FANTAIL_SLEW) 7 0))] else [])

/-- BRAKED (R355). -/
def braked (p : Package) : Bool := bitOf (p.rd (pw Off.THERMAL_STAT)) 0

/-- CAP_EFF is computed: the least term, and every term that equals it (R351, R370). -/
def capEvaluate (p : Package) : Package :=
  let terms := capTerms p
  let least := leastOf 1600 (terms.map fun e => e.2)
  let terms := if braked p then terms ++ [(21, least / 2)] else terms
  let cap := leastOf 1600 (terms.map fun e => e.2)
  let floor := decide (cap = 400 ∧ (p.pwr.capDie < 400 ∨ p.pwr.capStack < 400))
  let lim := ofBits ((terms.filter fun e => decide (e.2 = cap)).map fun e => e.1) ||| (if floor then 2 ^ 23 else 0)
  let old := p.rd (pw Off.CAP_EFF)
  let p := (p.wr (pw Off.CAP_EFF) (cap + lim))
  let p : Package := { p with pwr := { p.pwr with noSlew := false } }
  let last := p.pwr.lastChanged
  let p :=
    if 5 * last < 100 * (cap - last + (last - cap)) then
      raise { p with pwr := { p.pwr with lastChanged := cap } } powerPage 0 {}
    else p
  if (bitOf lim 18 && !bitOf old 18) || (bitOf lim 19 && !bitOf old 19) then raise p powerPage 1 {} else p

/-- CAP_EVALUATION (R351). -/
def execCapEvaluation (p : Nat) (s : State) : Res := onPkg p capEvaluate s

/-! ## Die budgets (R77–R81, R352) -/

/-- A die's default fallback, and its fused maximum, in 0.125 W (R80, R372). -/
def dieFallback (d : Nat) : Nat := if d < 16 then 160 else if d < 18 then 96 else 128
def dieMax (p : Package) (d : Nat) : Nat :=
  if d < 16 then p.rdF (pg 3 2 + Off.P_MAX) 15 0
  else if d < 18 then p.rdF (pg 3 2 + Off.P_MAX) 31 16
  else p.rdF (pg 3 2 + Off.P_MAX_MEM) 15 0

/-- What die `d` holds, and it replaced. -/
def Package.budget (p : Package) (d : Nat) : DieBudget := mget {} p.dies.budgets d
def Package.setBudget (p : Package) (d : Nat) (x : DieBudget) : Package :=
  { p with dies := { p.dies with budgets := mset p.dies.budgets d x } }

/-- The package runs in metronome mode (R76). -/
def metronome (p : Package) : Bool := !bitOf (p.rd (pw Off.PWR_CTL)) 0

/-- The last report of a die is missing: messages have gone out, and none has come back since the last (R81, R352). -/
def reportMissing (p : Package) (d : Nat) : Bool := decide (p.pwr.budgetSeq ≠ 0) && !(p.budget d).reported

/-- The budget last sent to a die; while a brake it has not been told of halves it, the half (R352, R355). -/
def lastSent (p : Package) (d : Nat) : Nat :=
  let b := p.rdF (diePowerPage d + Off.DIE_BUDGET) 15 0
  if braked p && (p.budget d).halved then b / 2 else b

/-- D of a die (R352). -/
def dieDemand (p : Package) (d : Nat) : Nat :=
  if reportMissing p d then lastSent p d
  else
    let slow := p.rdF (diePowerPage d + Off.DIE_THERMAL) 31 16
    let throttled := if metronome p then decide (0 < slow) else decide (slow < 1024)
    clip (dieFallback d) (dieMax p d)
      (if throttled then p.rdF (diePowerPage d + Off.DIE_BUDGET) 15 0 + 64 else p.rdF (diePowerPage d + Off.DIE_POWER) 31 16 + 16)

/-- The budgets of the twenty dies in 0.125 W (R352). -/
def dieBudgets (p : Package) : List Nat :=
  let ds := List.range 20
  let sum := fun (f : Nat → Nat) => ds.foldl (fun a d => a + f d) 0
  let conv := meanOf (p.pwr.pWindow.take 100) - sum fun d => p.rdF (diePowerPage d + Off.DIE_POWER) 15 0
  let pool := 8 * p.rdF (pw Off.CAP_EFF) 10 0 - conv
  let sf := sum dieFallback
  let sd := sum (dieDemand p)
  let excess := ds.foldl (fun (a : Int) d => a + ((dieDemand p d : Int) - (dieFallback d : Int))) 0
  ds.map fun d =>
    if reportMissing p d then lastSent p d
    else if pool ≤ sf then dieFallback d * pool / sf
    else if sd ≤ pool then min (dieMax p d) (dieDemand p d + (pool - sd) * dieDemand p d / max 1 sd)
    else dieFallback d + (((pool - sf : Nat) : Int) * ((dieDemand p d : Int) - (dieFallback d : Int)) / excess).toNat

/-- The budget message of a die (R78). -/
def budgetBytes (p : Package) (d budget : Nat) : Bytes :=
  le 1 1 ++ le 1 d ++ le 2 p.pwr.budgetSeq ++ le 2 budget ++ le 2 (dieFallback d) ++ le 2 (8 * p.rdF (pw Off.FANTAIL_CFG) 7 0)
    ++ le 1 (b2n (metronome p)) ++ le 1 3 ++ le 8 p.base.gtime ++ zeros 12

/-- The die ID of the active hub's link die (R57, R68). -/
def hubDieId (p : Package) : Nat := 16 + hubDie p

/-- A message between the hub and a die enters the rings, in the management class (R77, R153); false where it is for its own die. -/
def ringMessage (p : Package) (src dst : Nat) (body : Bytes) : Package × Bool :=
  ringQueue p src (ringPacket 3 src dst 0 body) none

/-- BUDGET_MESSAGE: a newer message is applied; any other is counted (R78, R80, R355). -/
def budgetMessage (p : Package) (d : Nat) (m : Bytes) : Package :=
  let x := p.budget d
  let seq := fieldAt m 2 2
  if 20 ≤ d ∨ byteAt m 0 ≠ 1 ∨ byteAt m 1 ≠ d then p
  else if x.seen ∧ !serialGt 16 seq x.seq then p.setBudget d { x with ignored := x.ignored + 1 }
  else
    p.setBudget d { x with
      seen := true, seq := seq, budget := min (fieldAt m 4 2) (dieMax p d), fallback := fieldAt m 6 2, tLimit := fieldAt m 8 2
      metronome := bitOf (byteAt m 10) 0, validity := byteAt m 11, inFallback := false, halved := false }

/-- BUDGET_TICK: missing reports are counted, and a message goes to each die under the next SEQ; its registers show what was
sent (R77, R352, R371). -/
def budgetTick (p : Package) : Package :=
  let bs := dieBudgets p
  let p := (List.range 20).foldl (fun p d =>
    if reportMissing p d then
      let x := p.budget d
      let p := p.setBudget d { x with missing := x.missing + 1 }
      p.wrF (diePowerPage d + Off.DIE_FLAGS) 31 16 (satAdd 0xFFFF (p.rdF (diePowerPage d + Off.DIE_FLAGS) 31 16) 1)
    else p) p
  let p : Package := { p with pwr := { p.pwr with budgetSeq := p.pwr.budgetSeq + 1 } }
  let p := (List.range 20).foldl (fun p d =>
    let a := diePowerPage d
    let p := p.setBudget d { p.budget d with reported := false }
    (p.wr (a + Off.DIE_BUDGET) (nth 0 bs d % 2 ^ 16 + dieFallback d * 2 ^ 16)).wrF (a + Off.DIE_SEQ) 15 0 p.pwr.budgetSeq) p
  pump ((List.range 20).foldl (fun p d =>
    let m := budgetBytes p d (nth 0 bs d % 2 ^ 16)
    match ringMessage p (hubDieId p) d m with
    | (p, true) => p
    | (p, false) => budgetMessage p d m) p) (hubDieId p)

/-- BUDGET_TICK (R352). -/
def execBudgetTick (p : Nat) (s : State) : Res := onPkg p budgetTick s

/-- BUDGET_MESSAGE (R80). -/
def execBudgetMessage (p die : Nat) (msg : Bytes) (s : State) : Res := onPkg p (fun x => budgetMessage x die msg) s

/-- DIE_REPORT: the report is shown on the die's power page (R79, R368, R371). -/
def dieReport (p : Package) (r : Bytes) : Package :=
  let d := byteAt r 1
  if byteAt r 0 ≠ 2 ∨ 20 ≤ d then p
  else
    let a := diePowerPage d
    let p := p.wrF (a + Off.DIE_SEQ) 31 16 (fieldAt r 2 2)
    let p := (p.wr (a + Off.DIE_POWER) (fieldAt r 4 4)).wr (a + Off.DIE_THERMAL) (fieldAt r 8 4)
    let p := p.wrF (a + Off.DIE_FLAGS) 7 0 (byteAt r 12)
    let p := p.setBudget d { p.budget d with reported := true, missing := 0, silent := false }
    if bitOf (byteAt r 12) 2 then sensorFault p d
    else { p with pwr := { p.pwr with lastGood := mset p.pwr.lastGood d (fieldAt r 8 2) } }

/-- DIE_REPORT (R79). -/
def execDieReport (p : Nat) (report : Bytes) (s : State) : Res := onPkg p (fun x => dieReport x report) s

/-- BUDGET_FALLBACK: VALIDITY intervals have passed with no newer message (R80). -/
def execBudgetFallback (p die : Nat) (s : State) : Res :=
  onPkg p (fun x => if (x.budget die).seen then x.setBudget die { x.budget die with inFallback := true } else x) s

/-- The budget a die enforces: its default before the first message, FALLBACK when messages stop, half while a brake halves
it (R80, R355). -/
def enforced (d : Nat) (x : DieBudget) : Nat :=
  let b := if !x.seen then dieFallback d else if x.inFallback then x.fallback else x.budget
  if x.halved then b / 2 else b

/-- The die report of the interval just ended (R79): SLOW sums the held beats of its samples in metronome mode, else it is the mean of their
clock fractions; no sensor fault is in it (log 172). -/
def reportBytes (p : Package) (d : Nat) : Bytes :=
  let x := p.budget d
  let n := max 1 x.samples
  let metro := metronome p
  le 1 2 ++ le 1 d ++ le 2 x.seq ++ le 2 (x.sum / n) ++ le 2 x.peak ++ le 2 x.temp ++ le 2 (if metro then x.slow else x.slow / n)
    ++ le 1 (b2n x.unattainable + 2 * b2n x.inFallback + 8 * b2n metro + 16 * b2n x.limited) ++ zeros 3 ++ le 8 p.base.gtime ++ zeros 8

/-- An interval of 100 samples ends: the die's report goes to the hub, and the next interval begins (R77, R79). -/
def intervalEnd (p : Package) (d : Nat) : Package :=
  let x := p.budget d
  if x.samples < 100 then p
  else
    let r := reportBytes p d
    let p := p.setBudget d { x with samples := 0, sum := 0, peak := 0, slow := 0 }
    match ringMessage p d (hubDieId p) r with
    | (p, true) => pump p d
    | (p, false) => dieReport p r

/-- A sample joins its interval: of its 200 beats a quarter for each step is held in metronome mode, or as many quarters of the clock are
given up in free mode (R74, R75, R79; log 43). -/
def countSample (metro : Bool) (power temp : Nat) (x : DieBudget) : DieBudget :=
  { x with
    samples := x.samples + 1, sum := x.sum + power, peak := max x.peak power, temp := temp
    slow := x.slow + (if metro then 50 * x.held else 1024 - 256 * x.held) }

/-- DIE_POWER_SAMPLE: a die over its budget, or at T_LIMIT, slows by a step, down to one beat in four; one under both
speeds up by a step (R74, R75, R77, R80; log 43). No limit is in force before the first message (log 174). -/
def diePowerSample (p : Package) (d power temp : Nat) : Package :=
  let x := p.budget d
  let over' := decide (enforced d x < power)
  let hot := x.seen && decide (x.tLimit ≤ temp)
  intervalEnd (p.setBudget d { countSample (metronome p) power temp x with
    held := if over' || hot then min 3 (x.held + 1) else x.held - 1
    unattainable := over' && decide (x.held = 3), limited := hot }) d

/-- DIE_POWER_SAMPLE (R77). -/
def execDiePowerSample (p die power temp : Nat) (s : State) : Res :=
  onPkg p (fun x => if die < 20 then diePowerSample x die power temp else x) s

/-- DIE_SILENT: three reports in a row are missing, once until the die reports again (R81). -/
def execDieSilent (p die : Nat) (s : State) : Res :=
  onPkgMem p (fun x =>
    let y := x.budget die
    if die < 20 ∧ 3 ≤ y.missing ∧ !y.silent then dieSilent (x.setBudget die { y with silent := true }) die y.missing else x) s

/-! ## Flits (R61, R62, R154, R155) -/

/-- A packet reaches its destination die: a budget message is applied there, a die report taken by the hub (R77). -/
def ringDeliver (p : Package) (d : Nat) (b : Bytes) : Package :=
  let body := b.drop 8
  if byteAt body 0 = 1 then budgetMessage p d body
  else if byteAt body 0 = 2 ∧ d = hubDieId p then dieReport p body
  else p

/-- A packet that a VC of a port has received whole goes on: to the queue of its next hop, still in its buffer, or to this die, and its
credits are owed (R66, R155). -/
def ringArrive (p : Package) (d q v : Nat) : Package :=
  let x := p.link d q
  match wholePacket x v with
  | none => p
  | some b =>
    let p := p.setLink d q { x with rxBuf := mset x.rxBuf v [] }
    match ringQueue p d b (some (q, v)) with
    | (p, true) => p
    | (p, false) =>
      let x := p.link d q
      ringDeliver (p.setLink d q { x with owed := mupd 0 x.owed v (· + ringCredits b) }) d b

/-- FLIT_RECEIVE: one slice for each active module; a failed slice discards the flit and asks for a replay (R61–R63). -/
def flitReceive (p : Package) (d q : Nat) (f : Flit) : Package :=
  let x := p.link d q
  let ms := x.active
  if f.slices.length ≠ ms.length ∨ ms.isEmpty ∨ diePorts d ≤ q then p
  else
    let bad := (ms.zip f.slices).filterMap fun e => if sliceOk e.2 then none else some e.1
    if bad.isEmpty then
      pump (ringArrive (p.setLink d q (x.take (flitData f))) d q (fld (fieldAt (flitData f) 0 4) 19 17)) d
    else slicesFail p d q bad

/-- FLIT_RECEIVE (R62). -/
def execFlitReceive (p die port : Nat) (flit : Flit) (s : State) : Res := onPkgMem p (fun x => flitReceive x die port flit) s

/-- FLIT_REPLAY_REQUEST (R62). -/
def execFlitReplayRequest (p die port ack : Nat) (s : State) : Res :=
  onPkg p (fun x => if port < diePorts die then pump (x.setLink die port ((x.link die port).replayFrom (ack % 256))) die else x) s

/-- MODE_CHANGE_DONE: the islands have moved to the new mode (R76). -/
def execModeChangeDone (p : Nat) (s : State) : Res :=
  onPkg p (fun x => { x with dies := { x.dies with changing := false } }) s

/-! ## BRAKE_N (R355) -/

/-- The package is held in reset. -/
def Package.inReset (p : Package) : Bool :=
  match p.base.kin.phase with
  | .inReset _ => true
  | _ => false

/-- BRAKE_ASSERT: every die halves its budget, and the cap with the brake term goes into the next message (R353, R355,
R370). A package in reset ignores the pin. -/
def brakeAssert (p : Package) : Package :=
  if p.inReset ∨ p.base.pins.brake then p
  else
    let p : Package := { p with base := { p.base with pins := { p.base.pins with brake := true } } }
    let p := (List.range 20).foldl (fun p d => p.setBudget d { p.budget d with halved := true }) p
    let p := (p.wrF (pw Off.THERMAL_STAT) 0 0 1).count (pw Off.BRAKE_CNT)
    capEvaluate (raise p powerPage 2 {})

/-- BRAKE_RELEASE: the dies halve no longer from the next budget message on (R355). -/
def brakeRelease (p : Package) : Package :=
  let p : Package := { p with base := { p.base with pins := { p.base.pins with brake := false } } }
  p.wrF (pw Off.THERMAL_STAT) 0 0 0

/-! ## Load notices (R361, R362) -/

/-- The notice in force lifts the slew term; one of POWER 0 lifts it until the next evaluation. -/
def putInForce (p : Package) (n : Notice) : Package :=
  let p : Package := { p with pwr := { p.pwr with
    notice := some { n with inForce := true, started := p.base.gtime }, noSlew := p.pwr.noSlew || decide (n.power = 0) } }
  p.wrF (pw Off.NOTICE_GRANT) 16 16 1

/-- NOTICE_GRANT of a notice (R362). -/
def noticeGrant (p : Package) (n : Notice) : Nat :=
  let now := p.base.gtime
  let tfc := forecast p (n.atNs - now)
  let still := learning p && (decide (n.atNs < p.pwr.learnStart + 10000000000)
    || decide (p.rdF (pw Off.FANTAIL_STAT) 31 16 + (n.atNs - now) / 10000000 < 500))
  let caps := [capTc p, capHost p, max 400 (capDieAt p tfc), max 400 (capStackAt p tfc)]
    ++ (if still then [learnTerm p] else [])
  let least := leastOf 1600 caps
  if braked p then least / 2 else least

/-- A notice is armed: it replaces the one held, is forwarded and granted, and takes effect at once where AT is less than 10 ms
ahead (R362, R411). -/
def armNotice (p : Package) : Package :=
  let w := fun (i : Nat) => p.rd (pw Off.LOAD_NOTICE + 4 * i)
  let n : Notice :=
    { atNs := w 0 + w 1 * 2 ^ 32, power := min 1600 (fld (w 2) 15 0), pitch := fld (w 2) 27 16, durMs := fld (w 3) 15 0,
      inForce := false, started := 0 }
  let p := p.mapBase fun b => sendTc b 0x05 (le 4 (w 0) ++ le 4 (w 1) ++ le 4 (w 2) ++ le 4 (w 3))
  let p : Package := { p with pwr := { p.pwr with notice := some n } }
  let p := p.wr (pw Off.NOTICE_GRANT) (noticeGrant p n)
  if n.atNs < p.base.gtime + 10000000 then raise (putInForce p n) powerPage 7 {} else p

/-- NOTICE_IN_FORCE (R362). -/
def execNoticeInForce (p : Nat) (s : State) : Res :=
  onPkg p (fun x => match x.pwr.notice with
    | some n => if n.inForce then x else putInForce x n
    | none => x) s

/-- NOTICE_EXPIRE: a notice with a duration ends (R362). -/
def noticeExpire (p : Package) : Package :=
  match p.pwr.notice with
  | some n =>
    if n.inForce ∧ n.durMs ≠ 0 then { p.wrF (pw Off.NOTICE_GRANT) 16 16 0 with pwr := { p.pwr with notice := none } } else p
  | none => p

/-- NOTICE_EXPIRE (R362). -/
def execNoticeExpire (p : Nat) (s : State) : Res := onPkg p noticeExpire s

/-! ## The critical condition (R365, R366) -/

/-- THERMAL_CRITICAL: a thermal cap has stayed below 400 W; every hosted pitch is struck (R365, R370). -/
def thermalCritical (p : Package) : Package :=
  if p.pwr.criticalSince.isNone ∨ bitOf (p.rd (pw Off.THERMAL_STAT)) 1 then p
  else
    let p := (p.wrF (pw Off.THERMAL_STAT) 1 1 1).count (pw Off.CRITICAL_CNT)
    let p := raise p powerPage 3
      { c2 := p.pwr.capDie % 2 ^ 11 + p.pwr.capStack % 2 ^ 11 * 2 ^ 16, c3 := p.rdF (pw Off.T_IN) 31 16 }
    let p := capEvaluate p
    (p.hub.hosted.map fun e => e.1).foldl (fun p q => hubStrike p 2 3 q) p

/-- THERMAL_CRITICAL (R365). -/
def execThermalCritical (p : Nat) (s : State) : Res := onPkgMem p thermalCritical s

/-- CRITICAL_CLEAR: both thermal caps have stayed at or above 400 W (R366). -/
def execCriticalClear (p : Nat) (s : State) : Res :=
  onPkg p (fun x => if x.pwr.okSince.isSome then x.wrF (pw Off.THERMAL_STAT) 1 1 0 else x) s

end Sys2Proof.Machine
end

