-- ==== Sys2Proof/Machine/Phase.lean ====
section
/-! DEFINITION. Where an element stands between reset and service: the phase, shown in KINDLE_STAT and BRINGUP_STAT of a
package and in MSP_STATUS of both (R301, R305, R318, R323, R408). -/

namespace Sys2Proof.Machine

/-- A field of the MSP status word set (R408). -/
def mspF (b : Base) (hi lo v : Nat) : Base := { b with msp := { b.msp with status := w32 (setFld b.msp.status.toNat hi lo v) } }

/-- A field of a package's kindling page set; a Weir has no such page (R318, R322). -/
def kindleF (b : Base) (off hi lo v : Nat) : Base := if b.isWeir then b else wrF b (kindlePage + off) hi lo v

/-- The kindling phase shown, 0 for complete (R318, R408). -/
def showKPhase (b : Base) (n : Nat) : Base := mspF (kindleF b Off.KINDLE_STAT 2 0 n) 2 0 n

/-- The bring-up step shown (R318, R408). -/
def showStep (b : Base) (n : Nat) : Base := mspF (kindleF b Off.BRINGUP_STAT 2 0 n) 5 3 n

/-- The result shown (R314, R408). -/
def showResult (b : Base) (n : Nat) : Base := mspF (kindleF b Off.BRINGUP_STAT 4 3 n) 7 6 n

/-- HOLDING shown (R305, R408). -/
def showHolding (b : Base) (on : Bool) : Base := mspF (kindleF b Off.BRINGUP_STAT 6 6 (b2n on)) 10 10 (b2n on)

/-- The hub, or the Weir image, runs (R408). -/
def hubRuns (b : Base) : Bool := bitOf b.msp.status.toNat 8

/-- The phase replaced. -/
def setPhase (b : Base) (x : Phase) : Base := { b with kin := { b.kin with phase := x } }

/-- Bring-up step `n` begins (R306). -/
def beginStep (b : Base) (n : Nat) : Base := showStep (setPhase b (.bringup n)) n

/-! ## Time that counts (R308, R317) -/

/-- A wait begins that the bring-up bounds exclude; a wait ends (R301, R308; log 55). -/
def startWait (b : Base) : Base :=
  { b with kin := { b.kin with waitStart := some (b.kin.waitStart.getD b.time.raw) } }
def endWait (b : Base) : Base :=
  match b.kin.waitStart with
  | some t => { b with kin := { b.kin with waitStart := none, waited := b.kin.waited + (b.time.raw - t) } }
  | none => b

/-- Milliseconds from the release of reset, waits excluded. -/
def countedMs (b : Base) : Nat := (b.time.raw - b.kin.resetEnd - b.kin.waited) / 1000000

/-! ## Holding and sealing -/

/-- The hold ends, and bring-up starts (R305). -/
def releaseHold (p : Package) : Package :=
  if p.base.kin.phase = .held then p.mapBase fun b => beginStep (endWait (showHolding b false)) 1 else p

/-- The package's fuses say that it is sealed (R458). -/
def isSealed (p : Package) : Bool := bitOf (p.rd (pg 3 1 + Off.ID_FLAGS)) 8

/-- A sealed package that has kindled, or kindles, refuses every write (R462). -/
def sealedShut (p : Package) : Bool :=
  isSealed p && (match p.base.kin.phase with
    | .kindling _ => true
    | .kindleStuck => true
    | _ => false)

end Sys2Proof.Machine
end

