-- ==== Sys2Proof/Machine/Windows.lean ====
section
/-! DEFINITION. Control objects: connection, group and management windows, peg allocations, host rings, the mailbox, the ring
and seal selections, each as a control write changes it and a read shows it (R51, R148, R211, R233, R259, R328–R337, R344, R400,
R442, R461). -/

namespace Sys2Proof.Machine

/-- A control write of a register: the package after it, or the reason of its refusal (R52). -/
abbrev Wr := Except Nat Package

/-- Which copy of a selection a source uses: PCIe 0, the hub and its CS window 1, the fabric 2 (R233, R409). -/
def copyOf : Src → Nat
  | .hub => 1
  | .cs => 1
  | .fabric _ _ _ => 2
  | .pf => 0
  | .vf _ => 0
  | .endpointB => 0

/-! ## Connection window (R233) -/

/-- The connection that a source has selected on link die `d`. -/
def selConn (p : Package) (src : Src) (d : Nat) : Nat := 2048 * d + mget 0 p.fab.connSel (4 * d + copyOf src)

/-- A context's CONN_CTL as it reads. -/
def connCtl (x : Conn) : Nat :=
  x.pitch + b2n x.target * 2 ^ 12 + b2n x.ordered * 2 ^ 13 + b2n x.commit * 2 ^ 16 + b2n x.broken * 2 ^ 17

/-- The context has traffic outstanding: a queued descriptor, a read tag, charge, or acknowledgements not sent. -/
def connTraffic (x : Conn) : Bool := !x.queue.isEmpty || !x.unacked.isEmpty || !x.reading.isEmpty || decide (x.toAck ≠ 0)

/-- A context that commits: its window opens at INIT_CREDITS, and nothing is outstanding (R206, R223, R226). -/
def connCommit (p : Package) (c : Nat) (x : Conn) : Conn :=
  { x with
    commit := true, broken := false, window := p.rdF (rmaPage (connDie c) + Off.RMA_WIN) 6 0, retries := 0
    lastAcked := (x.psn + 2 ^ 24 - 1) % 2 ^ 24, grown := 0, halvePsn := x.psn, queue := [], unacked := [], reading := [], reject := 0
    oooAnswered := none, marked := [], toAck := 0, loopExpect := x.psn, retxActed := [] }

/-- A write of CONN_CTL (R51, R233). -/
def connCtlWrite (p : Package) (c v : Nat) : Wr :=
  let x := p.conn c
  let y := { x with pitch := fld v 11 0, target := bitOf v 12, ordered := bitOf v 13 }
  if x.commit then
    if bitOf v 16 then (if y = x then .ok p else .error 5)
    else if connTraffic x then .error 1
    else .ok (notePlanes p (p.setConn c { y with commit := false, broken := false }))
  else .ok (notePlanes p (p.setConn c (if bitOf v 16 then connCommit p c y else y)))

/-- A write of the connection window (R233). -/
def connWrite (p : Package) (src : Src) (d off v : Nat) : Wr :=
  let c := selConn p src d
  let x := p.conn c
  if off = Off.CONN_SEL then
    .ok { p with fab := { p.fab with connSel := mset p.fab.connSel (4 * d + copyOf src) (fld v 10 0) } }
  else if off = Off.CONN_CTL then connCtlWrite p c v
  else if off = Off.CONN_PEER then
    if x.commit then .error 5
    else .ok (p.setConn c { x with
      peerRack := fld v 3 0, peerSlot := fld v 9 4, plane := min 8 (fld v 13 10), spray := fld v 24 16 })
  else if off = Off.CONN_PSN then (if x.commit then .error 5 else .ok (p.setConn c { x with psn := fld v 23 0 }))
  else .ok p

/-- A read of the connection window (R233). -/
def connRead (p : Package) (src : Src) (d off : Nat) : Nat :=
  let c := selConn p src d
  let x := p.conn c
  if off = Off.CONN_SEL then mget 0 p.fab.connSel (4 * d + copyOf src)
  else if off = Off.CONN_CTL then connCtl x
  else if off = Off.CONN_PEER then x.peerRack + x.peerSlot * 2 ^ 4 + x.plane * 2 ^ 10 + x.spray * 2 ^ 16
  else if off = Off.CONN_PSN then x.psn
  else if off = Off.CONN_STATE then
    x.window % 2 ^ 7 + min 1024 (outstanding x.unacked / 256) * 2 ^ 8 + min 15 x.retries * 2 ^ 20
  else if off = Off.CONN_ACK then (if x.target then x.lastAcked else (x.unacked.head?.map Pkt.psn).getD x.psn)
  else if off = Off.CONN_QUEUED then x.queue.length
  else 0

/-! ## Group window (R259) -/

/-- The group that a source has selected on link die `d`. -/
def selGrp (p : Package) (src : Src) (d : Nat) : Nat := 1024 * d + mget 0 p.fab.grpSel (4 * d + copyOf src)

/-- A COLL descriptor on the group is queued or runs (R238). -/
def grpRuns (x : Grp) : Bool := x.run.isSome || !x.queue.isEmpty

/-- A write of GRP_CTL (R51, R238, R259). What a PUSH of another member commits here is the membership before the next PUSH
(R237; log 163). -/
def grpCtlWrite (p : Package) (src : Src) (g v : Nat) : Wr :=
  let x := p.grp g
  let y := { x with pitch := fld v 11 0, countsFirst := bitOf v 18, drop := bitOf v 19 }
  if x.commit then
    if bitOf v 16 then (if y = x then .ok p else .error 5)
    else if grpRuns x then .error 1
    else .ok (p.setGrp g { y with commit := false })
  else if bitOf v 16 then .ok (p.setGrp g { y with
      commit := true, broken := false, brokenSeq := none, lastDone := none, dropped := 0,
      oldMembers := (if copyOf src = 2 then x.members else x.oldMembers) })
  else .ok (p.setGrp g y)

/-- A write of an object field of a group that is not committed (R51). -/
def grpField (p : Package) (g : Nat) (f : Grp → Grp) : Wr :=
  if (p.grp g).commit then .error 5 else .ok (p.setGrp g (f (p.grp g)))

/-- A write of the group window (R236, R259). -/
def grpWrite (p : Package) (src : Src) (d off v : Nat) : Wr :=
  let g := selGrp p src d
  if off = Off.GRP_SEL then
    .ok { p with fab := { p.fab with grpSel := mset p.fab.grpSel (4 * d + copyOf src) (fld v 9 0) } }
  else if off = Off.GRP_CTL then grpCtlWrite p src g v
  else if off = Off.GRP_PLANES then grpField p g fun x => { x with planes := if fld v 8 0 = 0 then 1 else fld v 8 0 }
  else if off = Off.GRP_DEADLINE then grpField p g fun x => { x with deadline := clip 10 10000000 (fld v 23 0) }
  else if off = Off.GRP_SEQ then grpField p g fun x => { x with seq := fld v 15 0 }
  else if off = Off.GRP_CMD then .ok (if fld v 1 0 = 1 then pushGroup p g else p)
  else if Off.GRP_MEMBERS ≤ off ∧ off < Off.GRP_MEMBERS + 0x80 then
    let lo := 8 * (off - Off.GRP_MEMBERS)
    grpField p g fun x => { x with members := setFld x.members (lo + 31) lo v }
  else .ok p

/-- A read of the group window (R259). -/
def grpRead (p : Package) (src : Src) (d off : Nat) : Nat :=
  let x := p.grp (selGrp p src d)
  let map := fun (m base : Nat) => fld m (8 * (off - base) + 31) (8 * (off - base))
  if off = Off.GRP_SEL then mget 0 p.fab.grpSel (4 * d + copyOf src)
  else if off = Off.GRP_CTL then
    x.pitch + b2n x.commit * 2 ^ 16 + b2n x.broken * 2 ^ 17 + b2n x.countsFirst * 2 ^ 18 + b2n x.drop * 2 ^ 19
  else if off = Off.GRP_PLANES then x.planes
  else if off = Off.GRP_DEADLINE then x.deadline
  else if off = Off.GRP_SEQ then x.seq
  else if off = Off.GRP_RANK then rankOf x.members p.index % 2 ^ 10 + sizeOf' x.members * 2 ^ 16
  else if off = Off.GRP_CMD then b2n x.busy * 2 ^ 8 + b2n x.failed * 2 ^ 9
  else if Off.GRP_MEMBERS ≤ off ∧ off < Off.GRP_MEMBERS + 0x80 then map x.members Off.GRP_MEMBERS
  else if Off.GRP_MISSING ≤ off ∧ off < Off.GRP_MISSING + 0x80 then map x.missing Off.GRP_MISSING
  else if Off.GRP_DROPPED ≤ off ∧ off < Off.GRP_DROPPED + 0x80 then map x.dropped Off.GRP_DROPPED
  else 0

/-! ## Management window (R211) -/

/-- A write of the management window: only its selection is writable. -/
def mgmtWrite (p : Package) (src : Src) (d off v : Nat) : Wr :=
  if off = Off.MGMT_SEL then
    .ok { p with fab := { p.fab with mgmtSel := mset p.fab.mgmtSel (4 * d + copyOf src) (fld v 9 0) } }
  else .ok p

/-- A read of the management window. -/
def mgmtRead (p : Package) (src : Src) (d off : Nat) : Nat :=
  let i := mget 0 p.fab.mgmtSel (4 * d + copyOf src)
  let x := p.mg i
  if off = Off.MGMT_SEL then i
  else if off = Off.MGMT_STAT then
    b2n x.valid + b2n x.broken * 2 + x.port * 2 ^ 2 + x.genOut * 2 ^ 8 + x.genIn * 2 ^ 16
  else if off = Off.MGMT_NEXT_PSN then x.nextPsn
  else if off = Off.MGMT_EXPECT_PSN then x.expectPsn
  else if off = Off.MGMT_ESTAB_CNT then x.estab
  else 0

/-! ## Peg allocations (R148, R150) -/

/-- A write of PEG_ALLOC of package peg `n`. -/
def pegAllocWrite (p : Package) (n v : Nat) : Wr :=
  let a := pegAllocReg n
  let old := p.rd a
  let new := v % 2 ^ 13 + b2n (bitOf v 16) * 2 ^ 16
  if bitOf old 16 then
    if bitOf v 16 then (if new = old then .ok p else .error 5)
    else if (p.peg n).waiters.isEmpty then .ok (p.wr a new)
    else .error 1
  else .ok (p.wr a new)

/-! ## Host hoppers and rings (R328–R335, R344) -/

/-- A ring size that its ring accepts, else the least (R344). -/
def ringSize (lo hi v : Nat) : Nat := if lo ≤ v ∧ v ≤ hi then v else lo

/-- A host hopper has entries that are accepted and not done. -/
def hhOpen (p : Package) (v h : Nat) : Bool := decide (p.rd (hhReg v h Off.HH_ACC) ≠ p.rd (hhReg v h Off.HH_DONE))

/-- A write of HH_CFG: commit needs TILE owned by the function's pitch, uncommit that nothing is open (R328, R344). -/
def hhCfgWrite (p : Package) (v h val : Nat) : Wr :=
  let a := hhReg v h Off.HH_CFG
  let old := p.rd a
  let tile := fld val 11 8
  let new := ringSize 6 12 (fld val 3 0) + tile * 2 ^ 8 + b2n (bitOf val 16) * 2 ^ 16
  if bitOf old 16 then
    if bitOf val 16 then (if new = old then .ok p else .error 5)
    else if hhOpen p v h then .error 1
    else .ok (p.wr a new)
  else if bitOf val 16 then
    if tile < p.tiles ∧ ownerOf p.base (tilePage tile 0) = ownerOf p.base (vfPage v) then
      .ok ((p.wr a new).wrF (hhReg v h Off.HH_STAT) 31 16 0)
    else .error 5
  else .ok (p.wr a new)

/-- RESUME clears a halt, and the hopper goes on (R93, R332). -/
def resumeHop (p : Package) (r : HopRef) : Package := headStep (p.wrF (hopStatReg r) 0 0 0) r

/-- A write of HH_CTL (R332). -/
def hhCtlWrite (p : Package) (v h val : Nat) : Package :=
  let p := p.wrF (hhReg v h Off.HH_CTL) 0 0 (fld val 0 0)
  if bitOf val 1 then resumeHop p (.host v h) else p

/-- A doorbell: accepted within the bounds of R331, ignored with HH_OVERRUN otherwise, and ignored in D3hot (R324). -/
def hhPosted (p : Package) (v h val : Nat) : Package :=
  let cfg := p.rd (hhReg v h Off.HH_CFG)
  let acc := p.rd (hhReg v h Off.HH_ACC)
  let posted := hhReg v h Off.HH_POSTED
  if p.host.d3.contains v then p
  else if bitOf cfg 16 ∧ serialDist 32 val acc ≤ 2 ^ fld cfg 3 0 ∧ serialDist 32 val (p.rd posted) < 2 ^ 31 then p.wr posted val
  else raise p (vfPage v) (4 + h) { c2 := val, c3 := acc }

/-- A write of HH_ACC: while not committed it sets POSTED, ACC and DONE (R330). -/
def hhAcc (p : Package) (v h val : Nat) : Wr :=
  if bitOf (p.rd (hhReg v h Off.HH_CFG)) 16 then .error 5
  else .ok (touchShadow (((p.wr (hhReg v h Off.HH_POSTED) val).wr (hhReg v h Off.HH_ACC) val).wr (hhReg v h Off.HH_DONE) val) v)

/-- A write of a host hopper's registers. -/
def hhWrite (p : Package) (v h off val : Nat) : Wr :=
  let committed := bitOf (p.rd (hhReg v h Off.HH_CFG)) 16
  if off = Off.HH_BASE_LO then (if committed then .error 5 else .ok (p.wr (hhReg v h off) (val / 4096 * 4096)))
  else if off = Off.HH_BASE_HI then (if committed then .error 5 else .ok (p.wr (hhReg v h off) val))
  else if off = Off.HH_CFG then hhCfgWrite p v h val
  else if off = Off.HH_CTL then .ok (hhCtlWrite p v h val)
  else if off = Off.HH_POSTED then .ok (hhPosted p v h val)
  else if off = Off.HH_ACC then hhAcc p v h val
  else .ok p

/-- A write of a ring's CFG: size and COMMIT are the object's, HOLDOFF_US is live (R333, R335). -/
def ringCfgWrite (p : Package) (a top lo hi val : Nat) (busy : Bool) : Wr :=
  let old := p.rd a
  let size := ringSize lo hi (fld val top 0)
  let new := size + b2n (bitOf val 8) * 2 ^ 8 + fld val 25 16 * 2 ^ 16
  if bitOf old 8 then
    if bitOf val 8 then (if size = fld old top 0 then .ok (p.wr a new) else .error 5)
    else if busy then .error 1
    else .ok (p.wr a new)
  else .ok (p.wr a new)

/-- A write of HCQ_CFG (R333, R344). -/
def hcqCfgWrite (p : Package) (v val : Nat) : Wr :=
  (ringCfgWrite p (vfPage v + Off.HCQ_CFG) 4 8 16 val ((List.range 4).any (hhOpen p v))).map fun p => hostDrain p v

/-- A write of HEQ_CFG (R335, R344). -/
def heqCfgWrite (p : Package) (v val : Nat) : Wr :=
  (ringCfgWrite p (vfPage v + Off.HEQ_CFG) 3 6 12 val false).map fun p => eventDrain p v

/-- A write of a ring's PROD: while not committed it also sets CONS (R344). -/
def ringProd (p : Package) (v prod cons cfg val : Nat) : Wr :=
  let a := vfPage v
  if bitOf (p.rd (a + cfg)) 8 then .error 5 else .ok (touchShadow ((p.wr (a + prod) val).wr (a + cons) val) v)

/-- A word of a WIN_BASE without the bits below the BAR2 size, and of 48 bits in all (R343, R344). -/
def winTrim (p : Package) (high : Bool) (v : Nat) : Nat :=
  let low := 2 ^ (28 + p.host.cfgBar2)
  if high then v * 2 ^ 32 / low * low / 2 ^ 32 % 2 ^ 16 else v / low * low

/-- A write of a VF page's own registers (R344). -/
def vfWrite (p : Package) (v off val : Nat) : Wr :=
  let a := vfPage v
  let ringBase := fun (cfg low : Nat) => if bitOf (p.rd (a + cfg)) 8 then (.error 5 : Wr) else .ok (p.wr (a + off) (val / low * low))
  if 0x80 ≤ off ∧ off < 0x180 then hhWrite p v ((off - 0x80) / 0x40) (0x80 + (off - 0x80) % 0x40) val
  else if off = Off.HCQ_BASE_LO then ringBase Off.HCQ_CFG 4096
  else if off = Off.HCQ_BASE_HI then ringBase Off.HCQ_CFG 1
  else if off = Off.HCQ_CFG then hcqCfgWrite p v val
  else if off = Off.HCQ_PROD then ringProd p v Off.HCQ_PROD Off.HCQ_CONS Off.HCQ_CFG val
  else if off = Off.HCQ_CONS then .ok (hostDrain (p.wr (a + off) val) v)
  else if off = Off.HEQ_BASE_LO then ringBase Off.HEQ_CFG 4096
  else if off = Off.HEQ_BASE_HI then ringBase Off.HEQ_CFG 1
  else if off = Off.HEQ_CFG then heqCfgWrite p v val
  else if off = Off.HEQ_PROD then ringProd p v Off.HEQ_PROD Off.HEQ_CONS Off.HEQ_CFG val
  else if off = Off.HEQ_CONS then .ok (eventDrain (p.wr (a + off) val) v)
  else if off = Off.SHADOW_BASE_LO then .ok (p.wr (a + off) (val / 64 * 64))
  else if off = Off.SHADOW_BASE_HI then .ok (p.wr (a + off) val)
  else if off = Off.SHADOW_CTL then .ok (touchShadow (p.wr (a + off) (val % 2)) v)
  else if off = Off.VF_WIN_BASE then .ok (p.wr (a + off) (winTrim p false val))
  else if off = Off.VF_WIN_BASE + 4 then .ok (p.wr (a + off) (winTrim p true val))
  else .ok p

/-! ## The mailbox (R337) -/

/-- The 32 bytes of MBOX_CMD. -/
def mboxBytes (p : Package) : Bytes := (List.range 8).flatMap fun i => le 4 (p.rd (pfPage + Off.MBOX_CMD + 4 * i))

/-- BUSY of the mailbox, and OVERRUN set. -/
def mboxBusy (p : Package) : Bool := bitOf (p.rd (pfPage + Off.MBOX_CTL)) 1
def mboxOverrun (p : Package) : Package := p.wrF (pfPage + Off.MBOX_CTL) 3 3 1

/-- How many pitch commands (TYPE 0x83) stand whole in the words of an inbox, `fuel` messages at most (R411). -/
def pitchMessages : Nat → List Word → Nat
  | 0, _ => 0
  | _, [] => 0
  | fuel + 1, w :: ws =>
    let n := fld w.toNat 15 0
    if ws.length < n then 0 else b2n (decide (fld w.toNat 31 24 = 0x83)) + pitchMessages fuel (ws.drop n)

/-- The pitch commands that wait in a package's inbox. -/
def inboxCommands (p : Package) : Nat := pitchMessages p.base.msp.inbox.length p.base.msp.inbox

/-- A GO: the hub copies the command, unless one runs; the commands in the inbox arrived before it (R264, R337). -/
def mboxGo (p : Package) : Package :=
  if mboxBusy p then mboxOverrun p
  else
    let p := p.wrF (pfPage + Off.MBOX_CTL) 1 1 1
    { p with host := { p.host with mboxCmd := some (mboxBytes p), mboxAfter := inboxCommands p } }

/-- A write of MBOX_CTL: MSIX_VEC is stored, DONE and OVERRUN clear where written 1, GO acts. -/
def mboxCtlWrite (p : Package) (v : Nat) : Package :=
  let a := pfPage + Off.MBOX_CTL
  let p := (p.wr a (mergeBits (p.rd a) 0 (v % 16 / 4 * 4))).wrF a 26 16 (fld v 26 16)
  if bitOf v 0 then mboxGo p else p

/-! ## Ring selection and the seal page (R442, R461) -/

/-- The record of an RSEQ the ring holds, else zeros (R442). -/
def ringRecordOf (p : Package) (rseq : Nat) : Bytes := (mfind rseq p.hub.ring).getD (zeros 32)

/-- A write of RING_SEL: its source's copy selects, and its record is latched. -/
def ringSelWrite (p : Package) (src : Src) (v : Nat) : Package :=
  { p with hub := { p.hub with
    ringSel := mset p.hub.ringSel (copyOf src) v, ringLatch := mset p.hub.ringLatch (copyOf src) (ringRecordOf p v) } }

/-- STATE of the seal (R461). -/
def sealState (p : Package) : Nat := p.rdF (hubPage 4 + Off.SEAL_STAT) 2 0

/-- Step 1 of a return seal: a package strike by requester 1, marked as made from the seal page (R460). -/
def sealGo (p : Package) : Package :=
  let p := p.wrF (hubPage 4 + Off.SEAL_STAT) 2 0 1
  let sid := p.hub.nextSid
  let p := beginStrike p (newStrike p (hubPage 4) 5 5 0 0 1)
  { p with sealed := { p.sealed with sid := some sid } }

/-- Bits [63:0] of the SHA-384 digest in a bundle's trailer, whose 48 bytes stand before the 96 of the signature: its last eight bytes,
the digest read as one big-endian number (R460; log 78). -/
def bundleDigest64 (b : Bytes) : Nat := ofLe (((b.drop (b.length - 104)).take 8).reverse)

/-- Step 4: one more SEAL_CNT bit, the time and the bundle's digest are burnt (R458, R460). -/
def sealBurn (p : Package) : Package :=
  let f := pg 3 1
  let d := bundleDigest64 p.sealed.bundle
  let flags := p.rd (f + Off.ID_FLAGS)
  let cnt := fld flags 3 0 * 2 % 16 + 1
  let p := p.wr (f + Off.ID_FLAGS) (setBit (setFld flags 3 0 cnt) 8 (decide (popcount (fld flags 7 4) 4 < popcount cnt 4)))
  let p := p.wr (f + Off.SEAL_TIME) (p.base.gtime / 1000000000)
  let p := (p.wr (f + Off.SEAL_DIGEST_LO) (d % 2 ^ 32)).wr (f + Off.SEAL_DIGEST_HI) (d / 2 ^ 32)
  p.wrF (hubPage 4 + Off.SEAL_STAT) 2 0 5

/-- A write of SEAL_CTL, which only the CS window stores (R461). -/
def sealCtlWrite (p : Package) (v : Nat) : Package :=
  let st := sealState p
  let p := p.wr (hubPage 4 + Off.SEAL_CTL) (v / 2 ^ 8 * 2 ^ 8)
  if bitOf v 0 ∧ st = 0 then sealGo p else if bitOf v 1 ∧ st = 3 then sealBurn p else p

/-- A write of SEAL_OFFSET latches 32 bytes of the bundle, zero beyond it (R461). -/
def sealOffset (p : Package) (v : Nat) : Package :=
  let off := fld v 19 5 * 32
  let p := p.wr (hubPage 4 + Off.SEAL_OFFSET) off
  (List.range 8).foldl (fun p i => p.wr (hubPage 4 + Off.SEAL_DATA + 4 * i) (fieldAt p.sealed.bundle (off + 4 * i) 4)) p

end Sys2Proof.Machine
end

