-- ==== Sys2Proof/Machine/Control.lean ====
section
/-! DEFINITION. Control-space access: faults, refusals, the storing of fields, what a write starts, what a read shows
(R11, R31–R56, R76, R163, R167, R324, R325, R409, R462). -/

namespace Sys2Proof.Machine

/-- How a control-space access ends: done, with a fault (R33), or refused with a reason (R52). -/
inductive Answer where
  | done | fault | refused (reason : Nat)
  deriving DecidableEq, Repr

/-! ## Faults (R33, R35) -/

/-- The page of a class and instance is implemented; those of hidden logical tiles are not (R32, R313). -/
def pageThere (p : Package) (cls inst : Nat) : Bool :=
  (pageKind p.hubL1 cls inst).isSome
    && (decide (¬(0x10 ≤ cls ∧ cls ≤ 0x1F)) || decide (cls - 0x10 < p.tiles)) && (decide (cls ≠ 0x30) || decide (inst < p.tiles))

/-- The debug boundary is open (R463). -/
def debugOpen (p : Package) : Bool := bitOf (p.rd (pg 3 1 + Off.ID_FLAGS)) 9

/-- The REASON of a control-space fault; 0 for none (R33, R35). -/
def faultReason (p : Package) (a size : Nat) : Nat :=
  if 2 ^ 26 ≤ a then 3
  else if !pageThere p (clsOf a) (instOf a) then 1
  else if (size ≠ 4 ∧ size ≠ 8) ∨ a % size ≠ 0 then 2
  else if clsOf a = 0x3F ∧ 0x80 ≤ offOf a ∧ !debugOpen p then 4
  else 0

/-- SOURCE of a fault (R35). -/
def faultSource : Src → Nat
  | .fabric _ _ _ => 1
  | .cs => 2
  | .hub => 3
  | .pf => 0
  | .vf _ => 0
  | .endpointB => 0

/-- A fault is counted and recorded, whatever FREEZE holds (R35). -/
def ctlFault (p : Package) (src : Src) (a reason : Nat) : Package :=
  let p := p.mapBase fun b => bumpSat b (hubPage 0 + Off.CTL_FAULT_CNT) 1
  p.wr (hubPage 0 + Off.CTL_FAULT_INFO) (a % 2 ^ 26 + reason * 2 ^ 26 + faultSource src * 2 ^ 30)

/-! ## Storing fields (R11, R54) -/

/-- The block events a page kind defines; a bit it does not define reads 0 (R42). -/
def PKind.evtMask : PKind → Nat
  | .hubMgmt => 0x3
  | .hubRing => 0x7
  | .ember => 0x1
  | .kindle => 0xF
  | .power => 0x1FF
  | .pf => 0x4007
  | .vf => 0x7FFF
  | .tile0 => 0x3F
  | .tile1 => 0xFF
  | .tile2 => 0x3
  | .tile4 => 0x1
  | .tile8 => 0x3
  | .memStack => 0x1F
  | .mem0 => 0x18
  | .linkRsv0 => 0x18
  | .pegs => 0x1
  | .route0 => 0x3
  | .link1 => 0x3
  | .port => 0xFF
  | .rma => 0xF
  | .grp => 0x1F
  | .hub0 | .hubRsv | .linkRsv | .tile9 | .memRsv | .routeTab | .routeRsv | .mgmt | .conn | .tile5 | .fuse0 | .fuse3
  | .ltile | .tile3 | .hifRsv | .diePwr | .fuse2 | .hubSeal | .fuse1 | .debug => 0

/-- The events of a page that EVT_EN and EVT_FORCE reach (R42). -/
def evtBits (k : PKind) (v : Nat) : Nat := v &&& (k.evtMask + 7 * 2 ^ 24)

/-- A field of a number changed by `f`. -/
def onField (v hi lo : Nat) (f : Nat → Nat) : Nat := setFld v hi lo (f (fld v hi lo))

/-- The value written after its register's own storing rule: clipped, defaulted, or the old value where it is reserved
(R111, R130, R200, R231, R343, R350, R356, R361). -/
def storeRule (p : Package) (a : Nat) (k : PKind) (off old v : Nat) : Nat :=
  match k with
  | .tile1 => if (off - Off.HOP_CFG) % 0x20 = 0 ∧ Off.HOP_CFG ≤ off then onField v 3 0 (ringSize 6 12) else v
  | .port => if off = Off.PORT_HOLD then onField v 16 0 (clip 100 100000) else v
  | .rma =>
    let l1 := decide (clsOf a = 0x21)
    if off = Off.RMA_RETRY then onField v 15 0 (clip 100 60000)
    else if off = Off.RMA_WIN then onField v 6 0 (clip 1 64)
    else if l1 && (off = Off.STALL_LIMIT || off = Off.STALL_DESC + 4) then old
    else v
  | .mem0 =>
    if off = Off.MEM_CFG then onField v 5 4 (fun x => if clsOf a = 0x23 ∨ 2 ≤ x then 0 else x) else v
  | .pf =>
    if off = Off.HIF_CFG then onField (onField v 4 0 (min 16)) 11 8 (min 8)
    else if off = Off.PF_WIN_BASE then winTrim p false v
    else if off = Off.PF_WIN_BASE + 4 then winTrim p true v
    else v
  | .power =>
    if off = Off.CAP_TC ∨ off = Off.CAP_HOST then onField v 10 0 (clip 400 1600)
    else if off = Off.FANTAIL_CFG then
      let fuse := pg 3 2 + Off.T_FUSE
      onField (onField v 7 0 (min (p.rdF fuse 7 0))) 23 16 (min (p.rdF fuse 23 16 - 5))
    else if off = Off.LOAD_NOTICE + 8 then onField v 15 0 (min 1600)
    else v
  | _ => v

/-- One field of a register after a write by a source: stored, cleared, set, or left (R11). -/
def storeField (msp : Bool) (old v acc : Nat) (f : RField) : Nat :=
  let x := fld v f.hi f.lo
  let o := fld old f.hi f.lo
  match f.acc with
  | .rw => setFld acc f.hi f.lo x
  | .rwl => setFld acc f.hi f.lo x
  | .w1c => setFld acc f.hi f.lo (mergeBits o 0 x)
  | .w1s => setFld acc f.hi f.lo (o ||| x)
  | .rwMsp => if msp then setFld acc f.hi f.lo x else acc
  | .w1sMsp => if msp then setFld acc f.hi f.lo (o ||| x) else acc
  | .ro => acc
  | .wo => acc

/-- The value a write leaves in a register. -/
def storeRow (src : Src) (r : RegRow) (old v : Nat) : Nat :=
  r.fields.foldl (storeField (decide (src = .cs)) old v) old

/-- The write would change a quiesce-only field; a write-only one always counts as changed (R54). -/
def changesQuiesce (r : RegRow) (old new : Nat) : Bool :=
  r.fields.any fun f => f.quiesce && (f.acc = .wo || decide (fld old f.hi f.lo ≠ fld new f.hi f.lo))

/-- The pages a register's quiesce-only change needs quiesced: its own; every die page for the clock mode (R76); both memory
dies' for the interleave (R53). -/
def quiesceOk (p : Package) (page : Nat) (k : PKind) (old new : Nat) : Bool :=
  match k with
  | .power => allDiesQuiesced p
  | .mem0 => quiesced p page && (fld old 5 4 = fld new 5 4 || (quiesced p (pg 0x22 0) && quiesced p (pg 0x23 0)))
  | _ => quiesced p page

/-- A write of a register by its table's row: locked, not quiesced, or stored (R48, R54). -/
def plainWrite (p : Package) (src : Src) (page : Nat) (k : PKind) (off v : Nat) : Wr :=
  let a := page + off
  match rowAt k off with
  | none => .ok p
  | some r =>
    let old := p.rd a
    let new := storeRow src r old (storeRule p a k off old v)
    if (r.fields.any fun f => f.acc = .rwl) && bitOf (p.rd (page + Off.PAGE_CTRL)) 2 then .error 2
    else if changesQuiesce r old new && !quiesceOk p page k old new then .error 1
    else .ok (p.wr a new)

/-! ## Header registers -/

/-- A write of PAGE_CTRL. While a clock mode change runs, the die pages are not enabled (R40, R76). -/
def pageCtrlWrite (free : Nat) (p : Package) (page v : Nat) : Wr :=
  let a := page + Off.PAGE_CTRL
  let cls := clsOf page
  let old := p.rd a
  if bitOf v 0 ∧ p.dies.changing ∧ ((0x10 ≤ cls ∧ cls ≤ 0x1F) ∨ (0x20 ≤ cls ∧ cls ≤ 0x23)) then .error 1
  else
    let p := p.wr a (v % 4 + 4 * b2n (bitOf old 2 || bitOf v 2))
    .ok (if bitOf v 0 = bitOf old 0 then p else enableChanged free p page (bitOf v 0))

/-- A write of STRIKE_CTRL; a refused request leaves LAST_RESULT 3 (R56). -/
def strikeWrite (p : Package) (src : Src) (page v : Nat) : Wr :=
  match strikeCtrlWrite p src page v with
  | some p => .ok p
  | none => .error 4

/-- A write of a header register (R37). -/
def headerWrite (free : Nat) (p : Package) (src : Src) (page : Nat) (k : PKind) (off v : Nat) : Wr :=
  if off = Off.PAGE_CTRL then pageCtrlWrite free p page v
  else if off = Off.EVT_STAT then .ok (clearEvt p page v)
  else if off = Off.EVT_EN then .ok (p.wr (page + off) (evtBits k v))
  else if off = Off.EVT_FORCE then .ok ((bitList (evtBits k v) 27).foldl (fun p i => forceEvt p page i) p)
  else if off = Off.STRIKE_CTRL then strikeWrite p src page v
  else plainWrite p src page k off v

/-! ## Registers whose write starts something -/

/-- A write of a hopper register (R89, R111). -/
def tileHopWrite (p : Package) (src : Src) (page off v : Nat) : Wr :=
  let t := clsOf page - 0x10
  let h := (off - 0x80) / 0x20
  let base := 0x80 + (off - 0x80) % 0x20
  if off < 0x80 + 4 * 0x20 ∧ base = Off.HOP_TAIL then .ok (hopTail p t h v)
  else if off < 0x80 + 4 * 0x20 ∧ base = Off.HOP_CFG then
    (plainWrite p src page .tile1 off v).map fun p => if bitOf v 9 then resumeHop p (.tile t h) else p
  else plainWrite p src page .tile1 off v

/-- A write of a core register (R88, R112). -/
def tileCoreWrite (p : Package) (src : Src) (page off v : Nat) : Wr :=
  let t := clsOf page - 0x10
  let c := (off - 0x80) / 0x10
  (plainWrite p src page .tile2 off v).map fun q =>
    if off < 0xA0 ∧ off % 0x10 = 0 then (if bitOf v 0 then startCore q t c else if bitOf (p.rd (page + off)) 0 then holdCore q t c else q) else q

/-- A write of MEM_CFG: STACK_STAT shows the stacks taken offline (R129, R130). -/
def memCfgWrite (p : Package) (src : Src) (page off v : Nat) : Wr :=
  (plainWrite p src page .mem0 off v).map fun p =>
    if off = Off.MEM_CFG then
      (List.range 4).foldl (fun p i =>
        p.wrF (stackPage (4 * (clsOf page - 0x22) + i) + Off.STACK_STAT) 2 2 (b2n (bitOf (p.rd (page + off)) i))) p
    else p

/-- A write of REPAIR_ADD (R311, R321). -/
def repairWrite (p : Package) (src : Src) (page off v : Nat) : Wr :=
  (plainWrite p src page .tile3 off v).map fun p => if off = Off.REPAIR_ADD then startRepair p (clsOf page - 0x10) v else p

/-- A write of the routing page (R167, R180). -/
def routeWrite (p : Package) (src : Src) (page off v : Nat) : Wr :=
  if off = Off.ROUTE_EPOCH then
    match epochWrite p.base v with
    | some b => .ok (epochSwitched p.epoch { p with base := b })
    | none => .error 5
  else plainWrite p src page .route0 off v

/-- A write of a route entry: those of a sealed epoch are refused (R163, R167). -/
def routeTabWrite (p : Package) (src : Src) (page off v : Nat) : Wr :=
  if Off.ROUTE_ENTRY ≤ off ∧ off < Off.ROUTE_ENTRY + 0x400 ∧ !epochOpen p.base ((instOf page - 0x10) / 4) then .error 5
  else plainWrite p src page .routeTab off v

/-- A write of a port page: EXPECT is compared again (R192). -/
def portWrite (p : Package) (src : Src) (page off v : Nat) : Wr :=
  let q := 9 * (clsOf page - 0x20) + instOf page - 0x10
  (plainWrite p src page .port off v).map fun p =>
    if off = Off.EXPECT_SERIAL_LO ∨ off = Off.EXPECT_SERIAL_HI ∨ off = Off.EXPECT_CTL then
      let (b, evs) := expectNow p.base q
      raisePort { p with base := b } q evs
    else p

/-- A write of PWR_CTL: a change of CLK_MODE starts a mode change, RELEARN starts learning (R76, R358, R369). -/
def pwrCtlWrite (p : Package) (src : Src) (page off v : Nat) : Wr :=
  (plainWrite p src page .power off v).map fun q =>
    let q : Package := if bitOf (p.rd (page + off)) 0 = bitOf v 0 then q else { q with dies := { q.dies with changing := true } }
    if bitOf v 8 then startLearning q else q

/-- A write of the power page (R350, R359, R361, R369). -/
def powerWrite (p : Package) (src : Src) (page off v : Nat) : Wr :=
  if off = Off.PWR_CTL then pwrCtlWrite p src page off v
  else
    (plainWrite p src page .power off v).map fun p =>
      if off = Off.T_IN ∧ src = .cs then tInWritten p
      else if off = Off.LOAD_NOTICE + 12 then armNotice p
      else p

/-- A write of the hub management page: DRAIN_PLANES that gains a bit asks for a drain (R400, R401). -/
def hubMgmtWrite (p : Package) (src : Src) (page off v : Nat) : Wr :=
  (plainWrite p src page .hubMgmt off v).map fun q =>
    if off = Off.DRAIN_PLANES then
      let old := p.rd (page + off)
      let new := q.rd (page + off)
      notePlanes p (if mergeBits new 0 old ≠ 0 then raise q page 0 {} else q)
    else q

/-- A write of the kindling page: RELEASE from the physical function ends a hold (R305, R318). -/
def kindleWrite (p : Package) (src : Src) (page off v : Nat) : Wr :=
  (plainWrite p src page .kindle off v).map fun p =>
    if off = Off.BRINGUP_CTL ∧ bitOf v 0 ∧ src = .pf then releaseHold p else p

/-- A write of the physical function's page (R337, R343). -/
def pfWrite (p : Package) (src : Src) (page off v : Nat) : Wr :=
  if off = Off.MBOX_CTL then .ok (mboxCtlWrite p v)
  else if Off.MBOX_CMD ≤ off ∧ off < Off.MBOX_CMD + 0x20 ∧ mboxBusy p then .ok (mboxOverrun p)
  else plainWrite p src page .pf off v

/-- A write of the seal page (R461). -/
def sealWrite (p : Package) (src : Src) (off v : Nat) : Wr :=
  if off = Off.SEAL_CTL then .ok (if src = .cs then sealCtlWrite p v else p)
  else if off = Off.SEAL_OFFSET then .ok (sealOffset p v)
  else .ok p

/-- A write of a page's own registers. -/
def blockWrite (p : Package) (src : Src) (page : Nat) (k : PKind) (off v : Nat) : Wr :=
  match k with
  | .tile1 => tileHopWrite p src page off v
  | .tile2 => tileCoreWrite p src page off v
  | .tile3 => repairWrite p src page off v
  | .mem0 => memCfgWrite p src page off v
  | .pegs =>
    if Off.PEG_ALLOC ≤ off ∧ off < Off.PEG_ALLOC + 0x800 then pegAllocWrite p (512 * instOf page + (off - Off.PEG_ALLOC) / 4) v
    else plainWrite p src page k off v
  | .route0 => routeWrite p src page off v
  | .routeTab => routeTabWrite p src page off v
  | .port => portWrite p src page off v
  | .conn => connWrite p src (clsOf page - 0x20) off v
  | .grp => grpWrite p src (clsOf page - 0x20) off v
  | .mgmt => mgmtWrite p src (clsOf page - 0x20) off v
  | .power => powerWrite p src page off v
  | .hubMgmt => hubMgmtWrite p src page off v
  | .hubRing => if off = Off.RING_SEL then .ok (ringSelWrite p src v) else plainWrite p src page k off v
  | .hubSeal => sealWrite p src off v
  | .kindle => kindleWrite p src page off v
  | .pf => pfWrite p src page off v
  | .vf => vfWrite p (instOf page) off v
  | _ => plainWrite p src page k off v

/-! ## A write of four bytes -/

/-- The registers a striking page still takes (R54). -/
def openWhileStriking (off : Nat) : Bool :=
  decide (off = Off.EVT_STAT ∨ off = Off.EVT_EN ∨ off = Off.EVT_ROUTE ∨ off = Off.STRIKE_CTRL)

/-- A control write at an implemented page: refused whole, or applied (R48–R54, R462). -/
def tryWrite (free : Nat) (p : Package) (src : Src) (page : Nat) (k : PKind) (off v : Nat) : Wr :=
  if sealedShut p then .error 1
  else if strikingPage p.base page && !openWhileStriking off then .error 3
  else if off < 0x80 then headerWrite free p src page k off v
  else blockWrite p src page k off v

/-- The remote source of an access, for its capture (R46). -/
def sourceOf : Src → Option (Nat × Nat)
  | .fabric _ r s => some (r, s)
  | _ => none

/-- A refused write is recorded, not counted (R52); a refused strike request shows in LAST_RESULT (R56). -/
def refuseWrite (p : Package) (src : Src) (page off v reason : Nat) : Package :=
  let p := if reason = 4 ∧ off = Off.STRIKE_CTRL then p.wrF (page + off) 7 5 3 else p
  raise p page 24 { c2 := off + reason * 2 ^ 12, c3 := v, src := sourceOf src }

/-- An accepted write is counted in SEQ_IN and, its effect complete, in SEQ_OUT (R47). -/
def acceptWrite (p : Package) (page : Nat) : Package :=
  let p := p.wr (page + Off.SEQ_IN) (p.rd (page + Off.SEQ_IN) + 1)
  p.wr (page + Off.SEQ_OUT) (p.rd (page + Off.SEQ_OUT) + 1)

/-- One control write of four bytes. Beyond the header of the open debug boundary stands no field of the manual's: a write there
has no effect it states, and is counted (R12, R47, R463; log 152). -/
def write4 (free : Nat) (p : Package) (src : Src) (a v : Nat) : Package × Answer :=
  let page := pageOf a
  match pageKind p.hubL1 (clsOf a) (instOf a) with
  | none => (p, .fault)
  | some k =>
    match tryWrite free p src page k (offOf a) v with
    | .ok q => (acceptWrite q page, .done)
    | .error r => (refuseWrite p src page (offOf a) v r, .refused r)

/-- Whether a source reaches an offset at all: a virtual function only its own page (R326). -/
def srcReaches (src : Src) (a : Nat) : Bool :=
  match src with
  | .vf v => decide (clsOf a = 4 ∧ instOf a = v)
  | .pf => true
  | .endpointB => true
  | .hub => true
  | .cs => true
  | .fabric _ _ _ => true

/-- A control-space write (R31, R33, R50, R52). A write of 8 bytes is two of 4, the lower first; endpoint B writes nothing
(R325). -/
def csWrite (free : Nat) (p : Package) (src : Src) (a size v : Nat) : Package × Answer :=
  if src = .endpointB ∨ !srcReaches src a then (p, .done)
  else
    let reason := faultReason p a size
    if reason ≠ 0 then (ctlFault p src a reason, .fault)
    else if size = 4 then write4 free p src a (v % 2 ^ 32)
    else
      let (p, x) := write4 free p src a (v % 2 ^ 32)
      let (p, y) := write4 free p src (a + 4) (v / 2 ^ 32 % 2 ^ 32)
      (p, if x = .done then y else x)

/-! ## Reads -/

/-- A read of a page's header. -/
def headerRead (p : Package) (page off : Nat) : Nat :=
  if off = Off.PAGE_STAT then pageStat p page
  else if off = Off.PAGE_ID then
    clsOf page + instOf page * 2 ^ 6 + ((pageKind p.hubL1 (clsOf page) (instOf page)).map PKind.blockType).getD 0 * 2 ^ 14
  else if off = Off.EVT_FORCE then 0
  else p.rd (page + off)

/-- A read of a page's own registers: what is not stored is computed. -/
def blockRead (p : Package) (src : Src) (page : Nat) (k : PKind) (off : Nat) : Nat :=
  let d := clsOf page - 0x20
  match k with
  | .conn => connRead p src d off
  | .grp => grpRead p src d off
  | .mgmt => mgmtRead p src d off
  | .port => if off = Off.PORT_HELD then portHeld p.base (9 * d + instOf page - 0x10) % 2 ^ 16 else p.rd (page + off)
  | .rma =>
    if off = Off.READ_TAGS_FREE then 8192 - tagsUsed p d
    else if off = Off.QDESC_COUNT then (if d = 0 then qdescCount p else 0)
    else if d = 1 ∧ (off = Off.STALL_LIMIT ∨ off = Off.STALL_DESC ∨ off = Off.STALL_DESC + 4) then 0
    else p.rd (page + off)
  | .tile8 =>
    if off = Off.ATT_STAT then
      setFld (p.rd (page + off)) 16 16 (b2n (engineRuns p (clsOf page - 0x10) [.attend]))
    else p.rd (page + off)
  | .pegs =>
    let x := p.peg (512 * instOf page + p.rdF (page + Off.PEG_SEL) 8 0)
    if off = Off.PEG_VIEW_COUNT then x.counter.toNat
    else if off = Off.PEG_VIEW_TARGET then x.target.toNat
    else if off = Off.PEG_VIEW_WAIT then pegViewWait x
    else p.rd (page + off)
  | .hubRing =>
    if off = Off.RING_SEL then mget 0 p.hub.ringSel (copyOf src)
    else if Off.RING_DATA ≤ off ∧ off < Off.RING_DATA + 0x20 then fieldAt (mget [] p.hub.ringLatch (copyOf src)) (off - Off.RING_DATA) 4
    else if off = Off.GTIME then p.base.gtime % 2 ^ 32
    else if off = Off.GTIME + 4 then p.base.gtime / 2 ^ 32
    else p.rd (page + off)
  | .hubMgmt =>
    if Off.PLANE_ORD ≤ off ∧ off < Off.PLANE_ORD + 0x48 then planeOrd p ((off - Off.PLANE_ORD) / 4) else p.rd (page + off)
  | _ => p.rd (page + off)

/-- A read of four bytes at an implemented page; a reserved offset reads 0 (R11). What stands beyond the header of the open debug
boundary is open (R463; log 152). -/
def read4 (free : Nat) (p : Package) (src : Src) (a : Nat) : Nat :=
  match pageKind p.hubL1 (clsOf a) (instOf a) with
  | none => 0
  | some k =>
    if k = .debug ∧ 0x80 ≤ offOf a then (Config.debugWord free a).toNat
    else if (rowAt k (offOf a)).isNone then 0
    else if offOf a < 0x80 then headerRead p (pageOf a) (offOf a)
    else blockRead p src (pageOf a) k (offOf a)

/-- A control-space read: the package, which a fault changes, and the value; none for a fault (R33). -/
def csRead (free : Nat) (p : Package) (src : Src) (a size : Nat) : Package × Option Nat :=
  let reason := faultReason p a size
  if reason ≠ 0 then (ctlFault p src a reason, none)
  else if size = 4 then (p, some (read4 free p src a))
  else (p, some (read4 free p src a + read4 free p src (a + 4) * 2 ^ 32))

/-! ## Commands -/

/-- A command that is one control-space write: it may use open values. -/
def onCtl (k : Nat) (src : Src) (a size v : Nat) (s : State) : Res :=
  onPkgFree k (fun free p => (csWrite free p src a size v).1) s

/-- CONTROL_WRITE (R50). -/
def execControlWrite (p : Nat) (src : Src) (off size val : Nat) (s : State) : Res := onCtl p src off size val s

/-- PAGE_CTRL_WRITE (R40). -/
def execPageCtrlWrite (p : Nat) (src : Src) (page val : Nat) (s : State) : Res := onCtl p src (pageOf page + Off.PAGE_CTRL) 4 val s

/-- EVT_STAT_CLEAR (R46). -/
def execEvtStatClear (p : Nat) (src : Src) (page val : Nat) (s : State) : Res := onCtl p src (pageOf page + Off.EVT_STAT) 4 val s

/-- EVT_FORCE (R43). -/
def execEvtForce (p : Nat) (src : Src) (page val : Nat) (s : State) : Res := onCtl p src (pageOf page + Off.EVT_FORCE) 4 val s

/-- STRIKE_CTRL_GO (R56). -/
def execStrikeCtrlGo (p : Nat) (src : Src) (page val : Nat) (s : State) : Res := onCtl p src (pageOf page + Off.STRIKE_CTRL) 4 val s

/-- BRINGUP_RELEASE (R305). -/
def execBringupRelease (p : Nat) (src : Src) (s : State) : Res := onCtl p src (kindlePage + Off.BRINGUP_CTL) 4
  (rd (pkgOf s p).base (kindlePage + Off.BRINGUP_CTL) / 2 % 2 * 2 + 1) s

/-- CLK_MODE_WRITE (R76). -/
def execClkModeWrite (p : Nat) (src : Src) (val : Nat) (s : State) : Res := onCtl p src (powerPage + Off.PWR_CTL) 4 val s

/-- HOP_RUN: a write of HOP_CFG (R90, R111). -/
def execHopRun (p : Nat) (src : Src) (t h val : Nat) (s : State) : Res := onCtl p src (hopReg t h Off.HOP_CFG) 4 val s

/-- HOP_RESUME: a write of HOP_CFG with RESUME (R93, R111). -/
def execHopResume (p : Nat) (src : Src) (t h val : Nat) (s : State) : Res := onCtl p src (hopReg t h Off.HOP_CFG) 4 val s

/-- CORE_RUN (R88). -/
def execCoreRun (p : Nat) (src : Src) (t c val : Nat) (s : State) : Res := onCtl p src (coreReg t c Off.CORE_CTRL) 4 val s

/-- PEG_ALLOC_WRITE (R148). -/
def execPegAllocWrite (p : Nat) (src : Src) (peg val : Nat) (s : State) : Res := onCtl p src (pegAllocReg peg) 4 val s

/-- REPAIR_ADD (R311). -/
def execRepairAdd (p : Nat) (src : Src) (t val : Nat) (s : State) : Res := onCtl p src (tilePage t 3 + Off.REPAIR_ADD) 4 val s

/-- MEM_CFG_WRITE (R129). -/
def execMemCfgWrite (p : Nat) (src : Src) (m val : Nat) (s : State) : Res := onCtl p src (pg (0x22 + m) 0 + Off.MEM_CFG) 4 val s

/-- ROUTE_EPOCH_WRITE (R167). -/
def execRouteEpochWrite (p : Nat) (src : Src) (val : Nat) (s : State) : Res := onCtl p src (routePage + Off.ROUTE_EPOCH) 4 val s

/-- CONN_CTL_WRITE (R233). -/
def execConnCtlWrite (p : Nat) (src : Src) (die val : Nat) (s : State) : Res := onCtl p src (connPage die + Off.CONN_CTL) 4 val s

/-- GRP_CTL_WRITE (R238). -/
def execGrpCtlWrite (p : Nat) (src : Src) (die val : Nat) (s : State) : Res := onCtl p src (linkPage die 4 + Off.GRP_CTL) 4 val s

/-- PUSH (R236). -/
def execPush (p : Nat) (src : Src) (die val : Nat) (s : State) : Res := onCtl p src (linkPage die 4 + Off.GRP_CMD) 4 val s

/-- HH_POSTED_WRITE (R331). -/
def execHhPostedWrite (p : Nat) (src : Src) (v h val : Nat) (s : State) : Res := onCtl p src (hhReg v h Off.HH_POSTED) 4 val s

/-- HH_RUN (R332). -/
def execHhRun (p : Nat) (src : Src) (v h val : Nat) (s : State) : Res := onCtl p src (hhReg v h Off.HH_CTL) 4 val s

/-- HH_RESUME (R332). -/
def execHhResume (p : Nat) (src : Src) (v h val : Nat) (s : State) : Res := onCtl p src (hhReg v h Off.HH_CTL) 4 val s

/-- HH_ACC_WRITE (R330). -/
def execHhAccWrite (p : Nat) (src : Src) (v h val : Nat) (s : State) : Res := onCtl p src (hhReg v h Off.HH_ACC) 4 val s

/-- HH_CFG_WRITE (R328). -/
def execHhCfgWrite (p : Nat) (src : Src) (v h val : Nat) (s : State) : Res := onCtl p src (hhReg v h Off.HH_CFG) 4 val s

/-- HCQ_CFG_WRITE (R333). -/
def execHcqCfgWrite (p : Nat) (src : Src) (v val : Nat) (s : State) : Res := onCtl p src (vfPage v + Off.HCQ_CFG) 4 val s

/-- HEQ_CFG_WRITE (R335). -/
def execHeqCfgWrite (p : Nat) (src : Src) (v val : Nat) (s : State) : Res := onCtl p src (vfPage v + Off.HEQ_CFG) 4 val s

/-- HCQ_PROD_WRITE (R344). -/
def execHcqProdWrite (p : Nat) (src : Src) (v val : Nat) (s : State) : Res := onCtl p src (vfPage v + Off.HCQ_PROD) 4 val s

/-- HEQ_PROD_WRITE (R344). -/
def execHeqProdWrite (p : Nat) (src : Src) (v val : Nat) (s : State) : Res := onCtl p src (vfPage v + Off.HEQ_PROD) 4 val s

/-- HCQ_CONS_WRITE (R333). -/
def execHcqConsWrite (p : Nat) (src : Src) (v val : Nat) (s : State) : Res := onCtl p src (vfPage v + Off.HCQ_CONS) 4 val s

/-- HEQ_CONS_WRITE (R335). -/
def execHeqConsWrite (p : Nat) (src : Src) (v val : Nat) (s : State) : Res := onCtl p src (vfPage v + Off.HEQ_CONS) 4 val s

/-- T_IN_WRITE (R363). -/
def execTInWrite (p temp : Nat) (s : State) : Res := onCtl p .cs (pw Off.T_IN) 4 temp s

/-- RELEARN (R358). -/
def execRelearn (p : Nat) (src : Src) (val : Nat) (s : State) : Res := onCtl p src (pw Off.PWR_CTL) 4 val s

/-- LOAD_NOTICE_ARM (R362). -/
def execLoadNoticeArm (p : Nat) (src : Src) (val : Nat) (s : State) : Res := onCtl p src (pw (Off.LOAD_NOTICE + 12)) 4 val s

/-- SEAL_GO (R460). -/
def execSealGo (p : Nat) (src : Src) (val : Nat) (s : State) : Res := onCtl p src (hubPage 4 + Off.SEAL_CTL) 4 val s

/-- SEAL_BURN (R460). -/
def execSealBurn (p : Nat) (src : Src) (val : Nat) (s : State) : Res := onCtl p src (hubPage 4 + Off.SEAL_CTL) 4 val s

/-- SEAL_OFFSET_WRITE (R461). -/
def execSealOffsetWrite (p : Nat) (src : Src) (val : Nat) (s : State) : Res := onCtl p src (hubPage 4 + Off.SEAL_OFFSET) 4 val s

/-- RING_SEL_WRITE (R442). -/
def execRingSelWrite (p : Nat) (src : Src) (val : Nat) (s : State) : Res := onCtl p src (hubPage 3 + Off.RING_SEL) 4 val s

/-- HOP_TAIL_WRITE: through the page, or a running core's doorbell store, which no page counts (R86, R89). -/
def execHopTailWrite (p : Nat) (via : TailVia) (t h val : Nat) (s : State) : Res :=
  match via with
  | .page src => onCtl p src (hopReg t h Off.HOP_TAIL) 4 val s
  | .core c => onPkg p (fun x => if coreActive x t c && decide (h < 4) && !strikingPage x.base (tilePage t 1) then hopTail x t h val else x) s

/-- ENABLE of a package's port written through its page (R199, R307). -/
def portEnableWrite (k q : Nat) (on : Bool) (s : State) : Res :=
  let p := pkgOf s k
  let a := portPage q + Off.PAGE_CTRL
  if q < 18 then onCtl k .cs a 4 (setBit (p.rd a % 4) 0 on) s else .next s

/-- PORT_ENABLE (R199): at a Weir, ENABLE is the port's own (log 48). -/
def execPortEnable (e : Elem) (port : Nat) (s : State) : Res :=
  match e with
  | .pkg k => portEnableWrite k port true s
  | .weir k => onWeir k (fun w => if port < 72 then w.mapBase fun b => weirEnableWrite b port true else w) s

/-- PORT_DISABLE (R199). -/
def execPortDisable (e : Elem) (port : Nat) (s : State) : Res :=
  match e with
  | .pkg k => portEnableWrite k port false s
  | .weir k => onWeir k (fun w => if port < 72 then w.mapBase fun b => weirEnableWrite b port false else w) s

end Sys2Proof.Machine
end

