-- ==== Sys2Proof/Machine/Access.lean ====
section
/-! DEFINITION. Control space over the fabric: packets of management connections at their target, and span strike messages
(R20, R209, R210, R219, R220, R276). -/

namespace Sys2Proof.Machine

/-- The response status of an answer (R33, R52, R230; log 49). -/
def answerStatus : Answer → Nat
  | .done => 0
  | .fault => 0x11
  | .refused _ => 0x19

/-- What a packet of pitch 0 asks of control space is done: the package, the response status, and the data of a read (R20, R33, R52;
log 49). -/
def ctlServe (free : Nat) (p : Package) (k : Pkt) : Package × Nat × Bytes :=
  let src := Src.fabric k.pitch k.srcRack k.srcSlot
  if k.op = .rread then
    match csRead free p src k.offset k.arg with
    | (p, some v) => (p, 0, le k.arg v)
    | (p, none) => (p, 0x11, [])
  else if k.op = .rwrite then
    let (p, x) := csWrite free p src k.offset k.payload.length (ofLe k.payload)
    (p, answerStatus x, [])
  else (ctlFault p src k.offset (faultReason p k.offset 0), 0x11, [])

/-- What a management packet asks is done: control space under SPACE 1, a span strike message or its answer under 2 and 3 (R20,
R276; log 34), memory under 0 by the checks of R217 (log 50). -/
def mgmtServe (free : Nat) (p : Package) (k : Pkt) : Package × Nat × Bytes :=
  let pitch := fieldAt k.payload 0 4 % 4096
  if k.space = 2 then (spanMessageIn p k.srcRack k.srcSlot pitch, 0, [])
  else if k.space = 3 then (spanAnswerIn p k.srcRack k.srcSlot pitch, 0, [])
  else if k.op = .rread then readAtTarget (ctlServe free) p (hubDie p) k
  else
    let (p, st) := writeAtTarget (ctlServe free) p (hubDie p) k
    (p, st, [])

/-- The answer to a management packet, in the response class and the active epoch (R153, R166, R220). -/
def answerMgmt (p : Package) (q : Nat) (k : Pkt) (st psn : Nat) (data : Bytes) : Package :=
  injectResponse p q (responseTo k p.epoch st psn k.offset data true)

/-- A packet is served and answered: the data of a read in pieces (R175, R220). -/
def serveAndAnswer (free : Nat) (p : Package) (q : Nat) (k : Pkt) : Package :=
  let (p, st, data) := mgmtServe free p k
  if data.length ≤ 8 then answerMgmt p q k st k.psn data
  else (readPieces k.offset data 17).foldl (fun p e => injectResponse p q (responseTo k p.epoch st k.psn e.1 e.2.1 e.2.2)) p

/-- A management packet at its target: its CONN must be its sender's index; a new generation needs SYNC, an older PSN is a
duplicate, a newer one is out of order (R210, R217, R219). -/
def mgmtIn (free : Nat) (p : Package) (q : Nat) (k : Pkt) : Package :=
  let i := k.conn
  let x := p.mg i
  let page := rmaPage (hubDie p)
  let take := fun (p : Package) => serveAndAnswer free (p.setMg i { p.mg i with
    genIn := k.gen, expectPsn := (k.psn + 1) % 2 ^ 24, oooAnswered := none }) q k
  if i ≠ k.srcRack * 64 + k.srcSlot then
    answerMgmt (crossPitch p (connPage (hubDie p)) k.pitch (globalAddr p.base.rack p.base.pos k.space k.offset)
      (some (k.srcRack, k.srcSlot))) q k 0x10 k.psn []
  else if x.genIn ≠ k.gen then (if k.sync then take p else answerMgmt p q k 0x15 k.psn [])
  else if k.psn = x.expectPsn then take p
  else if serialGt 24 x.expectPsn k.psn then
    let p := p.count (page + Off.DUP_CNT)
    if k.op = .rread then serveAndAnswer free p q k else answerMgmt p q k 0 ((x.expectPsn + 2 ^ 24 - 1) % 2 ^ 24) []
  else
    let p := p.count (page + Off.OOO_CNT)
    if x.oooAnswered = some x.expectPsn then p
    else
      let p := p.setMg i { x with oooAnswered := some x.expectPsn }
      answerMgmt p q k 0x16 ((x.expectPsn + 2 ^ 24 - 1) % 2 ^ 24) []

/-- The page that records a cross-pitch access to control space: the addressed one, or the hub's where the access breaks R33
(R20). -/
def crossPage (p : Package) (k : Pkt) : Nat :=
  let n := if k.op = .rread then k.arg else k.payload.length
  if faultReason p k.offset n = 0 then pageOf k.offset else hubPage 0

/-- A packet of a job's pitch writes STRIKE_CTRL: an invalid strike request, which is refused and is no cross-pitch access (R49,
R56). -/
def strikeByJob (p : Package) (k : Pkt) : Bool :=
  decide (k.op = .rwrite ∧ k.payload.length = 4 ∧ offOf k.offset = Off.STRIKE_CTRL) && decide (faultReason p k.offset 4 = 0)

/-- A packet of a job's pitch to control space: refused where it asks for a strike, else a cross-pitch access (R20, R49; log 50).
Of a write of 8 bytes that ends on STRIKE_CTRL, both halves are judged. -/
def jobControl (free : Nat) (p : Package) (q : Nat) (k : Pkt) : Package :=
  let src := Src.fabric k.pitch k.srcRack k.srcSlot
  let addr := globalAddr p.base.rack p.base.pos 1 k.offset
  if strikeByJob p k then
    let (p, x) := csWrite free p src k.offset 4 (ofLe k.payload)
    answerMgmt p q k (answerStatus x) k.psn []
  else
    let high := { k with offset := k.offset + 4, payload := k.payload.drop 4 }
    let p' := if k.payload.length = 8 ∧ k.offset % 8 = 0 ∧ strikeByJob p high then
        (csWrite free p src high.offset 4 (ofLe high.payload)).1 else p
    answerMgmt (crossPitch p' (crossPage p k) k.pitch addr (some (k.srcRack, k.srcSlot))) q k 0x10 k.psn []

/-- A packet to control space, or of a management connection: pitch 0 alone is served. A management connection has its own order;
any other pitch-0 packet has that of its connection (R20, R209, R210, R217, R219). -/
def controlPacket (free : Nat) (p : Package) (q : Nat) (k : Pkt) : Package :=
  if k.op = .response ∨ k.op = .coll then p
  else if k.space = 1 ∧ k.pitch ≠ 0 then jobControl free (takeDelivered p q k) q k
  else if k.mgmt ∧ k.pitch = 0 then mgmtIn free (takeDelivered p q k) q k
  else if k.space = 1 then requestIn (ctlServe free) (takeDelivered p q k) q k
  else p

/-- CONTROL_SPACE_PACKET (R20). -/
def execControlSpacePacket (p port : Nat) (pkt : Pkt) (s : State) : Res :=
  onPkgFree p (fun free x => controlPacket free x port pkt) s

/-- A request packet of one operation arrives: one to control space or of a management connection as its own row says, any other by
the checks of R217 (R20, R209, R210). -/
def requestRow (op : POp) (free : Nat) (p : Package) (q : Nat) (k : Pkt) : Package :=
  if k.op ≠ op then p
  else if k.space = 1 ∨ (k.mgmt ∧ k.pitch = 0) then controlPacket free p q k
  else memoryPacket (ctlServe free) p q k

/-- RWRITE_PACKET (R217). -/
def execRwritePacket (p port : Nat) (pkt : Pkt) (s : State) : Res := onPkgFree p (fun free x => requestRow .rwrite free x port pkt) s

/-- RREAD_PACKET (R217). -/
def execRreadPacket (p port : Nat) (pkt : Pkt) (s : State) : Res := onPkgFree p (fun free x => requestRow .rread free x port pkt) s

/-- PEG_PACKET (R145). -/
def execPegPacket (p port : Nat) (pkt : Pkt) (s : State) : Res := onPkgFree p (fun free x => requestRow .peg free x port pkt) s

/-- The delivered packet by which a peer sends a span strike message (2) or its answer (3) for a pitch. -/
def spanPacketIn (p : Package) (space rack slot pitch : Nat) : Option (Nat × Pkt) :=
  p.fab.delivered.find? fun e =>
    e.2.mgmt && e.2.pitch = 0 && decide (e.2.space = space ∧ e.2.srcRack = rack ∧ e.2.srcSlot = slot ∧ fieldAt e.2.payload 0 4 = pitch)

/-- A span strike message or answer arrives: by the delivered packet that carries it, or by itself. -/
def spanIn (space rack slot pitch free : Nat) (p : Package) : Package :=
  match spanPacketIn p space rack slot pitch with
  | some (q, k) => controlPacket free p q k
  | none => if space = 2 then spanMessageIn p rack slot pitch else spanAnswerIn p rack slot pitch

/-- SPAN_STRIKE_MESSAGE (R276). -/
def execSpanStrikeMessage (p rack slot pitch : Nat) (s : State) : Res := onPkgFree p (spanIn 2 rack slot pitch) s

/-- SPAN_STRIKE_ANSWER (R276). -/
def execSpanStrikeAnswer (p rack slot pitch : Nat) (s : State) : Res := onPkgFree p (spanIn 3 rack slot pitch) s

end Sys2Proof.Machine
end

