-- ==== Sys2Proof/Machine/Pitches.lean ====
section
/-! DEFINITION. Pitch commands: how they reach the hub, their checks, effects and replies (R262–R265, R279, R280, R286, R315,
R337). -/

namespace Sys2Proof.Machine

/-! ## How a command reaches the hub (R264, R337, R411) -/

/-- The message of a type and content at the front of the inbox, taken. -/
def takeInbox (b : Base) (type : Nat) (content : Bytes) : Base :=
  let m := mspMessage type content
  if b.msp.inbox.take m.length = m then { b with msp := { b.msp with inbox := b.msp.inbox.drop m.length } } else b

/-- The mailbox's command becomes the one given, as its driver writes it. -/
def mboxStore (p : Package) (cmd : Bytes) : Package :=
  (List.range 8).foldl (fun p i => p.wr (pfPage + Off.MBOX_CMD + 4 * i) (fieldAt cmd (4 * i) 4)) p

/-- A STRIKE command runs, and every other command waits for its completion (R264, R265). -/
def commandRuns (p : Package) : Bool := p.hub.strikes.any fun s => s.replyTo.isSome

/-- A command from the inbox: the one at its front, or one that arrives now at an inbox that holds none; it waits in the inbox
while another runs or one arrived earlier in the mailbox (R264; log 51). -/
def takeMsp (p : Package) (cmd : Bytes) : Except Package Package :=
  let m := mspMessage 0x83 cmd
  let inbox := if p.base.msp.inbox.isEmpty then m else p.base.msp.inbox
  let q := p.mapBase fun b => { b with msp := { b.msp with inbox := inbox } }
  if inbox.take m.length ≠ m then .error p
  else if commandRuns p ∨ (p.host.mboxCmd.isSome ∧ p.host.mboxAfter = 0) then .error q
  else
    let q := q.mapBase fun b => takeInbox b 0x83 cmd
    .ok { q with host := { q.host with mboxAfter := q.host.mboxAfter - 1 } }

/-- A command from the mailbox: the one that waits there, or one written now; it waits while another runs or one that arrived
before it stands in the inbox, and is refused while another is in the mailbox (R264, R337; log 51). -/
def takeMailbox (p : Package) (cmd : Bytes) : Except Package Package :=
  let q := if p.host.mboxCmd = some cmd then p else mboxGo (mboxStore p cmd)
  if p.host.mboxCmd ≠ some cmd ∧ mboxBusy p then .error (mboxOverrun p)
  else if commandRuns p ∨ q.host.mboxAfter ≠ 0 then .error q
  else .ok { q with host := { q.host with mboxCmd := none } }

/-- The hub takes a command, one at a time in arrival order (R264); the other case gives the package as the command's arrival
leaves it. -/
def takeCommand (p : Package) (via : Via) (cmd : Bytes) : Except Package Package :=
  match via with
  | .msp => takeMsp p cmd
  | .mailbox => takeMailbox p cmd

/-! ## Fields and checks (R264, R265) -/

/-- The pitch a command names, and its tiles. -/
def cmdPitch (cmd : Bytes) : Nat := fieldAt cmd 2 2 % 4096
def cmdTiles (cmd : Bytes) : List Nat := bitList (fieldAt cmd 8 2) 16

/-- The bytes of a command that must be zero: first byte and end. -/
def zeroBytes (op : Nat) : List (Nat × Nat) :=
  match op with
  | 0x10 => [(11, 32)]
  | 0x11 => [(10, 32)]
  | 0x12 => [(24, 32)]
  | 0x13 => [(9, 16), (24, 32)]
  | 0x14 => [(9, 32)]
  | _ => [(8, 32)]

/-- BAD_COMMAND: an unknown CMD, a zero field that is not zero, PITCH 0 where a pitch is named, or an operand outside its
range (R265; log 52). -/
def badCommand (cmd : Bytes) : Bool :=
  let op := byteAt cmd 0
  let reach := byteAt cmd 8
  decide (op < 0x10 ∨ 0x15 < op) || decide ((if op = 0x10 then 1 else 0) < byteAt cmd 1) || decide (4096 ≤ fieldAt cmd 2 2)
    || (zeroBytes op).any (fun r => decide (fieldAt cmd r.1 (r.2 - r.1) ≠ 0))
    || (decide (cmdPitch cmd = 0) && !(op = 0x15 || (op = 0x14 && reach = 5)))
    || (op = 0x14 && decide (reach < 3 ∨ 5 < reach)) || (op = 0x10 && decide (byteAt cmd 10 < 1 ∨ 16 < byteAt cmd 10))
    || (op = 0x13 && decide (15 < reach))

/-- The pitch is hosted (R263); a strike covers it (R279). -/
def hostedHere (p : Package) (q : Nat) : Bool := (mfind q p.hub.hosted).isSome
def pitchStriking (p : Package) (q : Nat) : Bool := p.hub.strikes.any fun s => !s.released && strikesPitch p s q

/-- A tile named, or the function named, is in a strike. -/
def unitStriking (p : Package) (tiles vfs : List Nat) : Bool :=
  (tiles.any fun t => strikingPage p.base (tilePage t 0)) || vfs.any fun v => strikingPage p.base (vfPage v)

/-- Why a tile cannot be given to a pitch: hidden or hollow, or not free, even where the pitch itself owns it (R265; log 53);
0 where it can. -/
def tileStatus (p : Package) (t : Nat) : Nat :=
  if p.tiles ≤ t ∨ hollowPage p.base (tilePage t 0) then 0x05 else if ownerOf p.base (tilePage t 0) ≠ 0 then 0x04 else 0

/-- The first status of several that is not OK. -/
def firstBad (l : List Nat) : Nat := (l.find? (· ≠ 0)).getD 0

/-- Bring-up has completed (R315), and it left the package failed (R314, R64). -/
def broughtUp (p : Package) : Bool := p.base.kin.phase = .running || p.base.kin.phase = .failed
def packageFailed (p : Package) : Bool := p.base.kin.phase = .failed || p.dies.outOfService

/-! ## Assigning units (R47, R49, R262, R286) -/

/-- PITCH_OWNER written and LOCK set on a page, by the hub itself: SEQ_IN and SEQ_OUT do not count it (R47; DEDUCED, log 178). -/
def assignPage (q : Nat) (p : Package) (page : Nat) : Package :=
  (p.wrF (page + Off.PITCH_OWNER) 11 0 q).wrF (page + Off.PAGE_CTRL) 2 2 1

/-- A tile's pages and its peg page are assigned. -/
def assignTile (q : Nat) (p : Package) (t : Nat) : Package :=
  ((List.range 16).map (tilePage t) ++ [pegPage t]).foldl (assignPage q) p

/-- The spare physical engine of a tile: it passed bring-up, no logical engine uses it, and it has not failed (R286, R310). -/
def spareEngine (p : Package) (t : Nat) : Option Nat :=
  let info := p.rd (tilePage t 0 + Off.TILE_INFO)
  let map := p.rd (tilePage t 0 + Off.ME_MAP)
  (List.range 9).find? fun e =>
    bitOf info (8 + e) && !bitOf (mget 0 p.tl.fencedEngines t) e && (List.range 8).all fun i => decide (fld map (4 * i + 3) (4 * i) ≠ e)

/-- The spare takes the place of the lowest hollow logical engine of a tile (R286). -/
def substituteEngine (p : Package) (t : Nat) : Package :=
  let a := tilePage t 0
  match (bitList (p.rdF (a + Off.ME_HOLLOW) 7 0) 8).head?, spareEngine p t with
  | some i, some e => (p.wrF (a + Off.ME_MAP) (4 * i + 3) (4 * i) e).wrF (a + Off.ME_HOLLOW) i i 0
  | _, _ => p

/-- The tiles PITCH_CREATE assigns: each named; under SUBSTITUTE, for a hollow one the lowest free tile that is not hollow and
not taken yet. None where one cannot be given, with the status (R265, R286). -/
def chooseTiles (p : Package) (subst : Bool) (named : List Nat) : List Nat → List Nat → Except Nat (List Nat)
  | [], acc => .ok acc
  | t :: ts, acc =>
    let st := tileStatus p t
    if st = 0 then chooseTiles p subst named ts (acc ++ [t])
    else if st = 0x05 ∧ subst ∧ t < p.tiles then
      match (List.range p.tiles).find? fun u => tileStatus p u = 0
          && !named.contains u && !acc.contains u with
      | some u => chooseTiles p subst named ts (acc ++ [u])
      | none => .error 0x05
    else .error st

/-! ## The commands -/

/-- What a command answers: the package, the status and the data; a command that fails changes nothing. -/
abbrev Answered := Package × Nat × Bytes

/-- PITCH_CREATE (R265, R280, R286). -/
def pitchCreate (p : Package) (cmd : Bytes) : Answered :=
  let q := cmdPitch cmd
  let v := byteAt cmd 10
  let tiles := cmdTiles cmd
  if hostedHere p q then (p, 0x02, [])
  else if p.base.gtime < mget 0 p.hub.quarantine q then (p, 0x09, [])
  else if 16 ≤ p.hub.hosted.length then (p, 0x06, [])
  else if ownerOf p.base (vfPage v) ≠ 0 ∨ p.hub.hosted.any (fun e => e.2 = v) then (p, 0x04, [])
  else
    match chooseTiles p (bitOf (byteAt cmd 1) 0) tiles tiles [] with
    | .error st => (p, st, [])
    | .ok given =>
      let p := given.foldl (assignTile q) p
      let p := assignPage q p (vfPage v)
      let p := if bitOf (byteAt cmd 1) 0 then given.foldl substituteEngine p else p
      ({ p with hub := { p.hub with hosted := mset p.hub.hosted q v } }, 0, le 2 (ofBits given))

/-- ADD_TILES (R265; log 53). -/
def addTiles (p : Package) (cmd : Bytes) : Answered :=
  let q := cmdPitch cmd
  let tiles := cmdTiles cmd
  let st := firstBad (tiles.map (tileStatus p))
  if !hostedHere p q then (p, 0x03, [])
  else if st ≠ 0 then (p, st, [])
  else (tiles.foldl (assignTile q) p, 0, le 2 (ofBits tiles))

/-- ADD_DRAM (R265). -/
def addDram (p : Package) (cmd : Bytes) : Answered :=
  let q := cmdPitch cmd
  let base := fieldAt cmd 8 8
  let len := fieldAt cmd 16 8
  if !hostedHere p q then (p, 0x03, [])
  else if base % 0x200000 ≠ 0 ∨ len % 0x200000 ≠ 0 ∨ len = 0 ∨ 0x4800000000 < base + len then (p, 0x07, [])
  else if (List.range 8).any fun s => stackDead p s && overlap base len (s * stackSize) stackSize then (p, 0x05, [])
  else if p.hub.ranges.any fun r => overlap base len r.start r.len then (p, 0x04, [])
  else if 256 ≤ p.hub.ranges.length then (p, 0x06, [])
  else ({ p with hub := { p.hub with ranges := p.hub.ranges ++ [{ pitch := q, start := base, len := len }] } }, 0, [])

/-- ADD_FENCE (R265, R266). -/
def addFence (p : Package) (cmd : Bytes) : Answered :=
  let q := cmdPitch cmd
  let rack := byteAt cmd 8
  let slots := fieldAt cmd 16 8
  let mine := fun (f : Fence) => decide (f.pitch = q ∧ f.rack = rack)
  let widen := fun (f : Fence) => if mine f then { f with slots := f.slots ||| slots } else f
  if !hostedHere p q then (p, 0x03, [])
  else if p.hub.fences.any mine then ({ p with hub := { p.hub with fences := p.hub.fences.map widen } }, 0, [])
  else if 64 ≤ p.hub.fences.length then (p, 0x06, [])
  else
    let f : Fence := { absorb := false, pitch := q, rack := rack, slots := slots }
    ({ p with hub := { p.hub with fences := p.hub.fences ++ [f] } }, 0, [])

/-- The unscrubbed DRAM granules of a stack. -/
def unscrubbedOf (p : Package) (s : Nat) : Nat := 18432 - (p.mem.dramClean.filter fun g => decide (g / 18432 = s)).length

/-- QUERY: for a pitch that is not hosted it answers what that pitch owns, which is nothing (R265). -/
def queryPitch (p : Package) (cmd : Bytes) : Answered :=
  let q := cmdPitch cmd
  let tiles := (List.range p.tiles).filter fun t =>
    ownerOf p.base (tilePage t 0) = q && (decide (q ≠ 0) || !hollowPage p.base (tilePage t 0))
  (p, 0, le 2 (ofBits tiles) ++ le 1 (p.vfOf q) ++ le 1 (p.hub.fences.filter fun f => decide (f.pitch = q)).length
    ++ le 2 (p.hub.ranges.filter fun r => decide (r.pitch = q)).length ++ le 2 0
    ++ (List.range 8).flatMap fun s => le 2 (unscrubbedOf p s))

/-- The hub judges a command and replies: its CMD is the row's own, or the row does not apply (R264, R279, R315; log 1). -/
def runCommand (p : Package) (via : Via) (cmd : Bytes) (op : Nat) (f : Package → Bytes → Answered) : Package :=
  if byteAt cmd 0 ≠ op then p
  else
    match takeCommand p via cmd with
    | .error p => p
    | .ok p =>
      let q := cmdPitch cmd
      let vfs := if op = 0x10 then [byteAt cmd 10] else []
      let tiles := if op = 0x10 ∨ op = 0x11 then cmdTiles cmd else []
      let (p, st, data) : Answered :=
        if badCommand cmd then (p, 0x01, [])
        else if op ≠ 0x15 ∧ !broughtUp p then (p, 0x08, [])
        else if packageFailed p ∧ (op = 0x10 ∨ op = 0x11 ∨ op = 0x12) then (p, 0x05, [])
        else if pitchStriking p q || unitStriking p tiles vfs then (p, 0x08, [])
        else f p cmd
      pitchReply p via cmd st data

/-- STRIKE: refused at once, or a strike whose completion replies (R265, R337). -/
def strikeCommand (p : Package) (via : Via) (cmd : Bytes) : Package :=
  if byteAt cmd 0 ≠ 0x14 then p
  else
    match takeCommand p via cmd with
    | .error p => p
    | .ok p =>
      let q := cmdPitch cmd
      let reach := byteAt cmd 8
      let (page, who) := match via with
        | .mailbox => (pfPage, 0)
        | .msp => (hubPage 0, 1)
      if badCommand cmd then pitchReply p via cmd 0x01 []
      else if !broughtUp p ∨ pitchStriking p q then pitchReply p via cmd 0x08 []
      else if reach ≠ 5 ∧ !hostedHere p q then pitchReply p via cmd 0x03 []
      else beginStrike p { newStrike p page reach reach (if reach = 5 then 0 else q) 0 who with replyTo := some (via, cmd) }

/-- PITCH_CREATE (R265). -/
def execPitchCreate (p : Nat) (via : Via) (cmd : Bytes) (s : State) : Res := onPkg p (fun x => runCommand x via cmd 0x10 pitchCreate) s

/-- ADD_TILES (R265). -/
def execAddTiles (p : Nat) (via : Via) (cmd : Bytes) (s : State) : Res := onPkg p (fun x => runCommand x via cmd 0x11 addTiles) s

/-- ADD_DRAM (R265). -/
def execAddDram (p : Nat) (via : Via) (cmd : Bytes) (s : State) : Res := onPkg p (fun x => runCommand x via cmd 0x12 addDram) s

/-- ADD_FENCE (R265). -/
def execAddFence (p : Nat) (via : Via) (cmd : Bytes) (s : State) : Res := onPkg p (fun x => runCommand x via cmd 0x13 addFence) s

/-- STRIKE (R265). -/
def execStrike (p : Nat) (via : Via) (cmd : Bytes) (s : State) : Res := onPkgMem p (fun x => strikeCommand x via cmd) s

/-- QUERY (R265). -/
def execQuery (p : Nat) (via : Via) (cmd : Bytes) (s : State) : Res := onPkg p (fun x => runCommand x via cmd 0x15 queryPitch) s

/-- PITCH_BAD_COMMAND (R265). -/
def execPitchBadCommand (p : Nat) (via : Via) (cmd : Bytes) (s : State) : Res :=
  onPkg p (fun x => if !badCommand cmd then x else match takeCommand x via cmd with
    | .error y => y
    | .ok y => pitchReply y via cmd 0x01 []) s

end Sys2Proof.Machine
end

