-- ==== Sys2Proof/Machine/Reset.lean ====
section
/-! DEFINITION. Reset: the two sources, the pulse filter, the reach, the ember record, what each reach clears, and the
starts it leads to (R13, R289–R297, R301, R309, R322, R341, R347, R367, R434, R441, R447, R448). -/

namespace Sys2Proof.Machine

/-- A row of an element that may clear a package's memory. -/
def onElemMem (e : Elem) (fp : Package → Package) (fw : Weir → Weir) (s : State) : Res :=
  match e with
  | .pkg k => onPkgMem k fp s
  | .weir k => onWeir k fw s

/-- A change of what package and Weir share. -/
def onBase (e : Elem) (f : Base → Base) (s : State) : Res :=
  onElem e (fun p => { p with base := f p.base }) (fun w => { w with base := f w.base }) s

/-! ## The ember record (R296, R297, R317) -/

/-- An ember register. -/
def em (off : Nat) : Nat := emberPage + off

/-- DURING of a reset accepted now (R317); a reset or a stuck kindling counts as kindling (log 56). -/
def duringNow (b : Base) : Nat :=
  match b.kin.phase with
  | .running | .failed => 0
  | .inReset _ | .kindling _ | .kindleStuck => 1
  | .bringup _ => 2
  | .held => 3

/-- An accepted reset is counted and recorded. -/
def emberRecord (b : Base) (cause reach : Nat) : Base :=
  let b := bumpSat b (em Off.RESET_COUNT) 1
  let b := wr b (em Off.LAST_UPTIME) (min 0xFFFFFFFF ((b.time.raw - b.kin.resetEnd) / 1000000))
  wr b (em Off.LAST_CAUSE) (cause + reach * 2 ^ 4 + duringNow b * 2 ^ 7)

/-- The codes of the power-on conditions that hold (R297, R347). -/
def powerCodes (x : PowerIn) : List Nat :=
  (if x.undervoltage then [1] else []) ++ (if x.porst then [2] else []) ++ (if x.rail || x.overvoltage then [3] else [])
    ++ (if x.trip then [4] else [])

/-- CAUSE of a power-on reset accepted now: the one condition's code, or 7 for several (R297). -/
def powerCause (x : PowerIn) : Nat :=
  match powerCodes x with
  | [c] => c
  | _ => 7

/-! ## The reach (R292) -/

/-- The reach RESET_N applies: of the fuse, or of the strap, or 3 before any strap has been measured. -/
def pinReach (b : Base) : Nat :=
  let r := rd b (pg 3 0 + Off.FUSE_REACH)
  if fld r 1 0 ≠ 0 then fld r 1 0 else if bitOf r 6 ∧ fld r 5 4 ≠ 0 then fld r 5 4 else 3

/-- Kindling runs, or bring-up has not completed its die-link step. -/
def beforeDieLinks (b : Base) : Bool :=
  match b.kin.phase with
  | .inReset r => decide (2 ≤ r)
  | .kindling _ | .kindleStuck | .held => true
  | .bringup n => decide (n ≤ 1)
  | .failed => decide (rdF b (kindlePage + Off.BRINGUP_STAT) 10 8 = 1)
  | .running => false

/-- The reach of a RESET_N reset accepted now. A Weir has reach 3 alone (R322). -/
def resetReach (b : Base) : Nat :=
  if b.isWeir then 3 else if pinReach b = 1 ∧ beforeDieLinks b then 2 else pinReach b

/-! ## What a reset clears (R13, R294, R322) -/

/-- A port after a reset: nothing but its saved training entry, and that only where the reset keeps it (R193, R294). -/
def portAfterReset (reach : Nat) (x : Port) : Port :=
  if 3 ≤ reach then {}
  else { ({} : Port) with savedSerial := x.savedSerial, savedPort := x.savedPort, savedRate := x.savedRate, savedEq := x.savedEq, savedValid := x.savedValid }

/-- The strap's registers: they hold what the most recent kindling measured until the next one measures (R292, R319). -/
def strapReg (a : Nat) : Bool := decide (a = pg 3 0 + Off.FUSE_REACH ∨ a = pg 3 0 + Off.STRAP_STAT)

/-- Which registers a package's reset restores: unit pages wholly; hub, ember, power, fuse and host pages by code; fuses burnt
stay burnt (R13, R458; log 57). -/
def resetRegs (reach : Nat) (regs : Regs) : Regs :=
  let units := restoreRegs regs (fun a => unitClass (clsOf a)) fun c => c ≠ .e
  if reach = 1 then units
  else
    let others := fun (a : Nat) => !unitClass (clsOf a) && !strapReg a
    let w := restoreRegs units others fun c => c = .w || c = .k
    if reach = 2 then w else restoreRegs w (fun a => others a && clsOf a ≠ 3) fun c => c ≠ .e

/-- The strikes of a reset package end, without records or replies: the pages and the mailbox that asked for them are idle
(R279, R295; log 58). -/
def endStrikes (p : Package) : Package :=
  let p := p.hub.strikes.foldl (fun p s =>
    let p := if byPage s then p.wrF (s.page + Off.STRIKE_CTRL) 0 0 0 else p
    match s.replyTo with
    | some (.mailbox, _) => p.wrF (pfPage + Off.MBOX_CTL) 1 1 0
    | _ => p) p
  { p with hub := { p.hub with strikes := [] } }

/-- A return seal that has not burnt its fuses ends, and has failed (R460). -/
def endSeal (p : Package) : Package :=
  let p := if 1 ≤ sealState p ∧ sealState p ≤ 3 then p.wrF (hubPage 4 + Off.SEAL_STAT) 2 0 6 else p
  { p with hub := { p.hub with ringFrozen := false }, sealed := { p.sealed with sid := none } }

/-- Every pitch hosted is released, with quarantine (R295). -/
def releaseAll (p : Package) : Package := (p.hub.hosted.map fun e => e.1).foldl releasePitch p

/-- The units of the package: tiles, pegs, link-die engines, contexts, routes and memory dies (R294). -/
def clearUnits (reach : Nat) (p : Package) : Package :=
  { p with
    base := { p.base with regs := resetRegs reach p.base.regs, ports := p.base.ports.map fun e => (e.1, portAfterReset reach e.2) }
    mem := {}, tl := {}, fab := {}
    hub := { p.hub with hosted := [], fences := [], ranges := [] } }

/-- Reach 1: the units are cleared and every pitch released, under the hub's supervision, and the debug boundary closes (R293–R295, R341, R463). -/
def clearReach1 (p : Package) : Package :=
  let vfs := (List.range 16).map (· + 1)
  let p := vfs.foldl strikeVfRecords (endSeal (endStrikes p))
  let p := clearUnits 1 (releaseAll p)
  let p := vfs.foldl strikeVfReset (restoreK p (vfs.map vfPage) fun _ => false)
  let p := p.wrF (pg 3 1 + Off.ID_FLAGS) 9 9 0
  p.mapBase fun b =>
    { b with pins := { b.pins with fatalBits := b.pins.fatalBits.filter fun x => !unitClass (clsOf (x / 32)) } }

/-- Reach 2 and 3: the hub is down as well, the MSP's registers and queues go, time starts at 0 (R294, R341, R407, R434, R447).
The die links are reset with the hub, so a module fenced for the power epoch returns here (R63; DEDUCED, log 179). -/
def clearReach23 (reach : Nat) (p : Package) : Package :=
  let full := bitOf (p.rd (kindlePage + Off.BRINGUP_CTL)) 1
  let p := endSeal (endStrikes p)
  let p := p.mapBase fun b => { b with time := { ({} : TimeSt) with raw := b.time.raw } }
  let old := p.hub.quarantine.map fun e => e.1
  let p := old.foldl releasePitch (releaseAll p)
  let p := clearUnits reach p
  { p with
    base := { p.base with
      msp := {}, pins := { ({} : Pins) with thermtrip := p.base.pins.thermtrip }
      kin := { p.base.kin with
        pending1 := false, hubTried := 0, slot := 0, imgTries := 0, slotsFailed := 0, imgRunning := false, fallback := false, routes := []
        forceFull := full, waited := 0, waitStart := none } }
    dies := {}, host := {}, pwr := {}, sealed := {}
    hub := { p.hub with
      ring := if 3 ≤ reach then [] else p.hub.ring
      ringSel := [], ringLatch := [], resetRecordOwed := true
      savedDram := if 3 ≤ reach then [] else p.hub.savedDram } }

/-- Every reset of a Weir clears all of it but its ember domain (R322). -/
def clearWeir (w : Weir) : Weir :=
  { ({} : Weir) with base :=
    { w.base with
      regs := w.base.regs.filter fun e => decide (pageOf e.1 = emberPage)
      ports := [], msp := {}, shapeW := 0, shapeH := 0
      pins := { ({} : Pins) with thermtrip := w.base.pins.thermtrip }
      time := { ({} : TimeSt) with raw := w.base.time.raw }
      kin := { w.base.kin with
        pending1 := false, hubTried := 0, slot := 0, imgTries := 0, slotsFailed := 0, imgRunning := false, fallback := false, routes := []
        forceFull := false, waited := 0, waitStart := none } } }

/-! ## The reset record in the ring (R295, R441) -/

/-- A reset record joins the hub event ring. -/
def resetRecord (p : Package) : Package :=
  let c := p.rd (em Off.LAST_CAUSE)
  let payload := le 1 (fld c 3 0) ++ le 1 (fld c 5 4) ++ le 1 (fld c 8 7) ++ le 1 0 ++ le 4 (p.rd (em Off.RESET_COUNT))
    ++ le 4 (p.rd (em Off.LAST_UPTIME))
  let (p, overw) := ringAppend p 3 0 0 payload
  let r := hubPage 3
  if overw && !bitOf (p.rd (r + Off.EVT_STAT)) 2 then raise p r 2 {} else p

/-- The record owed since the last reset is written, now that the ring is available. -/
def payResetRecord (p : Package) : Package :=
  if p.hub.resetRecordOwed then
    let p : Package := { p with hub := { p.hub with resetRecordOwed := false } }
    resetRecord p
  else p

/-! ## Kindling starts, or bring-up does (R301, R302, R309) -/

/-- The inbox, the outbox and both bulk buffers are cleared (R410). -/
def clearMspBuffers (b : Base) : Base :=
  { b with msp := { b.msp with inbox := [], outbox := [], bulkIn := [], bulkOut := [] } }

/-- Phase 3: the wait for REFCLK, and then the hub's or the management block's self-test (R301, R322). -/
def enterPhase3 (b : Base) : Base :=
  let b := showKPhase (setPhase b (.kindling 3)) 3
  if b.kin.refclk then b else startWait (kindleF b Off.KINDLE_STAT 10 10 1)

/-- Kindling starts at phase 1: the fuse array is read; a bad CRC holds the element there (R301; log 54). -/
def startKindling (b : Base) : Base :=
  let b := clearMspBuffers b
  let b := { b with kin := { b.kin with resetEnd := b.time.raw, waited := 0, waitStart := none } }
  let b := showKPhase (setPhase b (.kindling 1)) 1
  if b.kin.fuseBad then mspF (setPhase b .kindleStuck) 11 11 1
  else if b.isWeir then enterPhase3 b
  else showKPhase (setPhase b (.kindling 2)) 2

/-- Bring-up after a reach-1 reset: it starts at step 2 (R306, R309, R318). -/
def startAfter1 (b : Base) : Base :=
  let b := { b with kin := { b.kin with resetEnd := b.time.raw, waited := 0, waitStart := none } }
  let b := kindleF (kindleF (kindleF b Off.BRINGUP_STAT 5 5 0) Off.BRINGUP_STAT 7 7 1) Off.BRINGUP_STAT 10 8 0
  beginStep (showResult b 0) 2

/-- Reset ends once no source asserts it (R290, R291). -/
def endReset (b : Base) : Base :=
  match b.kin.phase with
  | .inReset r =>
    if b.kin.resetLow || b.pwr.asserted || b.kin.pending1 then b else if r = 1 then startAfter1 b else startKindling b
  | _ => b

/-- The reset of a package is applied at a reach. -/
def applyReset (reach : Nat) (p : Package) : Package :=
  if reach = 1 then resetRecord ((clearReach1 p).mapBase fun b => setPhase b (.inReset 1))
  else (clearReach23 reach p).mapBase fun b => setPhase b (.inReset reach)

/-- The reset of a Weir is applied. -/
def applyWeirReset (w : Weir) : Weir :=
  let w := clearWeir w
  { w with base := setPhase w.base (.inReset 3) }

/-! ## The power-on source (R290, R347, R367) -/

/-- A condition of the power-on source changes; the source asserted anew is an accepted reset of reach 3. -/
def powerPkg (f : PowerIn → PowerIn) (again : Bool) (p : Package) : Package :=
  let was := p.base.pwr.asserted
  let x := f p.base.pwr
  if (powerCodes x).isEmpty then { p with base := { p.base with pwr := x } }
  else
    let p : Package := { p with base := { p.base with pwr := { x with asserted := true } } }
    if was && !again then p else applyReset 3 (p.mapBase fun b => emberRecord b (powerCause x) 3)

/-- The same at a Weir. -/
def powerWeir (f : PowerIn → PowerIn) (again : Bool) (w : Weir) : Weir :=
  let was := w.base.pwr.asserted
  let x := f w.base.pwr
  if (powerCodes x).isEmpty then { w with base := { w.base with pwr := x } }
  else
    let b := { w.base with pwr := { x with asserted := true } }
    if was && !again then { w with base := b } else applyWeirReset { w with base := emberRecord b (powerCause x) 3 }

/-- A row of a power-on condition. -/
def onPower (e : Elem) (f : PowerIn → PowerIn) (s : State) : Res :=
  onElemMem e (powerPkg f false) (powerWeir f false) s

/-- INPUT_UNDERVOLTAGE; the inrush limiter waits for the input's next rise (R347; log 59). -/
def execInputUndervoltage (e : Elem) (s : State) : Res := onPower e (fun x => { x with undervoltage := true, inrush := true }) s

/-- UNDERVOLTAGE_CLEAR (R347). -/
def execUndervoltageClear (e : Elem) (s : State) : Res :=
  onBase e (fun b => { b with pwr := { b.pwr with undervoltage := false } }) s

/-- INPUT_OVERVOLTAGE: a Weir's power-on source has no such condition (R347, R322). -/
def execInputOvervoltage (e : Elem) (s : State) : Res :=
  onElemMem e (powerPkg (fun x => { x with overvoltage := true }) false) id s

/-- OVERVOLTAGE_CLEAR (R347). -/
def execOvervoltageClear (e : Elem) (s : State) : Res :=
  onBase e (fun b => { b with pwr := { b.pwr with overvoltage := false } }) s

/-- INRUSH_LIMIT_END (R347). -/
def execInrushLimitEnd (e : Elem) (s : State) : Res := onBase e (fun b => { b with pwr := { b.pwr with inrush := false } }) s

/-- RAIL_OUT_OF_REGULATION (R290). -/
def execRailOutOfRegulation (e : Elem) (s : State) : Res := onPower e (fun x => { x with rail := true }) s

/-- RAIL_REGULATED (R290). -/
def execRailRegulated (e : Elem) (s : State) : Res := onBase e (fun b => { b with pwr := { b.pwr with rail := false } }) s

/-- THERMAL_TRIP: the latch is set, and THERMTRIP_N asserts (R367, R448). -/
def execThermalTrip (e : Elem) (s : State) : Res :=
  let pin := fun (b : Base) => { b with pins := { b.pins with thermtrip := true } }
  onElemMem e (fun p => powerPkg (fun x => { x with trip := true }) false (p.mapBase pin))
    (fun w => powerWeir (fun x => { x with trip := true }) false { w with base := pin w.base }) s

/-- The ember domain starts from no supply: its fields, the trip latch and every condition are as new; the power-on reset that
follows has cause 6 (R296, R297, R367). -/
def coldBase (b : Base) : Base :=
  let r := pg 3 0 + Off.FUSE_REACH
  let fuse := rdF b r 1 0
  let b := wrF (wrF b r 5 4 (if fuse = 0 then 3 else fuse)) r 6 6 0
  { b with
    regs := b.regs.filter fun e => decide (pageOf e.1 ≠ emberPage)
    pwr := { ({} : PowerIn) with inrush := true }
    pins := { b.pins with thermtrip := false }
    kin := { ({} : Kindle) with phase := .running, resetEnd := b.time.raw, fuseBad := b.kin.fuseBad } }

/-- EMBER_COLD_START (R296). -/
def execEmberColdStart (e : Elem) (s : State) : Res :=
  let cold := fun (b : Base) => emberRecord (coldBase b) 6 3
  onElemMem e (fun p => applyReset 3 (p.mapBase cold)) (fun w => applyWeirReset { w with base := cold w.base }) s

/-- POWER_ON_RELEASE: every condition has been clear for 10 ms (R290). -/
def execPowerOnRelease (e : Elem) (s : State) : Res :=
  onBase e (fun b =>
    if (powerCodes b.pwr).isEmpty ∧ b.pwr.asserted then endReset { b with pwr := { b.pwr with asserted := false } } else b) s

/-! ## The pins (R291, R293) -/

/-- A RESET_N reset of a package: one reset with the power-on source where that is asserted; a reach-1 reset waits for the
hub (R291–R293). -/
def resetNPkg (p : Package) : Package :=
  if p.base.kin.resetLow then p
  else
    let p := p.mapBase fun b => { b with kin := { b.kin with resetLow := true } }
    if p.base.pwr.asserted then p
    else
      let reach := resetReach p.base
      let cause := if duringNow p.base = 1 then 9 else 8
      let p := p.mapBase fun b => emberRecord b cause reach
      if reach = 1 then p.mapBase fun b => { b with kin := { b.kin with pending1 := true } } else applyReset reach p

/-- The same at a Weir. -/
def resetNWeir (w : Weir) : Weir :=
  if w.base.kin.resetLow then w
  else
    let b := { w.base with kin := { w.base.kin with resetLow := true } }
    if b.pwr.asserted then { w with base := b }
    else applyWeirReset { w with base := emberRecord b (if duringNow b = 1 then 9 else 8) 3 }

/-- An accepted PORST_N pulse: a power-on reset of its own, which clears the trip latch (R290, R291, R367). -/
def porstIn (x : PowerIn) : PowerIn := { x with porst := true, trip := false }
def porstPkg (p : Package) : Package :=
  if p.base.pwr.porst then p
  else powerPkg porstIn true (p.mapBase fun b => { b with pins := { b.pins with thermtrip := false } })
def porstWeir (w : Weir) : Weir :=
  if w.base.pwr.porst then w
  else powerWeir porstIn true { w with base := { w.base with pins := { w.base.pins with thermtrip := false } } }

/-- RESET_PULSE_ACCEPTED (R291). -/
def execResetPulseAccepted (e : Elem) (pin : Pin) (s : State) : Res :=
  match pin with
  | .resetN => onElemMem e resetNPkg resetNWeir s
  | .porstN => onElemMem e porstPkg porstWeir s

/-- RESET_GLITCH: only the pin's count moves; a package raises GLITCH (R291, R317). -/
def execResetGlitch (e : Elem) (pin : Pin) (s : State) : Res :=
  let f := fun (b : Base) => match pin with
    | .resetN => bumpF b (em Off.GLITCH_CNT) 15 0
    | .porstN => bumpF b (em Off.GLITCH_CNT) 31 16
  onElem e (fun p => raise (p.mapBase f) emberPage 0 {}) (fun w => { w with base := f w.base }) s

/-- RESET_PIN_RELEASE (R291). -/
def execResetPinRelease (e : Elem) (pin : Pin) (s : State) : Res :=
  onBase e (fun b => match pin with
    | .resetN => endReset { b with kin := { b.kin with resetLow := false } }
    | .porstN => { b with pwr := { b.pwr with porst := false } }) s

/-- A reach-1 reset that waited is applied; it ends at once where its pin has already been released. -/
def applyPending (reach : Nat) (p : Package) : Package :=
  if p.base.kin.pending1 then
    (applyReset reach (p.mapBase fun b => { b with kin := { b.kin with pending1 := false } })).mapBase endReset
  else p

/-- HUB_RESET_ACK: the reset runs at reach 1 (R293). -/
def execHubResetAck (p : Nat) (s : State) : Res := onPkgMem p (applyPending 1) s

/-- RESET_ESCALATE: the reset is applied as reach 2, and ESCALATED is set (R293). -/
def execResetEscalate (p : Nat) (s : State) : Res :=
  onPkgMem p (fun x =>
    if x.base.kin.pending1 then applyPending 2 ((x.wrF (em Off.LAST_CAUSE) 5 4 2).wrF (em Off.LAST_CAUSE) 6 6 1) else x) s

end Sys2Proof.Machine
end

