-- ==== Sys2Proof/Machine/Kindling.lean ====
section
/-! DEFINITION. Kindling: the strap, REFCLK, the hub's self-test, the image and the blob, and where kindling ends (R68, R76,
R298–R305, R307, R322, R350, R411, R462). The content of the blob's sections is laid out in the model's own form (log 60). -/

namespace Sys2Proof.Machine

/-! ## The strap (R298, R299) -/

/-- The band whose code window holds a sample. -/
def bandOf (code : Nat) : Option Nat :=
  let k := code / 64
  let r := code % 64
  if 1023 < code then none
  else if k = 0 then (if r ≤ 56 then some 0 else none)
  else if k = 15 then (if 8 ≤ r then some 15 else none)
  else if 8 ≤ r ∧ r ≤ 56 then some k else none

/-- The settings of a band: image slot (0 A, 1 B), free clock mode, x8x8 host link, bench, the hub it forces, hold, and pin
reach. -/
def bandSlot (band : Nat) : Nat := if band = 1 ∨ band = 3 ∨ band = 9 then 1 else 0
def bandFree (band : Nat) : Bool := decide (band = 2 ∨ band = 3 ∨ band = 10)
def bandX8 (band : Nat) : Bool := decide (band = 8 ∨ band = 9 ∨ band = 10 ∨ band = 14)
def bandBench (band : Nat) : Bool := decide ((8 ≤ band ∧ band ≤ 11) ∨ band = 14)
def bandHub (band : Nat) : Option Nat := if band = 6 then some 0 else if band = 7 ∨ band = 13 then some 1 else none
def bandHold (band : Nat) : Bool := decide (12 ≤ band)
def bandReach (band : Nat) : Nat := if band = 4 then 1 else if band = 5 ∨ band = 14 ∨ band = 15 then 3 else 2

/-- The band in force at a package. -/
def Package.band (p : Package) : Nat := p.rdF (pg 3 0 + Off.STRAP_STAT) 3 0

/-- Bench mode (R300). -/
def Package.bench (p : Package) : Bool := bandBench p.band

/-- A band comes into force: its clock mode, host link and pin reach are set, and MSP_STATUS shows it (R76, R292, R319, R408). -/
def takeBand (p : Package) (band : Nat) (ambiguous : Bool) : Package :=
  let s := pg 3 0 + Off.STRAP_STAT
  let f := pg 3 0 + Off.FUSE_REACH
  let fuse := p.rdF f 1 0
  let p := (p.wrF s 3 0 band).wrF s 14 14 (b2n ambiguous)
  let p := (p.wrF f 5 4 (if fuse = 0 then bandReach band else fuse)).wrF f 6 6 (b2n (decide (fuse = 0)))
  let p := (p.wrF (pw Off.PWR_CTL) 0 0 (b2n (bandFree band))).wrF (pfPage + Off.HIF_CFG) 12 12 (b2n (bandX8 band))
  p.mapBase fun b => mspF b 19 16 band

/-- STRAP_MEASUREMENT: eight samples in one band decide; the fifth ambiguous measurement gives band 15 (R298). -/
def strapMeasurement (p : Package) (samples : List Nat) : Package :=
  if p.base.kin.phase ≠ .kindling 2 ∨ samples.length ≠ 8 then p
  else
    let n := p.rdF (kindlePage + Off.KINDLE_STAT) 5 3 + 1
    let p := p.wrF (kindlePage + Off.KINDLE_STAT) 5 3 n
    let p := p.wrF (pg 3 0 + Off.STRAP_STAT) 13 4 (samples.headD 0)
    let first := bandOf (samples.headD 0)
    let p' := fun (band : Nat) (amb : Bool) => (takeBand p band amb).mapBase enterPhase3
    match first with
    | some band => if samples.all (fun x => bandOf x = first) then p' band false else if 5 ≤ n then p' 15 true else p
    | none => if 5 ≤ n then p' 15 true else p

/-- STRAP_MEASUREMENT (R298). -/
def execStrapMeasurement (p : Nat) (samples : List Nat) (s : State) : Res := onPkg p (fun x => strapMeasurement x samples) s

/-! ## REFCLK and the self-test (R68, R301, R322) -/

/-- REFCLK_PRESENT (R301). -/
def execRefclkPresent (e : Elem) (s : State) : Res :=
  onBase e (fun b =>
    let b := { b with kin := { b.kin with refclk := true } }
    if b.kin.phase = .kindling 3 then endWait (kindleF b Off.KINDLE_STAT 10 10 0) else b) s

/-- An image request for a slot (R303, R411). -/
def requestImage (b : Base) (slot : Nat) : Base :=
  sendTc { b with kin := { b.kin with slot := slot, imgTries := b.kin.imgTries + 1 } } 0x01 (le 4 slot)

/-- Phase 4 begins: HB toggles, and the image of the first slot is requested (R301, R303). -/
def enterPhase4 (b : Base) (slot : Nat) : Base :=
  let b := showKPhase (setPhase b (.kindling 4)) 4
  requestImage { b with pins := { b.pins with hb := true } } slot

/-- HUB_SELF_TEST_DONE at a package: the candidate becomes the hub, or the other is tried, or kindling holds (R68). -/
def hubSelfTest (p : Package) (hub : Nat) (pass : Bool) : Package :=
  let forced := bandHub p.band
  let candidate := forced.getD p.base.kin.hubTried
  if p.base.kin.phase ≠ .kindling 3 ∨ !p.base.kin.refclk ∨ hub ≠ candidate then p
  else if pass then
    p.mapBase fun b => enterPhase4 (mspF (kindleF b Off.KINDLE_STAT 6 6 hub) 9 9 hub) (bandSlot p.band)
  else if forced.isNone ∧ hub = 0 then
    p.mapBase fun b => kindleF { b with kin := { b.kin with hubTried := 1 } } Off.KINDLE_STAT 7 7 1
  else p.mapBase fun b => setPhase b .kindleStuck

/-- The same of a Weir's management block: one candidate, slot A first; a Weir whose block fails has failed (R322, R323). -/
def weirSelfTest (w : Weir) (pass : Bool) : Weir :=
  if w.base.kin.phase ≠ .kindling 3 ∨ !w.base.kin.refclk then w
  else { w with base := if pass then enterPhase4 w.base 0 else showResult (setPhase w.base .kindleStuck) 3 }

/-- HUB_SELF_TEST_DONE (R68). -/
def execHubSelfTestDone (e : Elem) (hub : Nat) (pass : Bool) (s : State) : Res :=
  onElem e (fun p => hubSelfTest p hub pass) (fun w => weirSelfTest w pass) s

/-! ## The image (R303) -/

/-- The element waits for its image. -/
def wantsImage (b : Base) : Bool := decide (b.kin.phase = .kindling 4) && !b.kin.imgRunning && decide (b.kin.slotsFailed < 2)

/-- A slot has failed: the other is fetched once; after both, kindling holds in phase 4. -/
def slotFails (b : Base) : Base :=
  if b.kin.slotsFailed = 0 then
    let b := { b with kin := { b.kin with slotsFailed := 1, imgTries := 0, fallback := true } }
    requestImage (kindleF b Off.KINDLE_STAT 9 9 1) (1 - b.kin.slot)
  else startWait { b with kin := { b.kin with slotsFailed := 2 } }

/-- A request for the image has failed: up to three are made of a slot. -/
def imageRequestFails (b : Base) : Base := if b.kin.imgTries < 3 then requestImage b b.kin.slot else slotFails b

/-- IMAGE_REQUEST_TIMEOUT (R303). -/
def execImageRequestTimeout (e : Elem) (s : State) : Res := onBase e (fun b => if wantsImage b then slotFails b else b) s

/-- The slot an element asks for first. -/
def firstSlot (b : Base) : Nat := if b.isWeir then 0 else bandSlot (rdF b (pg 3 0 + Off.STRAP_STAT) 3 0)

/-- IMAGE_SLOT_RETRY: both slots are tried again (R303). -/
def execImageSlotRetry (e : Elem) (s : State) : Res :=
  onBase e (fun b =>
    if b.kin.phase = .kindling 4 ∧ b.kin.slotsFailed = 2 then
      requestImage (endWait { b with kin := { b.kin with slotsFailed := 0, imgTries := 0 } }) (firstSlot b)
    else b) s

/-- BLOB_REQ, counted in BLOB_TRIES (R304, R411). -/
def requestBlob (b : Base) : Base :=
  sendTc (kindleF b Off.KINDLE_STAT 23 16 (satAdd 255 (rdF b (kindlePage + Off.KINDLE_STAT) 23 16) 1)) 0x02 []

/-- The image verified runs. -/
def imageRuns (b : Base) : Base :=
  let b := { b with kin := { b.kin with imgRunning := true } }
  kindleF b Off.KINDLE_STAT 8 8 b.kin.slot

/-! ## The blob (R304) -/

/-- The sections of a blob, `n` of them: type and content; none where they do not fill it exactly. -/
def blobSections : Nat → Bytes → Option (List (Nat × Bytes))
  | 0, b => if b.isEmpty then some [] else none
  | n + 1, b =>
    let len := fieldAt b 2 2
    if b.length < 4 + len ∨ byteAt b 1 ≠ 0 then none
    else (blobSections n (b.drop (4 + len))).map fun l => (byteAt b 0, (b.drop 4).take len) :: l

/-- The sections of a valid blob for a serial; `needed` types must be there (R304). -/
def readBlob (b : Bytes) (serialLo : Nat) (needed : List Nat) : Option (List (Nat × Bytes)) :=
  if b.length < 16 ∨ fieldAt b 0 2 ≠ 1 ∨ fieldAt b 4 4 ≠ b.length ∨ fieldAt b 8 4 ≠ serialLo
      ∨ crc32 (b.take 12 ++ zeros 4 ++ b.drop 16) ≠ fieldAt b 12 4 then none
  else
    match blobSections (fieldAt b 2 2) (b.drop 16) with
    | none => none
    | some l =>
      let types := l.map fun e => e.1
      if types.length = (dedup types).length ∧ needed.all (fun t => types.contains t) then some l else none

/-- The content of a section. -/
def blobPart (l : List (Nat × Bytes)) (type : Nat) : Option Bytes := (l.find? fun e => decide (e.1 = type)).map fun e => e.2

/-- Section 3: saved port entries of 20 bytes (R193; log 60). -/
def loadSaved (b : Base) (c : Bytes) : Base :=
  (List.range (c.length / 20)).foldl (fun b i =>
    let e := c.drop (20 * i)
    let q := byteAt e 0
    if q < portCount b then
      b.setPort q { b.port q with
        savedPort := byteAt e 1, savedRate := byteAt e 2 % 2, savedSerial := fieldAt e 4 8, savedEq := fieldAt e 12 8, savedValid := true }
    else b) b

/-- Section 5: EXPECT of ports, entries of 12 bytes (R192; log 60). -/
def loadExpect (b : Base) (c : Bytes) : Base :=
  (List.range (c.length / 12)).foldl (fun b i =>
    let e := c.drop (12 * i)
    let q := byteAt e 0
    if q < portCount b then
      let b := wr (wr b (portReg b q Off.EXPECT_SERIAL_LO) (fieldAt e 4 4)) (portReg b q Off.EXPECT_SERIAL_HI) (fieldAt e 8 4)
      wr b (portReg b q Off.EXPECT_CTL) (byteAt e 1 + 2 ^ 8)
    else b) b

/-- Section 6: the words of the epoch-0 tables. -/
def loadRoutes (b : Base) (c : Bytes) : Base :=
  { b with kin := { b.kin with routes := (List.range (c.length / 4)).map fun i => fieldAt c (4 * i) 4 } }

/-- What both kinds of element take of a blob: sections 1, 3, 5 and 6 (R18, R304, R322). -/
def loadCommon (b : Base) (l : List (Nat × Bytes)) : Base :=
  let b := match blobPart l 1 with
    | some c =>
      { b with rack := byteAt c 0 % 16, pos := byteAt c 1 % 64, shapeW := byteAt c 3 % 4, shapeH := byteAt c 3 / 4 % 4 }
    | none => { b with rack := 0, pos := 0 }
  let b := match blobPart l 3 with
    | some c => loadSaved b c
    | none => b
  let b := match blobPart l 5 with
    | some c => loadExpect b c
    | none => b
  match blobPart l 6 with
  | some c => loadRoutes b c
  | none => b

/-- What a package takes of a blob; no section at all stands for bench defaults (R76, R304, R350). -/
def loadBlob (p : Package) (l : List (Nat × Bytes)) : Package :=
  let p := p.mapBase fun b => loadCommon b l
  let p := match (blobPart l 2).map fun c => byteAt c 0 with
    | some 1 => p.wrF (pw Off.PWR_CTL) 0 0 0
    | some 2 => p.wrF (pw Off.PWR_CTL) 0 0 1
    | _ => p
  let p : Package := match blobPart l 4 with
    | some c => { p with hub := { p.hub with savedDram := (List.range (c.length / 8)).map fun i => fieldAt c (8 * i) 8 } }
    | none => p
  p.wrF (pw Off.CAP_TC) 10 0 (clip 400 1600 (((blobPart l 7).map fun c => fieldAt c 0 2).getD 800))

/-! ## The end of kindling (R49, R301, R305, R307, R341, R358) -/

/-- The host link trains again: at some rate, in flit mode at 64 GT/s alone (R324, R341; log 61). -/
def linkTrains (free : Nat) (p : Package) : Package :=
  let speed := 1 + Config.freeChoice free 0 % 6
  let width := if bitOf (p.rd (pfPage + Off.HIF_CFG)) 12 then 8 else 16
  p.wr (pfPage + Off.HIF_LINK) (speed + width * 2 ^ 3 + b2n (decide (speed = 6)) * 2 ^ 8)

/-- ENABLE on the hub's classes, then LOCK on all of them but the host interface. -/
def enableHubPages (p : Package) : Package :=
  let p := ([0, 1, 2, 3, 4].flatMap (classPages p)).foldl (fun p a => p.wrF (a + Off.PAGE_CTRL) 0 0 1) p
  ([0, 1, 2, 3].flatMap (classPages p)).foldl (fun p a => p.wrF (a + Off.PAGE_CTRL) 2 2 1) p

/-- The hub's firmware starts: its pages are enabled and locked, the reset record is written, and the fantail learns. -/
def hubStarts (free : Nat) (p : Package) : Package :=
  let p := enableHubPages (linkTrains free p)
  startLearning (payResetRecord (p.mapBase fun b => showKPhase (mspF (endWait b) 8 8 1) 0))

/-- Kindling is complete: the package holds in a hold band, or bring-up starts (R305, R306). -/
def finishKindling (free : Nat) (p : Package) : Package :=
  let p := hubStarts free p
  if bandHold p.band then
    raise (p.mapBase fun b => startWait (showHolding (setPhase b .held) true)) kindlePage 3 {}
  else p.mapBase fun b => beginStep b 1

/-- A sealed package kindles without a blob, never starts bring-up, and reports it (R462). -/
def finishSealed (free : Nat) (p : Package) : Package :=
  sendReady ((hubStarts free p).mapBase fun b => setPhase b .kindleStuck) 3

/-- Bench defaults: no saved settings, rack 0, slot 0, the strap's clock mode (R304). -/
def benchDefaults (p : Package) : Package :=
  let forget := fun (x : Port) => { x with savedValid := false }
  let p : Package := { p with
    base := { p.base with ports := p.base.ports.map fun e => (e.1, forget e.2) }
    hub := { p.hub with savedDram := [] } }
  loadBlob (p.wrF (kindlePage + Off.KINDLE_STAT) 11 11 1) []

/-- BLOB_REQUEST_RETRY at a package: another request, or bench defaults after three (R304). -/
def blobRetry (free : Nat) (p : Package) : Package :=
  if p.base.kin.phase ≠ .kindling 4 ∨ !p.base.kin.imgRunning then p
  else if p.bench ∧ 3 ≤ p.rdF (kindlePage + Off.KINDLE_STAT) 23 16 then
    finishKindling free (benchDefaults p)
  else p.mapBase fun b => requestBlob (startWait b)

/-- The same at a Weir, which repeats its request without limit (R322). -/
def weirBlobRetry (w : Weir) : Weir :=
  if w.base.kin.phase ≠ .kindling 4 ∨ !w.base.kin.imgRunning then w else { w with base := requestBlob (startWait w.base) }

/-- A row of an element whose package uses open values. -/
def onElemFree (e : Elem) (fp : Nat → Package → Package) (fw : Weir → Weir) (s : State) : Res :=
  match e with
  | .pkg k => onPkgFree k fp s
  | .weir k => onWeir k fw s

/-- BLOB_REQUEST_RETRY (R304). -/
def execBlobRequestRetry (e : Elem) (s : State) : Res := onElemFree e blobRetry weirBlobRetry s

/-! ## A Weir's start-up (R322) -/

/-- The up-ports that section 1 names as cabled for the span's shape (R165). -/
def cabledUpPorts (b : Base) : List Nat :=
  (if b.shapeW = 0 then [] else [64, 65, 66, 67]) ++ (if b.shapeH = 0 then [] else [68, 69, 70, 71])

/-- A Weir takes its blob: its place in the span, and then its ports are enabled and train. -/
def weirStarts (w : Weir) (l : List (Nat × Bytes)) : Weir :=
  let b := loadCommon (endWait w.base) l
  let coord := b.rack % 4 + b.rack / 4 * 2 ^ 2 + b.shapeW * 2 ^ 4 + b.shapeH * 2 ^ 6 + 2 ^ 8
  let b := if b.shapeW = 0 ∧ b.shapeH = 0 then b else wr b 0x1000C coord
  let b := showKPhase b 0
  let b := (List.range 64 ++ cabledUpPorts b).foldl (fun b q => weirEnableWrite b q true) b
  { w with base := beginStep b 4 }

/-! ## BULK_DONE and BULK_UNAVAILABLE (R411) -/

/-- What a delivery of KIND came to: the bytes, where the count agrees with BULK_IN. -/
def delivered (b : Base) (bytes : Nat) : Option Bytes := if b.msp.bulkIn.length = bytes then some b.msp.bulkIn else none

/-! ## Images (R383) -/

/-- The fields of an image's header. -/
def imgType (g : Bytes) : Nat := byteAt g 4
def imgVersion (g : Bytes) : Nat := fieldAt g 8 4
def imgRollback (g : Bytes) : Nat := fieldAt g 12 4
def imgLength (g : Bytes) : Nat := fieldAt g 16 4
def imgNonce (g : Bytes) : Bytes := (g.drop 20).take 12

/-- The payload, after the 256 bytes of header. -/
def imgPayload (g : Bytes) : Bytes := g.drop 256

/-- MAGIC, and zeros where the header has no field (R383; log 185). -/
def imgHeaderOk (g : Bytes) : Bool :=
  decide (256 ≤ g.length) && decide (fieldAt g 0 4 = 0x4D495644) && ((g.drop 5).take 3 ++ (g.drop 176).take 80).all (· == 0)

/-- DIGEST is the SHA-384 of the payload as stored, and SIGNATURE verifies (R303, R384). -/
def imgVerifies (g : Bytes) : Bool :=
  imgHeaderOk g && decide ((g.drop 32).take 48 = (List.range 48).map (Config.digestByte (imgPayload g)))
    && Config.signatureOk (g.take 176)

/-- An image is delivered: a short delivery is a failed request, an image that does not verify a failed slot (R303). -/
def imageArrives (b : Base) (bytes : Nat) : Base :=
  match delivered b bytes with
  | none => imageRequestFails b
  | some img => if imgVerifies img then imageRuns b else slotFails b

/-- The element waits for its blob. -/
def wantsBlob (b : Base) : Bool := decide (b.kin.phase = .kindling 4) && b.kin.imgRunning

/-- BULK_DONE at a package (R303, R304, R462). A faulty blob is discarded; the next request is BLOB_REQUEST_RETRY's. -/
def bulkDonePkg (kind bytes : Nat) (free : Nat) (p : Package) : Package :=
  let p := p.mapBase fun b => takeInbox b 0x81 (le 4 kind ++ le 4 bytes)
  if kind = 1 ∧ wantsImage p.base then
    let p := p.mapBase fun b => imageArrives b bytes
    if !p.base.kin.imgRunning then p
    else if isSealed p then finishSealed free p
    else p.mapBase requestBlob
  else if kind = 2 ∧ wantsBlob p.base then
    let needed := if p.bench then [] else [1, 6]
    match (delivered p.base bytes).bind fun b => readBlob b (p.rd (pg 3 1 + Off.ID_SERIAL_LO)) needed with
    | some l => finishKindling free (loadBlob p l)
    | none => p
  else p

/-- BULK_DONE at a Weir (R322). Its image serves the CS window as soon as it runs (R323). -/
def bulkDoneWeir (kind bytes : Nat) (w : Weir) : Weir :=
  let w : Weir := { w with base := takeInbox w.base 0x81 (le 4 kind ++ le 4 bytes) }
  if kind = 1 ∧ wantsImage w.base then
    let b := imageArrives w.base bytes
    { w with base := if b.kin.imgRunning then requestBlob (mspF b 8 8 1) else b }
  else if kind = 2 ∧ wantsBlob w.base then
    match (delivered w.base bytes).bind fun b => readBlob b (w.base.serial % 2 ^ 32) [1, 6] with
    | some l => weirStarts w l
    | none => w
  else w

/-- BULK_DONE (R411). -/
def execBulkDone (e : Elem) (kind bytes : Nat) (s : State) : Res := onElemFree e (bulkDonePkg kind bytes) (bulkDoneWeir kind bytes) s

/-- BULK_UNAVAILABLE: the request has failed; a blob's next request is BLOB_REQUEST_RETRY's (R303, R304, R411). -/
def execBulkUnavailable (e : Elem) (kind : Nat) (s : State) : Res :=
  onBase e (fun b =>
    let b := takeInbox b 0x82 (le 4 kind)
    if kind = 1 ∧ wantsImage b then imageRequestFails b else b) s

end Sys2Proof.Machine
end

