-- ==== Sys2Proof/Machine/Bringup.lean ====
section
/-! DEFINITION. Bring-up: die links, tile test and numbering, DRAM, ports, the epoch-0 tables and the ready report, of a package
and of a Weir (R63, R65, R109, R122, R129–R131, R167, R193, R210, R300, R306–R316, R320–R322). -/

namespace Sys2Proof.Machine

/-! ## How bring-up ends (R314, R316) -/

/-- A full path was used (R318). -/
def usedFull (p : Package) : Package := p.wrF (kindlePage + Off.BRINGUP_STAT) 5 5 1

/-- Bring-up fails at a step: the report is sent there, and the package stays out of service (R314, R316). -/
def failBringup (p : Package) (step die : Nat) : Package :=
  let p := p.mapBase fun b => showResult (showStep (setPhase b .failed) 7) 3
  let p := p.wrF (kindlePage + Off.BRINGUP_STAT) 10 8 step
  let p := p.wrF (kindlePage + Off.BRINGUP_TIME) 23 0 (min 0xFFFFFF (countedMs p.base))
  sendReady (raise p kindlePage 2 { c2 := step, c3 := die }) 3

/-- The unit pages that step 6 enables: port pages stay as step 4 left them (R307). -/
def unitPages (p : Package) : List Nat :=
  ((List.range p.tiles).flatMap fun t => (List.range 16).map (tilePage t) ++ [pegPage t])
    ++ ([0x20, 0x21, 0x22, 0x23, 0x38].flatMap (classPages p)).filter fun a =>
      !(decide ((clsOf a = 0x20 ∨ clsOf a = 0x21) ∧ 0x10 ≤ instOf a ∧ instOf a ≤ 0x18))

/-- The result of a bring-up that has not failed (R314). -/
def bringupResult (p : Package) : Nat :=
  let hollow := (List.range p.tiles).any fun t => p.rdF (tilePage t 0 + Off.ME_HOLLOW) 7 0 ≠ 0
  let notUp := (List.range 18).any fun q => portEnabled p.base q && !portUp p.base q
  if p.tiles < 16 || hollow || hollowStacks p ≠ 0 || notUp then 2 else 1

/-- Step 6: pages are enabled, and the package reports ready or degraded (R307, R314, R316). -/
def finishBringup (free : Nat) (p : Package) : Package :=
  let p := p.mapBase fun b => beginStep b 6
  let was := (unitPages p).filter (enabledPage p.base)
  let p := (unitPages p).foldl (hubEnable free was) p
  let r := bringupResult p
  let p := p.mapBase fun b => showResult (showStep (setPhase b .running) 7) r
  let p := p.wrF (kindlePage + Off.BRINGUP_TIME) 23 0 (min 0xFFFFFF (countedMs p.base))
  sendReady (raise p kindlePage (r - 1) {}) r

/-! ## Step 5: the epoch-0 tables (R167, R210, R306) -/

/-- The words of the blob's section 6 go to consecutive registers; what the blob leaves out stays 0. -/
def writeRoutes (b : Base) (at' : Nat → Nat) (n : Nat) : Base :=
  (List.range n).foldl (fun b i => if nth 0 b.kin.routes i = 0 then b else wr b (at' i) (nth 0 b.kin.routes i)) b

/-- Epoch 0 is written and sealed, epoch 1 stays open, and every management connection is established. -/
def epoch0Tables (p : Package) : Package :=
  let entry := fun (i : Nat) => pg 0x38 (0x10 + i / 256) + Off.ROUTE_ENTRY + 4 * (i % 256)
  let p := p.mapBase fun b => writeRoutes (beginStep b 5) entry 1024
  establishAll (p.wr (routePage + Off.ROUTE_EPOCH) 4)

/-! ## Step 4: the ports (R300, R306, R307) -/

/-- Ports are enabled and train; bench mode skips steps 4 and 5. -/
def enterPorts (free : Nat) (p : Package) : Package :=
  if p.bench then finishBringup free p
  else
    let p := p.mapBase fun b => beginStep b 4
    (List.range 18).foldl (fun p q => (p.wrF (portPage q + Off.PAGE_CTRL) 0 0 1).mapBase fun b => portEnabledNow b q) p

/-- Port training is over: every enabled port is ACTIVE, UP_UNATTESTED, PARKED or in WIRING_FAULT (R306). -/
def portsSettled (b : Base) : Bool :=
  (List.range (portCount b)).all fun q => !portEnabled b q || [6, 7, 9, 10].contains (portState b q)

/-- A port that is ACTIVE trained on the full path. -/
def anyPortFull (b : Base) : Bool :=
  (List.range (portCount b)).any fun q => portUp b q && !bitOf (rd b (portReg b q Off.PORT_STAT)) 6

/-- PORT_TRAINING_DONE at a package: steps 5 and 6 follow. -/
def portsDone (free : Nat) (p : Package) : Package :=
  if p.base.kin.phase ≠ .bringup 4 ∨ !portsSettled p.base then p
  else finishBringup free (epoch0Tables (if anyPortFull p.base then usedFull p else p))

/-- The 48 bytes of a Weir ready report (R322). -/
def weirReadyBytes (b : Base) (result : Nat) : Bytes :=
  le 1 0x31 ++ le 1 result ++ le 1 b.pos ++ le 1 (2 * b.kin.slot + 4 * b2n b.kin.fallback + 8 * b2n (anyPortFull b))
    ++ le 9 (portMap b (portUp b)) ++ le 9 (portMap b fun q => portEnabled b q && !portUp b q) ++ le 2 0
    ++ le 4 (countedMs b) ++ le 4 (rd b (em Off.RESET_COUNT)) ++ le 8 b.serial ++ zeros 8

/-- PORT_TRAINING_DONE at a Weir: its epoch-0 tables are written and sealed, and it reports (R322). -/
def weirPortsDone (w : Weir) : Weir :=
  let b := w.base
  if b.kin.phase ≠ .bringup 4 ∨ !portsSettled b then w
  else
    let entry := fun (i : Nat) => if i < 64 then slotRoute 0 i else rackRoute 0 (i - 64)
    let b := wr (writeRoutes (beginStep b 5) entry 80) 0x10000 4
    let r := if (List.range 72).any fun q => portEnabled b q && !portUp b q then 2 else 1
    let b := showResult (showStep (setPhase b .running) 7) r
    { w with base := sendTc b 0x08 (weirReadyBytes b r) }

/-- PORT_TRAINING_DONE (R306). -/
def execPortTrainingDone (e : Elem) (s : State) : Res := onElemFree e portsDone weirPortsDone s

/-! ## Step 1: the die links (R63, R65, R306) -/

/-- A trained link: all four modules, no more than two lanes repaired in each (R63). -/
def linkOk (r : LinkResult) : Bool := decide (r.modules = 15) && (List.range 4).all fun m => decide (nth 0 r.repaired m ≤ 2)

/-- Both ends of a trained link start with what their repairs left of the spares; neither holds a credit, and each owes the other its whole
buffer of 128 for each VC (R60, R63, R155). -/
def linkTrained (p : Package) (r : LinkResult) : Package :=
  let x : DiePort := { spares := (List.range 4).map fun m => 2 - nth 0 r.repaired m, owed := (List.range 8).map fun v => (v, 128) }
  (linkEnds r.link).foldl (fun p e => p.setLink e.1 e.2 x) p

/-- DIE_LINKS_TRAINED: a link that failed fails the package; all 48 lead to step 2 (R63, R306, R312). -/
def dieLinksTrained (p : Package) (rs : List LinkResult) : Package :=
  let rs := rs.filter fun r => decide (r.link < 48)
  if p.base.kin.phase ≠ .bringup 1 then p
  else
    match rs.find? fun r => !linkOk r with
    | some r => failBringup p 1 (((linkEnds r.link).headD (0xFF, 0)).1)
    | none =>
      if (List.range 48).all fun n => rs.any fun r => decide (r.link = n) then
        ((List.range 20).foldl pump (rs.foldl linkTrained p)).mapBase fun b => beginStep b 2
      else p

/-- DIE_LINKS_TRAINED (R306). -/
def execDieLinksTrained (p : Nat) (results : List LinkResult) (s : State) : Res := onPkg p (fun x => dieLinksTrained x results) s

/-! ## Step 2: tile test, repair and numbering (R310–R313, R320, R321) -/

/-- The spare lines that a bank has left; none where it needs more than 32. -/
def bankSpares (r : TileResult) (bank : Nat) : Option Nat :=
  let n := ((r.factory ++ r.failingLines).filter fun l => decide (l.1 = bank)).length
  if 32 < n then none else some (32 - n)

/-- A tile passes step 2: the factory passed it, an engine passes, no bank needs more than its spares (R310–R312). -/
def tilePasses (p : Package) (r : TileResult) : Bool :=
  bitOf (p.rd (pg 3 3 + Off.FACT_GOOD)) r.die && decide (r.engines % 512 ≠ 0) && (List.range 80).all fun k => (bankSpares r k).isSome

/-- ME_MAP of a tile: logical engines take the passing ones in ascending number; one left without reads 15 (R310). -/
def engineMap (engines : Nat) : Nat :=
  let good := bitList engines 9
  (List.range 8).foldl (fun a i => a + nth 15 good i * 2 ^ (4 * i)) 0

/-- Logical tile `n` is a die that passed: its pages say what the test found (R109, R310, R311, R313, R321). -/
def numberTile (p : Package) (n : Nat) (r : TileResult) : Package :=
  let a := tilePage n 0
  let good := (bitList r.engines 9).length
  let p := p.wr (a + Off.TILE_INFO) (r.die + n * 2 ^ 4 + r.engines % 512 * 2 ^ 8)
  let p := (p.wr (a + Off.ME_MAP) (engineMap r.engines)).wr (a + Off.ME_HOLLOW) (maskOf 7 0 - (2 ^ min 8 good - 1))
  let b := tilePage n 3
  let p := p.wr (b + Off.REPAIR_SUM) (r.factory.length % 4096 + r.failingLines.length % 4096 * 2 ^ 12)
  let p := (List.range 20).foldl (fun p k =>
    p.wr (b + Off.REPAIR_FREE + 4 * k) (ofLe ((List.range 4).flatMap fun i => le 1 ((bankSpares r (4 * k + i)).getD 0)))) p
  { p with mem := { p.mem with
    repaired := p.mem.repaired ++ (r.factory ++ r.failingLines).map fun l => (n, lineOf l.1 l.2) } }

/-- The tiles that pass, in ascending die ID. -/
def passingTiles (p : Package) (rs : List TileResult) : List TileResult :=
  (List.range 16).filterMap fun d => rs.find? fun r => decide (r.die = d) && tilePasses p r

/-- TILE_TEST_DONE: the passing tiles are numbered; none fails the package (R306, R313, R314, R320). -/
def tileTestDone (p : Package) (rs : List TileResult) : Package :=
  if p.base.kin.phase ≠ .bringup 2 then p
  else
    let good := passingTiles p rs
    let m := hubPage 1
    let map := fun (j : Nat) => (List.range 8).foldl (fun a i => a + ((good[8 * j + i]?).map TileResult.die).getD 0 * 2 ^ (4 * i)) 0
    let p := ((p.wr (m + Off.LTILE_COUNT) good.length).wr (m + Off.LTILE_MAP) (map 0)).wr (m + Off.LTILE_MAP + 4) (map 1)
    if good.isEmpty then failBringup p 2 0xFF
    else
      let p := (List.range good.length).foldl (fun p n => match good[n]? with
        | some r => numberTile p n r
        | none => p) p
      p.mapBase fun b => beginStep b 3

/-- TILE_TEST_DONE (R306). It may list lines as repaired, which is the memory's bookkeeping. -/
def execTileTestDone (p : Nat) (results : List TileResult) (s : State) : Res := onPkgMem p (fun x => tileTestDone x results) s

/-! ## Step 3: DRAM (R122, R129–R131, R306) -/

/-- A stack after its training: trained, or hollow from the start (R122). -/
def stackResult (trained : Nat) (p : Package) (s : Nat) : Package :=
  let info := pg (0x22 + s / 4) 0 + Off.MEM_INFO
  if bitOf trained s then (p.wrF (stackPage s + Off.STACK_STAT) 0 0 1).wrF info (s % 4) (s % 4) 1 else stackFails p s 1

/-- The stacks that must take the full path: all where FORCE_FULL_NEXT was 1 at the reset, else those without a saved entry
(R306; log 63). -/
def mustTrainFull (p : Package) : Nat :=
  ofBits ((List.range 8).filter fun s => p.base.kin.forceFull || !p.hub.savedDram.contains s)

/-- New DRAM entries are kept and sent to the tray controller (R306, R411). -/
def saveDram (p : Package) (which : List Nat) : Package :=
  if which.isEmpty then p
  else
    let e := which.flatMap (le 8)
    let p : Package := { p with hub := { p.hub with savedDram := dedup (p.hub.savedDram ++ which) } }
    p.mapBase fun b => sendTc { b with msp := { b.msp with bulkOut := b.msp.bulkOut ++ e } } 0x03 (le 4 e.length)

/-- DRAM_TRAINING_DONE (R306). -/
def dramTrainingDone (trained full free : Nat) (p : Package) : Package :=
  if p.base.kin.phase ≠ .bringup 3 then p
  else
    let used := full ||| mustTrainFull p
    let p := (List.range 8).foldl (stackResult trained) p
    let p := if used % 256 = 0 then p else usedFull p
    enterPorts free (saveDram p ((bitList used 8).filter fun s => bitOf trained s))

/-- DRAM_TRAINING_DONE (R306). -/
def execDramTrainingDone (p trained full : Nat) (s : State) : Res := onPkgFree p (dramTrainingDone trained full) s

end Sys2Proof.Machine
end

