-- ==== Sys2Proof/Machine/Aes.lean ====
section
/-! DEFINITION. AES-128 and its counter mode, with which a tray controller's flash interface decrypts its image regions (R375); the cipher
itself is FIPS 197's (log 166). -/

namespace Sys2Proof.Machine

/-- The substitution table, 32 bytes to a number, the first lowest. -/
def sboxRows : List Nat := [
  0xC072A49CAFA2D4ADF04759FA7DC982CA76ABD7FE2B670130C56F6BF27B777C63,
  0x75B227EBE28012079A059618C323C7041531D871F1E5A534CCF73F362693FDB7,
  0xCF584C4A39BECB6A5BB1FC20ED00D153842FE329B3D63B52A05A6E1B1A2C8309,
  0xD2F3FF1021DAB6BCF5389D928F40A351A89F3C507F02F94585334D43FBAAEFD0,
  0xDB0B5EDE14B8EE4688902A22DC4F816073195D643D7EA7C41744975FEC130CCD,
  0x08AE7A65EAF4566CA94ED58D6D37C8E779E4959162ACD3C25C2406490A3A32E0,
  0x9E1DC186B95735610EF6034866B53E708A8BBD4B1F74DDE8C6B4A61C2E2578BA,
  0x16BB54B00F2D99416842E6BF0D89A18CDF2855CEE9871E9B948ED9691198F8E1]

/-- The substitution of a byte. -/
def sbox (a : Nat) : Nat := nth 0 sboxRows (a / 32) / 2 ^ (8 * (a % 32)) % 256

/-- A byte times x in the field of AES. -/
def xtime (a : Nat) : Nat := if a < 128 then 2 * a else (2 * a - 256) ^^^ 0x1B

/-- Bytes added. -/
def xorBytes (a b : List Nat) : List Nat := (a.zip b).map fun e => e.1 ^^^ e.2

/-- The rows of the state rotate; byte `i` stands in row `i` mod 4. -/
def shiftRows (s : List Nat) : List Nat := (List.range 16).map fun i => nth 0 s ((i + 4 * (i % 4)) % 16)

/-- The columns are mixed. -/
def mixColumns (s : List Nat) : List Nat :=
  (List.range 16).map fun i =>
    let b := fun (d : Nat) => nth 0 s (i / 4 * 4 + (i + d) % 4)
    xtime (b 0) ^^^ (xtime (b 1) ^^^ b 1) ^^^ b 2 ^^^ b 3

/-- The next round key. -/
def nextKey (rcon : Nat) (k : List Nat) : List Nat :=
  let t := [sbox (nth 0 k 13) ^^^ rcon, sbox (nth 0 k 14), sbox (nth 0 k 15), sbox (nth 0 k 12)]
  let a := xorBytes (k.take 4) t
  let b := xorBytes ((k.drop 4).take 4) a
  let c := xorBytes ((k.drop 8).take 4) b
  a ++ b ++ c ++ xorBytes (k.drop 12) c

/-- The rounds, one for each round constant; the last mixes no columns. -/
def aesRounds : List Nat → List Nat → List Nat → List Nat
  | [], _, s => s
  | r :: rs, k, s =>
    let k := nextKey r k
    let s := shiftRows (s.map sbox)
    aesRounds rs k (xorBytes (if rs.isEmpty then s else mixColumns s) k)

/-- One block encrypted. -/
def aesBlock (key x : List Nat) : List Nat :=
  aesRounds [0x01, 0x02, 0x04, 0x08, 0x10, 0x20, 0x40, 0x80, 0x1B, 0x36] key (xorBytes x key)

/-- The counter block of byte offset `x` of an image: its NONCE, and x / 16 as a 32-bit big-endian integer (R375). -/
def counterBlock (nonce : Bytes) (x : Nat) : List Nat :=
  nonce.map (·.toNat) ++ [x / 16 / 2 ^ 24 % 256, x / 16 / 2 ^ 16 % 256, x / 16 / 2 ^ 8 % 256, x / 16 % 256]

/-- Byte `x` of an image, decrypted or encrypted: the byte stored, added to that of the key stream (R375). -/
def ctrByte (key : List Nat) (nonce : Bytes) (x : Nat) (b : Byte) : Byte :=
  BitVec.ofNat 8 (b.toNat ^^^ nth 0 (aesBlock key (counterBlock nonce x)) (x % 16))

end Sys2Proof.Machine
end

