-- ==== Sys2Proof/Machine/WeirColl.lean ====
section
/-! DEFINITION. Collectives in a Weir: contexts, SETUP, ARRIVE and GO, reduction and forwarding of DATA, RESULT, BREAK and
deadlines; and the forwarding row, which hands collective packets to them (R164, R234–R256, R261, R428). -/

namespace Sys2Proof.Machine

/-! ## Contexts (R261) -/

/-- A register of context `g`. -/
def wctxReg (g off : Nat) : Nat := 0x40000 + 0x20 * g + off

/-- WCTX_CTL's bits. -/
def wCommit (w : Weir) (g : Nat) : Bool := bitOf (w.rd (wctxReg g 0)) 16
def wBroken (w : Weir) (g : Nat) : Bool := bitOf (w.rd (wctxReg g 0)) 17
def wDrop (w : Weir) (g : Nat) : Bool := bitOf (w.rd (wctxReg g 0)) 19
def wLead (w : Weir) (g : Nat) : Bool := bitOf (w.rd (wctxReg g 0)) 20
def wRoot (w : Weir) (g : Nat) : Bool := bitOf (w.rd (wctxReg g 0)) 21
def wPitch (w : Weir) (g : Nat) : Nat := fld (w.rd (wctxReg g 0)) 11 0

/-- CUR_SEQ, PHASE, member racks, own slots, ranks. -/
def wSeq (w : Weir) (g : Nat) : Nat := fld (w.rd (wctxReg g 8)) 15 0
def wPhase (w : Weir) (g : Nat) : Nat := fld (w.rd (wctxReg g 0x1C)) 1 0
def wRacks (w : Weir) (g : Nat) : List Nat := bitList (w.rd (wctxReg g 0xC)) 16
def wSlotMap (w : Weir) (g : Nat) : Nat := rd64 w.base (wctxReg g 0x10)
def wSlots (w : Weir) (g : Nat) : List Nat := bitList (wSlotMap w g) 64
def wSize (w : Weir) (g : Nat) : Nat := fld (w.rd (wctxReg g 0x18)) 26 16

/-- The rank of an own slot (R235, R261), and the root rack. -/
def wRank (w : Weir) (g s : Nat) : Nat := fld (w.rd (wctxReg g 0x18)) 9 0 + popcount (wSlotMap w g) s
def wRootRack (w : Weir) (g : Nat) : Nat := (wRacks w g).headD w.base.rack

/-- Setting CUR_SEQ and PHASE. -/
def setSeq (w : Weir) (g v : Nat) : Weir := w.mapBase fun b => wrF b (wctxReg g 8) 15 0 v
def setCtxPhase (w : Weir) (g v : Nat) : Weir := w.mapBase fun b => wrF b (wctxReg g 0x1C) 1 0 v

/-- A context's working state, and it replaced. -/
def Weir.ctx (w : Weir) (g : Nat) : WCtx := mget {} w.ctxs g
def Weir.setCtx (w : Weir) (g : Nat) (x : WCtx) : Weir := { w with ctxs := mset w.ctxs g x }

/-- The own members that are not dropped. -/
def liveSlots (w : Weir) (g : Nat) : List Nat := (wSlots w g).filter fun s => !bitOf (w.ctx g).dropped (wRank w g s)

/-- The first rank of each member rack on this plane, as the Weir contexts of the group hold it (R235, R261; log 164). -/
def rackBases (s : State) (k g : Nat) : List (Nat × Nat) :=
  (wRacks (weirOf s k) g).filterMap fun r =>
    let w := weirOf s (18 * r + k % 18)
    if wCommit w g then some (r, fld (w.rd (wctxReg g 0x18)) 9 0) else none

/-- The rack that holds a rank: the highest whose first rank is not above it (R235). -/
def rackOfRank (bs : List (Nat × Nat)) (rank : Nat) : Option Nat :=
  ((bs.filter fun e => decide (e.2 ≤ rank)).getLast?).map fun e => e.1

/-- The ranks that take part (R256). -/
def liveRanks (w : Weir) (g : Nat) : List Nat := (List.range (wSize w g)).filter fun r => !bitOf (w.ctx g).dropped r

/-- The other racks that contribute: all but those whose every rank is dropped. -/
def liveRacks (w : Weir) (bs : List (Nat × Nat)) (g : Nat) : List Nat :=
  (wRacks w g).filter fun r => decide (r ≠ w.base.rack) &&
    (!(bs.any fun e => decide (e.1 = r)) || (liveRanks w g).any fun n => rackOfRank bs n = some r)

/-- Records of a context's events at the Weir: 16 broken, 17 mismatch, 18 reduced (R261; log 30). -/
def collEvent (w : Weir) (g bit seq n : Nat) : Weir :=
  w.mapBase fun b => weirRecord b 0 bit 2 { c2 := g + n * 2 ^ 16, c3 := seq }

/-! ## Packets a Weir makes (R166, R245) -/

/-- The Weir's ACTIVE epoch (R166). -/
def ownEpoch (w : Weir) : Nat := fld (w.rd 0x10000) 0 0

/-- A collective packet from this Weir to a slot of a rack. -/
def fromWeir (w : Weir) (g epoch seq rack slot : Nat) (last : Bool) (hdr payload : Bytes) : Pkt :=
  { cls := 2, epoch := epoch, pitch := wPitch w g, destRack := rack, destSlot := slot, srcRack := w.base.rack, ordered := true,
    plane := w.base.pos, op := .coll, last := last, conn := g, psn := seq, coll := hdr, payload := payload }

/-- The same header with a CREDIT (R247). -/
def withCredit (hdr : Bytes) (n : Nat) : Bytes := hdr.take 11 ++ le 2 n ++ zeros 4

/-- A result goes to own slots, each with the credits owed to it, and to other racks; slots that are owed credit and receive
nothing are sent an empty RESULT (R244, R245; log 36). -/
def sendResults (w : Weir) (g epoch seq : Nat) (slots racks owed : List Nat) (last : Bool) (hdr payload : Bytes) : Weir :=
  let credit := fun (s : Nat) => (owed.filter (· = s)).length
  let w := slots.foldl (fun w s => weirOriginate w (fromWeir w g epoch seq w.base.rack s last (withCredit hdr (credit s)) payload)) w
  let w := racks.foldl (fun w r => weirOriginate w (fromWeir w g epoch seq r 0 last hdr payload)) w
  (dedup (owed.filter fun s => !slots.contains s)).foldl
    (fun w s => weirOriginate w (fromWeir w g epoch seq w.base.rack s false (withCredit hdr (credit s)) [])) w

/-- A REJECT to the sender of a packet (R252, R256). -/
def rejectTo (w : Weir) (k : Pkt) (status : Nat) : Weir :=
  let w := w.bump 0x30004
  weirOriginate w { fromWeir w k.conn k.epoch k.psn k.srcRack k.srcSlot true
    (collHdr 5 (cOp k) (cFmt k) (cRedop k) false false (cRank k) status 0 0) [] with pitch := k.pitch }

/-- A BREAK of a collective of some form, with its status and map, to own members and to racks (R247, R250, R254; log 35). -/
def sendBreak (w : Weir) (g epoch seq : Nat) (form : Nat × Nat × Nat) (reduced : Bool) (status map : Nat) (racks : List Nat) : Weir :=
  let hdr := collHdr 4 form.1 form.2.1 form.2.2 reduced false 0 0 status 0
  let w := (wSlots w g).foldl (fun w s => weirOriginate w (fromWeir w g epoch seq w.base.rack s true hdr (le 128 map))) w
  racks.foldl (fun w r => weirOriginate w (fromWeir w g epoch seq r 0 true hdr (le 128 map))) w

/-- OP, FMT and REDOP of a packet's collective (R247). -/
def formOf (k : Pkt) : Nat × Nat × Nat := (cOp k, cFmt k, cRedop k)

/-- A collective is over at this context: CUR_SEQ advances, and the context is idle; dropped ranks stay dropped (R252, R256). -/
def finishCtx (w : Weir) (g : Nat) : Weir :=
  let x := w.ctx g
  setCtxPhase (setSeq (w.setCtx g { dropped := x.dropped }) g ((wSeq w g + 1) % 2 ^ 16)) g 0

/-- Where this Weir's BREAK goes beside its own members: the root's to the other racks, another's to the root (R254). -/
def breakRacks (w : Weir) (g : Nat) : List Nat :=
  if wRoot w g then (wRacks w g).filter (· ≠ w.base.rack) else [wRootRack w g]

/-- The context is marked BROKEN (R254). -/
def markBroken (w : Weir) (g : Nat) : Weir :=
  let w := w.mapBase fun b => wrF b (wctxReg g 0) 17 17 1
  setCtxPhase (finishCtx (w.bump 0x30008) g) g 3

/-- The Weir breaks the group: BREAK with the missing map, then its context is broken (R254). -/
def breakCtx (w : Weir) (g map : Nat) : Weir :=
  let x := w.ctx g
  let seq := wSeq w g
  let w := sendBreak w g (ownEpoch w) seq x.form (decide (x.dropped ≠ 0)) St.groupBroken map (breakRacks w g)
  markBroken (collEvent w g 16 seq (popcount map 1024)) g

/-! ## Taking a packet -/

/-- A packet leaves the list of those accepted. -/
def weirTake (w : Weir) (q : Nat) (k : Pkt) : Weir :=
  if w.taken.contains (q, k) then
    { w with taken := w.taken.erase (q, k), base := inflightSub w.base k.epoch }
  else w

/-- What a sequence number says of a packet: that of the context, stale and counted, or newer (R252). -/
inductive SeqIs where
  | current | stale | ahead
  deriving DecidableEq, Repr
def seqCheck (w : Weir) (g psn : Nat) : SeqIs × Weir :=
  let cur := wSeq w g
  if psn = cur then (.current, w)
  else if serialGt 16 cur psn then (.stale, w.bump 0x30000)
  else (.ahead, w)

/-- A packet of another Weir is taken for the sequence that runs; a stale one is counted, and a newer one, which no member sent, is
discarded (R252; log 38). -/
def ifCurrent (w : Weir) (g : Nat) (k : Pkt) (f : Weir → Weir) : Weir :=
  match seqCheck w g k.psn with
  | (.current, w) => f w
  | (.stale, w) => w
  | (.ahead, w) => w.bump 0x3000C

/-- A collective packet of a type reaches its context: discarded where the context is absent or broken, stale, or rejected for
its sequence; else handed on (R252, R254). -/
def weirCollIn (ctype : Nat) (f : Weir → Nat → Nat → Pkt → Weir) (w : Weir) (q : Nat) (k : Pkt) : Weir :=
  if k.op ≠ .coll ∨ cType k ≠ ctype ∨ !weirConsumes w q k then w
  else
    let w := weirTake w q k
    let g := k.conn
    if !wCommit w g || wBroken w g then w.bump 0x3000C
    else f w g q k

/-! ## SETUP (R237, R238) -/

/-- The fields of WCTX_CTL and WCTX_RANK that the context block lists; BROKEN is read only (R261). -/
def ctlFields (v : Nat) : Nat := v % 2 ^ 12 + fld v 16 16 * 2 ^ 16 + fld v 21 18 * 2 ^ 18
def rankFields (v : Nat) : Nat := v % 2 ^ 10 + fld v 26 16 * 2 ^ 16

/-- Whether a commit or uncommit may be written now: no object that stays committed changes, and none is uncommitted in the data phase
while it is not broken (R51, R238). -/
def ctxRefusal (w : Weir) (g ctl : Nat) : Option Nat :=
  if !wCommit w g then none
  else if bitOf ctl 16 then (if ctlFields ctl = ctlFields (w.rd (wctxReg g 0)) then none else some 5)
  else if wPhase w g = 2 && !wBroken w g then some 1
  else none

/-- WCTX_CTL is written: an uncommit discards every packet and partial result of the context, and with them BROKEN and the phase
(R238, R254). -/
def ctxCtl (w : Weir) (g ctl : Nat) : Weir :=
  if wCommit w g && bitOf ctl 16 then w
  else (setCtxPhase (w.setCtx g {}) g 0).wr (wctxReg g 0) (ctlFields ctl)

/-- The other registers of the context. -/
def ctxField (w : Weir) (g off v : Nat) : Weir :=
  if off = 4 then w.wr (wctxReg g 4) (v % 2 ^ 24)
  else if off = 8 ∨ off = 0xC then w.wr (wctxReg g off) (v % 2 ^ 16)
  else if off = 0x10 ∨ off = 0x14 then w.wr (wctxReg g off) (v % 2 ^ 32)
  else if off = 0x18 then w.wr (wctxReg g 0x18) (rankFields v)
  else w

/-- A SETUP image's words are written, or refused and the context left as it is (R51, R238, R261). -/
def setupApply (w : Weir) (g : Nat) (img : Bytes) : Weir :=
  let ctl := fieldAt img 0 4
  if (ctxRefusal w g ctl).isSome || (wCommit w g && bitOf ctl 16) then w
  else [4, 8, 0xC, 0x10, 0x14, 0x18].foldl (fun w off => ctxField w g off (fieldAt img off 4)) (ctxCtl w g ctl)

/-- The image of a context. -/
def setupImage (w : Weir) (g : Nat) : Bytes := (List.range 8).flatMap fun i => le 4 (w.rd (wctxReg g (4 * i)))

/-- SETUP: applied only on a down-port with pitch 0, and answered with the context's state (R237). -/
def setupIn (w : Weir) (q : Nat) (k : Pkt) : Weir :=
  if k.op ≠ .coll ∨ cType k ≠ 6 then w
  else
    let w := weirTake w q k
    if 64 ≤ q ∨ k.pitch ≠ 0 then w.bump 0x3000C
    else
      let w := setupApply w k.conn k.payload
      weirOriginate w { fromWeir w k.conn k.epoch k.psn k.srcRack k.srcSlot true (collHdr 6 0 0 0 false false 0 0 0 0)
        (setupImage w k.conn) with cls := 3, pitch := 0 }

/-- SETUP (R237). -/
def execSetup (w port : Nat) (pkt : Pkt) (s : State) : Res := onWeir w (fun x => setupIn x port pkt) s

/-! ## ARRIVE and GO (R243, R250, R251, R256) -/

/-- Counts a member of a variable form announces. -/
def arrivalWords (w : Weir) (g op : Nat) : Nat := if op = 7 then 1 else if op = 6 ∨ op = 8 then wSize w g else 0

/-- The packets of one rank, and whether it has fully arrived (R243). -/
def arrivalsOf (x : WCtx) (rank : Nat) : List Pkt := x.arrivals.filter fun k => decide (cRank k = rank)
def fullyArrived (w : Weir) (g rank : Nat) : Bool :=
  match arrivalsOf (w.ctx g) rank with
  | [] => false
  | k :: ks => decide ((arrivalWords w g (cOp k) + 63) / 64 ≤ ks.length + 1)

/-- The ranks that take part and have not fully arrived. -/
def missingRanks (w : Weir) (g : Nat) : List Nat := (liveRanks w g).filter fun r => !fullyArrived w g r

/-- The counts a rank announced. -/
def countsOf (x : WCtx) (rank n : Nat) : List Nat :=
  let ps := arrivalsOf x rank
  let bytes := (List.range 16).flatMap fun i => ((ps.find? fun k => decide (cHalf k = i)).map fun k => k.payload).getD []
  (List.range n).map fun i => fieldAt bytes (4 * i) 4

/-- The ranks whose parameters differ from the lowest rank's (R250, R251). -/
def differing (w : Weir) (g : Nat) (ranks : List Nat) : List Nat :=
  let x := w.ctx g
  match ranks.filterMap fun r => (arrivalsOf x r).head? with
  | [] => []
  | k0 :: _ =>
    let n := wSize w g
    ranks.filter fun r =>
      match (arrivalsOf x r).head? with
      | none => false
      | some k =>
        decide (cOp k ≠ cOp k0 ∨ cFmt k ≠ cFmt k0 ∨ cRedop k ≠ cRedop k0)
          || (!isVariable (cOp k) && decide (cWord k ≠ cWord k0))
          || (cOp k = 3 && decide (cHalf k ≠ cHalf k0))
          || (cOp k = 6 && decide (countsOf x r n ≠ countsOf x (cRank k0) n))

/-- The words of the GO for a rank: the dropped map of a reduced collective, then the counts (R251, R256; log 37). -/
def goTable (w : Weir) (g op rank : Nat) (reduced : Bool) (map : Nat) : List Nat :=
  let x := w.ctx g
  let n := wSize w g
  let low := ((liveRanks w g).headD 0)
  (if reduced then (List.range 32).map fun i => map / 2 ^ (32 * i) % 2 ^ 32 else [])
    ++ (if op = 6 then countsOf x low n
        else if op = 7 then (List.range n).map fun r => nth 0 (countsOf x r 1) 0
        else if op = 8 then (List.range n).map fun r => nth 0 (countsOf x r n) rank
        else [])

/-- GO is multicast to every member that arrived; a barrier is then over (R243, R256). -/
def sendGo (w : Weir) (g epoch : Nat) (reduced : Bool) (map : Nat) : Weir :=
  let x := w.ctx g
  let seq := wSeq w g
  let firsts := (liveRanks w g).filterMap fun r => (arrivalsOf x r).head?
  let op := ((firsts.head?).map cOp).getD 4
  let w := firsts.foldl (fun w k =>
    let pkts := wordPackets (goTable w g op (cRank k) reduced map)
    let pkts := if pkts.isEmpty then [(0, [])] else pkts
    pkts.foldl (fun w e => weirOriginate w (fromWeir w g epoch seq k.srcRack k.srcSlot true
      (collHdr 1 (cOp k) (cFmt k) (cRedop k) reduced false 0 e.1 0 0) e.2)) w) w
  if op = 4 then finishCtx w g
  else setCtxPhase (w.setCtx g { w.ctx g with goSent := true, arriveStart := none }) g 2

/-- The ROOT of a BROADCAST that arrived, where it is dropped (R256). -/
def rootDropped (w : Weir) (g : Nat) : List Nat :=
  (((w.ctx g).arrivals.filter fun k => decide (cOp k = 3)).map cHalf).filter fun r => bitOf (w.ctx g).dropped r

/-- The form of the collective that the lowest rank announced. -/
def lowestForm (w : Weir) (g : Nat) : Nat × Nat × Nat :=
  match (liveRanks w g).filterMap fun r => (arrivalsOf (w.ctx g) r).head? with
  | k :: _ => formOf k
  | [] => (w.ctx g).form

/-- Every member that takes part has arrived: a COUNT_MISMATCH BREAK where they differ, a broken group where ROOT is dropped, else GO
(R243, R250, R256). -/
def arrivalsDone (w : Weir) (g epoch : Nat) : Weir :=
  let diff := differing w g (liveRanks w g)
  let dropped := (w.ctx g).dropped
  if !diff.isEmpty then
    let seq := wSeq w g
    let w := sendBreak w g epoch seq (lowestForm w g) (decide (dropped ≠ 0)) St.countMismatch (ofBits diff) (breakRacks w g)
    finishCtx (collEvent w g 17 seq diff.length) g
  else if !(rootDropped w g).isEmpty then breakCtx w g (ofBits (rootDropped w g))
  else sendGo w g epoch (decide (dropped ≠ 0)) dropped

/-- Whether a packet's sender is a member: its slot and rank on a down-port; its rack on an up-port (R256). -/
def senderOk (w : Weir) (g q : Nat) (k : Pkt) : Bool :=
  decide (k.pitch = wPitch w g) &&
    (if q < 64 then (wSlots w g).contains q && decide (cRank k = wRank w g q) else (wRacks w g).contains k.srcRack)

/-- ARRIVE at a Weir: rejected, forwarded to the root rack, or collected (R243, R245, R252, R256). -/
def arriveIn (w : Weir) (g q : Nat) (k : Pkt) : Weir :=
  if !senderOk w g q k then rejectTo w k St.notMember
  else if wLead w g && bitOf (w.ctx g).dropped (cRank k) then rejectTo w k St.groupExcluded
  else
    match seqCheck w g k.psn with
    | (.stale, w) => w
    | (.ahead, w) => rejectTo w k St.sequenceError
    | (.current, w) =>
      let started := if wPhase w g = 0 then setCtxPhase w g 1 else w
      if !wRoot w g then weirOriginate started { k with destRack := wRootRack w g, destSlot := 0 }
      else if !wLead w g then w.bump 0x3000C
      else
        let x := w.ctx g
        if x.goSent || (arrivalsOf x (cRank k)).any (fun j => decide (cHalf j = cHalf k ∨ !isVariable (cOp k))) then w
        else
          let w := started.setCtx g { x with
            arrivals := x.arrivals ++ [k], arriveStart := some (x.arriveStart.getD w.base.gtime)
            form := if x.arrivals.isEmpty then formOf k else x.form }
          if (missingRanks w g).isEmpty then arrivalsDone w g k.epoch else w

/-- The other planes' contexts of a rack learn from the lead plane's which ranks are dropped, and follow its CUR_SEQ over a collective that
ends without a data phase: a barrier, a mismatch or a break in the arrival phase (R252, R256; log 38). -/
def tellPlanes (s : State) (k g : Nat) (t : State) : State :=
  let old := weirOf s k
  let new := weirOf t k
  let ended := decide (wPhase old g < 2) && decide (wSeq new g ≠ wSeq old g)
  if !wCommit new g || !wLead new g || (!ended && decide ((new.ctx g).dropped = (old.ctx g).dropped)) then t
  else
    ((List.range 18).map fun q => k / 18 * 18 + q).foldl (fun t i =>
      let x := weirOf t i
      if i = k ∨ !wCommit x g ∨ wPitch x g ≠ wPitch new g then t
      else
        let y := x.setCtx g { x.ctx g with dropped := (new.ctx g).dropped }
        setWeir t i (if ended && decide (wSeq x g = wSeq old g) && decide (wPhase x g = 0) then setSeq y g (wSeq new g) else y)) t

/-- A command at one context of a Weir, of which the rack's other planes learn. -/
def onCtx (k g : Nat) (f : Weir → Weir) (s : State) : Res := .next (tellPlanes s k g (setWeir s k (f (weirOf s k))))

/-- ARRIVE (R243). -/
def execArrive (w port : Nat) (pkt : Pkt) (s : State) : Res := onCtx w pkt.conn (fun x => weirCollIn 0 arriveIn x port pkt) s

/-- ARRIVAL_DEADLINE: the group breaks, or under DROP goes on without the missing ranks; a dropped ROOT breaks it (R253,
R256). -/
def arrivalDeadline (w : Weir) (g : Nat) : Weir :=
  let x := w.ctx g
  if !wCommit w g || wBroken w g || x.arriveStart.isNone || x.goSent then w
  else
    let miss := missingRanks w g
    let less := w.setCtx g { x with dropped := x.dropped ||| ofBits miss }
    if !wDrop w g then breakCtx w g (ofBits miss)
    else if !(rootDropped less g).isEmpty then breakCtx w g (ofBits (miss ++ rootDropped less g))
    else if (differing less g (liveRanks less g)).isEmpty then
      sendGo (collEvent less g 18 (wSeq w g) miss.length) g (ownEpoch w) true (less.ctx g).dropped
    else arrivalsDone less g (ownEpoch w)

/-- ARRIVAL_DEADLINE (R253). -/
def execArrivalDeadline (w g : Nat) (s : State) : Res := onCtx w g (fun x => arrivalDeadline x g) s

/-! ## Reduction (R248, R249) -/

/-- One element of two inputs: its bits, and whether an INT32 sum saturated (R249). -/
def combineElem (fmt redop a b : Nat) : Nat × Bool :=
  let x := decodeElem fmt a
  let y := decodeElem fmt b
  if fmt = 10 then
    if redop = 0 then
      let (s, sat) := satAdd32 (twos 32 a) (twos 32 b)
      (toTwos 32 s, sat)
    else if redop = 1 then ((if twos 32 a < twos 32 b then b else a), false)
    else ((if twos 32 b < twos 32 a then b else a), false)
  else
    let v := if redop = 0 then sumExact [x, y] else if redop = 1 then x.max y else x.min y
    ((encodeElem fmt v).1, false)

/-- The elements of a payload, and a payload of elements. -/
def elemsOf (fmt : Nat) (b : Bytes) : List Nat :=
  let es := fmtBits fmt / 8
  (List.range (b.length / es)).map fun i => fieldAt b (i * es) es
def ofElems (fmt : Nat) (l : List Nat) : Bytes := l.flatMap (le (fmtBits fmt / 8))

/-- A NaN input is canonicalised on arrival (R249). -/
def canonElem (fmt a : Nat) : Nat :=
  if fmt = 10 then a
  else
    match decodeElem fmt a with
    | .nan => (encodeElem fmt .nan).1
    | _ => a

/-- A packet's payload with every NaN canonical (R249). -/
def canonPkt (k : Pkt) : Pkt :=
  let n := k.payload.length / (fmtBits (cFmt k) / 8) * (fmtBits (cFmt k) / 8)
  { k with payload := ofElems (cFmt k) ((elemsOf (cFmt k) k.payload).map (canonElem (cFmt k))) ++ k.payload.drop n }

/-- One level of the tree: neighbours are combined, an odd last input is carried up (R248). -/
def treeLevel (fmt redop : Nat) : List (List Nat × Bool) → List (List Nat × Bool)
  | a :: b :: rest =>
    let z := (a.1.zip b.1).map fun e => combineElem fmt redop e.1 e.2
    (z.map fun e => e.1, a.2 || b.2 || z.any fun e => e.2) :: treeLevel fmt redop rest
  | l => l

/-- The tree over all inputs, by as many levels as there are inputs at most (R248). -/
def treeReduce (fmt redop : Nat) : Nat → List (List Nat × Bool) → List Nat × Bool
  | 0, l => l.headD ([], false)
  | n + 1, l =>
    match l with
    | [] => ([], false)
    | [a] => a
    | l => treeReduce fmt redop n (treeLevel fmt redop l)

/-- The reduction of packets in the order given: bytes and SAT. -/
def reducePkts (fmt redop : Nat) (ks : List Pkt) : Bytes × Bool :=
  let ins := ks.map fun k => ((elemsOf fmt k.payload).map (canonElem fmt), cSat k)
  let (l, sat) := treeReduce fmt redop ins.length ins
  (ofElems fmt l, sat)

/-! ## DATA (R244, R245) -/

/-- Who receives the result of a block: own slots and other racks; a block of one rank goes to the rack that holds it (R240, R245). -/
def receivers (w : Weir) (bs : List (Nat × Nat)) (g op block : Nat) : List Nat × List Nat :=
  let others := (wRacks w g).filter (· ≠ w.base.rack)
  if op = 1 ∨ op = 5 ∨ op = 6 ∨ op = 8 then
    match (liveSlots w g).find? fun s => decide (wRank w g s = block) with
    | some s => ([s], [])
    | none => ([], others.filter fun r => decide (rackOfRank bs block = some r))
  else (liveSlots w g, others)

/-- The reductions. -/
def isReduction (op : Nat) : Bool := op = 0 || op = 1 || op = 6

/-- The header of a result: RANK names the source for the forwarded forms (R247). -/
def resultHdr (k : Pkt) (sat : Bool) (rank : Nat) : Bytes :=
  collHdr 3 (cOp k) (cFmt k) (cRedop k) (cReduced k) sat rank (cWord k) (cHalf k) 0

/-- A root has the partials of every rack for a piece: the result is multicast (R245, R248). -/
def combineRacks (bs : List (Nat × Nat)) (w : Weir) (g : Nat) (k : Pkt) : Weir :=
  let x := w.ctx g
  let here := fun (e : Nat × Nat × Nat × Pkt) => decide (e.1 = cHalf k ∧ e.2.1 = cWord k)
  let racks := (if (liveSlots w g).isEmpty then [] else [w.base.rack]) ++ liveRacks w bs g
  let parts := x.partials.filter here
  let order := (List.range 16).filterMap fun r => (parts.find? fun e => decide (e.2.2.1 = r)).map fun e => e.2.2.2
  if racks.all fun r => parts.any fun e => decide (e.2.2.1 = r) then
    let (bytes, sat) := reducePkts (cFmt k) (cRedop k) order
    let (slots, others) := receivers w bs g (cOp k) (cHalf k)
    let w := w.setCtx g { x with partials := x.partials.filter fun e => !here e }
    sendResults w g k.epoch k.psn slots others [] false (resultHdr k sat 0) bytes
  else w

/-- A rack's inputs for a piece are complete: the partial is made, credits are returned, and the partial joins the root's or
goes there in the Weir's own epoch (R166, R244, R245, R248). -/
def combineRack (bs : List (Nat × Nat)) (w : Weir) (g : Nat) (k : Pkt) : Weir :=
  let x := w.ctx g
  let here := fun (e : Nat × Nat × Nat × Pkt) => decide (e.1 = cHalf k ∧ e.2.1 = cWord k)
  let ins := x.inputs.filter here
  let slots := liveSlots w g
  if slots.all fun s => ins.any fun e => decide (e.2.2.1 = s) then
    let order := slots.filterMap fun s => (ins.find? fun e => decide (e.2.2.1 = s)).map fun e => e.2.2.2
    let (bytes, sat) := reducePkts (cFmt k) (cRedop k) order
    let hdr := collHdr 2 (cOp k) (cFmt k) (cRedop k) (cReduced k) sat (cRank k) (cWord k) (cHalf k) 0
    let part := fromWeir w g (ownEpoch w) k.psn (wRootRack w g) 0 false hdr bytes
    let w := w.setCtx g { x with inputs := x.inputs.filter fun e => !here e }
    let w := sendResults w g k.epoch k.psn [] [] slots false (resultHdr k false 0) []
    if wRoot w g then
      combineRacks bs (w.setCtx g { w.ctx g with partials := (w.ctx g).partials ++ [(cHalf k, cWord k, w.base.rack, part)] }) g k
    else weirOriginate w part
  else w

/-- The own part is done: every own member that sends has sent its last data. -/
def ownDone (w : Weir) (g op : Nat) : Bool :=
  let x := w.ctx g
  if op = 3 then !x.lasts.isEmpty else (liveSlots w g).all fun s => x.lasts.contains (wRank w g s)

/-- A root whose every rack has sent its last data tells the other racks so, and its collective is complete. Another Weir tells the root
that its rack has sent its last data; its collective completes with the root's last RESULT, or, of a BROADCAST that came from its own
rack, at once (R252, R253; log 36). -/
def partDone (bs : List (Nat × Nat)) (w : Weir) (g : Nat) (k : Pkt) : Weir :=
  let x := w.ctx g
  let op := cOp k
  if !x.inputs.isEmpty || !x.partials.isEmpty || !ownDone w g op || x.upSent then w
  else if wRoot w g then
    if op = 3 then finishCtx w g
    else if (liveRacks w bs g).all fun r => x.lasts.contains (2048 + r) then
      finishCtx (sendResults w g k.epoch k.psn [] (liveRacks w bs g) [] true (collHdr 3 op (cFmt k) (cRedop k) (cReduced k) false 0 0 0 0)
        []) g
    else w
  else if op = 3 then finishCtx w g
  else
    let hdr := collHdr 2 op (cFmt k) (cRedop k) (cReduced k) false (cRank k) 0 0 0
    weirOriginate (w.setCtx g { x with upSent := true }) (fromWeir w g (ownEpoch w) k.psn (wRootRack w g) 0 true hdr [])

/-- DATA of a forwarded form: RESULT to the receivers here, and on to the root or the other racks (R245). LAST goes with the data of a
BROADCAST alone; of the other forms each Weir tells it for its rack. -/
def forwardData (bs : List (Nat × Nat)) (w : Weir) (g q : Nat) (k : Pkt) : Weir :=
  let (slots, others) := receivers w bs g (cOp k) (cHalf k)
  let owed := if q < 64 then [q] else []
  let empty := k.payload.isEmpty
  let rank := if cOp k = 3 then 0 else cRank k
  let racks := if wRoot w g then others.filter (· ≠ k.srcRack) else []
  let lastHere := k.last && cOp k = 3
  let w := sendResults w g k.epoch k.psn (if empty then [] else slots) (if empty ∧ !lastHere then [] else racks) owed lastHere
    (resultHdr k false rank) k.payload
  if wRoot w g ∨ others.isEmpty ∨ (empty ∧ !lastHere) then w
  else weirOriginate w { k with destRack := wRootRack w g, destSlot := 0, srcRack := w.base.rack, srcSlot := 0, last := lastHere }

/-- DATA at a Weir, its NaN canonical from here on (R245, R249, R252, R253). -/
def dataIn (bs : List (Nat × Nat)) (w : Weir) (g q : Nat) (k : Pkt) : Weir :=
  let k := canonPkt k
  if !senderOk w g q k then rejectTo w k St.notMember
  else
    match seqCheck w g k.psn with
    | (.stale, w) => w
    | (.ahead, w) => rejectTo w k St.sequenceError
    | (.current, w) =>
      let x := w.ctx g
      let mark := if q < 64 then cRank k else 2048 + k.srcRack
      let x := { x with
        dataStart := some (x.dataStart.getD w.base.gtime), form := formOf k, source := cRank k
        lasts := if k.last ∧ !x.lasts.contains mark then x.lasts ++ [mark] else x.lasts }
      let w := setCtxPhase (w.setCtx g x) g 2
      let w :=
        if !isReduction (cOp k) then forwardData bs w g q k
        else if k.payload.isEmpty then
          (if q < 64 then sendResults w g k.epoch k.psn [] [] [q] false (resultHdr k false 0) [] else w)
        else if q < 64 then combineRack bs (w.setCtx g { x with inputs := x.inputs ++ [(cHalf k, cWord k, q, k)] }) g k
        else combineRacks bs (w.setCtx g { x with partials := x.partials ++ [(cHalf k, cWord k, k.srcRack, k)] }) g k
      partDone bs w g k

/-- DATA (R245). -/
def execData (w port : Nat) (pkt : Pkt) (s : State) : Res :=
  onWeir w (fun x => weirCollIn 2 (dataIn (rackBases s w pkt.conn)) x port pkt) s

/-- The ranks whose data a context lacks: of a BROADCAST its source; else own members that have not sent their last, and at the root the
ranks of racks that have not; a Weir that lacks only the root's results names the ranks of the other racks (R254; log 165). -/
def lackingRanks (bs : List (Nat × Nat)) (w : Weir) (g : Nat) : List Nat :=
  let x := w.ctx g
  let own := ((liveSlots w g).map (wRank w g)).filter fun r => !x.lasts.contains r
  let inRacks := fun (l : List Nat) => (liveRanks w g).filter fun n => ((rackOfRank bs n).map fun r => l.contains r).getD false
  if x.form.1 = 3 then (if x.lasts.isEmpty then [x.source] else [])
  else if wRoot w g then own ++ inRacks ((liveRacks w bs g).filter fun r => !x.lasts.contains (2048 + r))
  else if own.isEmpty then inRacks (liveRacks w bs g)
  else own

/-- DATA_DEADLINE: a part that is not finished breaks the group, naming the ranks whose data it lacks (R253, R254). -/
def dataDeadline (bs : List (Nat × Nat)) (w : Weir) (g : Nat) : Weir :=
  if !wCommit w g || wBroken w g || (w.ctx g).dataStart.isNone then w else breakCtx w g (ofBits (lackingRanks bs w g))

/-- DATA_DEADLINE (R253). -/
def execDataDeadline (w g : Nat) (s : State) : Res := onWeir w (fun x => dataDeadline (rackBases s w g) x g) s

/-! ## BREAK, and packets on their way to members (R245, R254) -/

/-- BREAK at a Weir: passed to its members, by the root to every other member rack too; the context is broken, or for COUNT_MISMATCH
idle again (R250, R254). -/
def breakAtWeir (w : Weir) (g _q : Nat) (k : Pkt) : Weir :=
  ifCurrent w g k fun w =>
    let map := ofLe (k.payload.take 128)
    let racks := if wRoot w g then (wRacks w g).filter (· ≠ w.base.rack) else []
    let w := sendBreak w g k.epoch k.psn (formOf k) (cReduced k) (cHalf k) map racks
    if cHalf k = St.countMismatch then finishCtx w g
    else markBroken (collEvent w g 16 k.psn (popcount map 1024)) g

/-- BREAK (R254). -/
def execBreakCmd (e : Elem) (pkt : Pkt) (s : State) : Res :=
  match e with
  | .pkg p => onPkgMem p (fun x => if breakReady x pkt.conn then collIn 4 breakIn x pkt else x) s
  | .weir w => onCtx w pkt.conn (fun x => weirCollIn 4 breakAtWeir x
      (((x.taken.find? fun t => decide (t.2 = pkt)).map fun t => t.1).getD 64) pkt) s

/-- A RESULT from the root is multicast to its receivers in this rack; its last one ends the collective here (R245, R249, R252). -/
def resultDown (w : Weir) (g : Nat) (k : Pkt) : Weir :=
  ifCurrent w g k fun w =>
    let k := canonPkt k
    let (slots, _) := receivers w [] g (cOp k) (cHalf k)
    let w := sendResults (setCtxPhase w g 2) g k.epoch k.psn (if k.payload.isEmpty then [] else slots) [] [] k.last k.coll k.payload
    if k.last then finishCtx w g else w

/-- A GO of the root reaches the member it is addressed to; a reduced one tells who is dropped. The data phase follows, or, with the
GO of the rack's last member, a barrier is over here (R243, R252, R256). -/
def goDown (w : Weir) (g : Nat) (k : Pkt) : Weir :=
  ifCurrent w g k fun w =>
    let w := weirOriginate w { k with dl := 0 }
    let w := if cReduced k ∧ cWord k = 0 then
      w.setCtx g { w.ctx g with dropped := (w.ctx g).dropped ||| ofLe (k.payload.take 128) } else w
    if cOp k ≠ 4 then setCtxPhase w g 2
    else if (liveSlots w g).getLast? = some k.destSlot then finishCtx w g
    else w

/-- WEIR_FORWARD: a packet is forwarded, or a collective one consumed; one whose HOPS is above 6 has no route (R164, R172, R245). -/
def weirForward (w : Weir) (q len : Nat) (bytes : Bytes) : Weir :=
  match weirIngress w q len bytes with
  | (w, none) => w
  | (w, some k) =>
    if !weirConsumes w q k then weirRoute w q k
    else if 6 < k.hops then weirNoRoute w q k
    else if cType k = 0 ∨ cType k = 2 ∨ cType k = 4 ∨ cType k = 6 then
      { w with taken := w.taken ++ [(q, k)], base := inflightAdd w.base k.epoch }
    else if q < 64 ∨ !wCommit w k.conn ∨ wBroken w k.conn then w.bump 0x3000C
    else if cType k = 3 then resultDown w k.conn k
    else if cType k = 1 then goDown w k.conn k
    else if cType k = 5 then weirOriginate w { k with dl := 0 }
    else w.bump 0x3000C

/-- The group of a packet's bytes, as the Weir's parser reads them. -/
def groupOfBytes (w : Weir) (len : Nat) (bytes : Bytes) : Nat :=
  match parsePacket w.base len bytes with
  | .ok k => k.conn
  | _ => 0

/-- WEIR_FORWARD (R164). -/
def execWeirForward (w port len : Nat) (bytes : Bytes) (s : State) : Res :=
  onCtx w (groupOfBytes (weirOf s w) len bytes) (fun x => if port < 72 then weirForward x port len bytes else x) s

end Sys2Proof.Machine
end

