-- ==== Sys2Proof/Machine/WeirSpace.lean ====
section
/-! DEFINITION. The management space of a Weir as its image serves it: the routing block, port registers and time registers
(R164, R167, R179, R204, R323, R409, R436). Counters are read only (log 64). -/

namespace Sys2Proof.Machine

/-- A write of a port register: the package's rules at the Weir's offsets (R204). -/
def weirPortWrite (w : Weir) (q off v : Nat) : Except Nat Weir :=
  let a := 0x20000 + 0x80 * q + off
  match findRow rowsPort (off + 0x80) with
  | none => .ok w
  | some r =>
    let old := w.rd a
    let v := if off + 0x80 = Off.PORT_HOLD then onField v 16 0 (clip 100 100000) else v
    let new := storeRow .cs r old v
    let quiet := !(w.base.port q).weirEnable && decide (portState w.base q = 0)
    if changesQuiesce r old new && !quiet then .error 1
    else
      let w := w.wr a new
      if off + 0x80 = Off.EXPECT_SERIAL_LO ∨ off + 0x80 = Off.EXPECT_SERIAL_HI ∨ off + 0x80 = Off.EXPECT_CTL then
        let (b, evs) := expectNow w.base q
        .ok { w with base := recordPort b q evs }
      else .ok w

/-- WEIR_EPOCH: refused as ROUTE_EPOCH is (R167). -/
def weirEpochSet (w : Weir) (v : Nat) : Except Nat Weir :=
  match epochWrite w.base v with
  | some b => .ok { w with base := b }
  | none => .error 5

/-- A write of context `g`: all but BROKEN and the phase may be written, as of a commit-staged object (R51, R238, R261; log 64). -/
def weirCtxWrite (w : Weir) (g off v : Nat) : Except Nat Weir :=
  if off = 0 then
    match ctxRefusal w g v with
    | some r => .error r
    | none => .ok (ctxCtl w g v)
  else if off = 0x1C then .ok w
  else if wCommit w g then .error 5
  else .ok (ctxField w g off v)

/-- A write of four bytes: done, or refused with a reason. WEIR_COORD takes its first VALID value alone (R164, R179). -/
def weirWrite4 (w : Weir) (a v : Nat) : Except Nat Weir :=
  if a = 0x10000 then weirEpochSet w v
  else if a = 0x1000C then .ok (if bitOf (w.rd a) 8 then w else w.wr a (v % 2 ^ 9))
  else if 0x11000 ≤ a ∧ a < 0x11200 then
    if epochOpen w.base ((a - 0x11000) / 0x100) then .ok (w.wr a (v % 2)) else .error 5
  else if 0x11200 ≤ a ∧ a < 0x11280 then
    if epochOpen w.base ((a - 0x11200) / 0x40) then .ok (w.wr a (v % 2 + fld v 15 8 * 2 ^ 8)) else .error 5
  else if 0x20000 ≤ a ∧ a < 0x20000 + 0x80 * 72 then weirPortWrite w ((a - 0x20000) / 0x80) ((a - 0x20000) % 0x80) v
  else if 0x40000 ≤ a ∧ a < 0x50000 then weirCtxWrite w ((a - 0x40000) / 0x20) ((a - 0x40000) % 0x20) v
  else if a = 0x50008 then .ok (w.mapBase fun b => { b with time := { b.time with secondsArmed := some v } })
  else .ok w

/-- A read of four bytes; what holds no register reads 0. -/
def weirRead4 (w : Weir) (a : Nat) : Nat :=
  if a = 0x50000 then w.base.gtime % 2 ^ 32
  else if a = 0x50004 then w.base.gtime / 2 ^ 32
  else if 0x20000 ≤ a ∧ a < 0x20000 + 0x80 * 72 then
    let q := (a - 0x20000) / 0x80
    if (a - 0x20000) % 0x80 + 0x80 = Off.PORT_HELD then portHeld w.base q % 2 ^ 16 else w.rd a
  else if a / 0x1000 = 0x100 then 0
  else w.rd a

/-- An access that faults: beyond the space, or not aligned to its size (R33, R409). -/
def weirFaults (a size : Nat) : Bool := decide (2 ^ 26 ≤ a ∨ a % size ≠ 0)

/-- A write of four or eight bytes; of eight, the lower four first. -/
def weirWrite (w : Weir) (a size v : Nat) : Weir × Answer :=
  let four := fun (w : Weir) (a v : Nat) => match weirWrite4 w a v with
    | .ok w => (w, Answer.done)
    | .error r => (w, Answer.refused r)
  if weirFaults a size then (w, .fault)
  else if size = 4 then four w a (v % 2 ^ 32)
  else
    let (w, x) := four w a (v % 2 ^ 32)
    let (w, y) := four w (a + 4) (v / 2 ^ 32 % 2 ^ 32)
    (w, if x = .done then y else x)

/-- A read of four or eight bytes; none for a fault. -/
def weirRead (w : Weir) (a size : Nat) : Option Nat :=
  if weirFaults a size then none
  else some (weirRead4 w a + (if size = 8 then weirRead4 w (a + 4) * 2 ^ 32 else 0))

/-- A command that is one write of a Weir's register by its controller: a refusal leaves the Weir as it is. -/
def weirSet (a v : Nat) (w : Weir) : Weir := (weirWrite w a 4 v).1

/-- WEIR_EPOCH_WRITE (R167). -/
def execWeirEpochWrite (w val : Nat) (s : State) : Res := onWeir w (weirSet 0x10000 val) s

/-- WEIR_SECONDS_WRITE: the value waits for the next edge (R436). -/
def execWeirSecondsWrite (w val : Nat) (s : State) : Res := onWeir w (weirSet 0x50008 val) s

end Sys2Proof.Machine
end

