-- ==== Sys2Proof/Machine/Msp.lean ====
section
/-! DEFINITION. The MSP slave: registers, transactions, raw words, the control-space window, anomalies (R402–R412, R323). -/

namespace Sys2Proof.Machine

/-- The MSP state of an element replaced. -/
def setMsp (b : Base) (m : Msp) : Base := { b with msp := m }

/-- The slave is silent: a reset of reach 2 or 3 runs (R402, R405). -/
def mspSilent (b : Base) : Bool :=
  match b.kin.phase with
  | .inReset r => decide (2 ≤ r)
  | _ => false

/-- A field of MSP_ERR counts up to 255 (R407): PARTIAL 0, BAD_CMD 8, OVERFLOW 16, UNDERFLOW 24. -/
def mspErr (b : Base) (lo n : Nat) : Base :=
  let e := b.msp.err.toNat
  setMsp b { b.msp with err := w32 (setFld e (lo + 7) lo (satAdd 255 (fld e (lo + 7) lo) n)) }

/-! ## Registers (R407, R408) -/

/-- OUT_PENDING: beyond a message partly read, the outbox holds another (R408). -/
def outPending (m : Msp) : Bool := decide (m.outLeft < m.outbox.length)

/-- The MSP register of an index as it reads. -/
def mspReg (b : Base) (i : Nat) : Nat :=
  let m := b.msp
  match i with
  | 0 => (if b.isWeir then 2 else 1) + 2 ^ 8 + 0x4D50 * 2 ^ 16
  | 1 => setFld (setFld m.status.toNat 12 12 (b2n (outPending m))) 13 13 (b2n (decide (m.err ≠ 0)))
  | 2 => m.err.toNat
  | 4 => rd b (em Off.RESET_COUNT)
  | 5 => rd b (em Off.LAST_CAUSE)
  | 6 => serialOf b % 2 ^ 32
  | 7 => serialOf b / 2 ^ 32 % 2 ^ 32
  | 8 => m.csAddr.toNat
  | 9 => m.csLo.toNat
  | 10 => m.csHi.toNat
  | 12 => b2n m.csBusy + m.csResult * 2 + m.csReason * 2 ^ 4
  | 14 => 1024 - m.inbox.length
  | 15 => m.outbox.length
  | 16 => m.bulkIn.length
  | 17 => m.bulkOut.length
  | _ => 0

/-- The slave takes a transaction: no reset holds it, and it has not abandoned the one that MSP_SEL_N still selects (R402, R412). -/
def mspTakes (b : Base) : Bool := !(mspSilent b || (b.msp.abandoned && b.msp.txn.isSome))

/-- A transaction begins with its command byte; one already abandoned takes no further edges (R412). -/
def mspBegin (b : Base) (cmd : Nat) (f : Base → Base) : Base :=
  if !mspTakes b then b
  else f (setMsp b { b.msp with txn := some cmd, abandoned := false })

/-- While the slave keeps MSP_MISO at high impedance, `n` words read as the pull level, all ones (R405, R412). -/
def mspPulled (n : Nat) (b : Base) : Base :=
  if mspTakes b then b else setMsp b { b.msp with lastRead := List.replicate n 0xFFFFFFFF }

/-- A register read: consecutive words, the index rising modulo 64 (R405, R406). -/
def mspRead (idx n : Nat) (b : Base) : Base :=
  mspBegin (mspPulled n b) (idx % 64) fun b =>
    setMsp b { b.msp with lastRead := (List.range n).map fun i => w32 (mspReg b ((idx + i) % 64)) }

/-- MSP_REGISTER_READ (R405). -/
def execMspRegisterRead (e : Elem) (idx n : Nat) (s : State) : Res := onBase e (mspRead idx n) s

/-- Both bulk buffers are emptied (R407). -/
def bulkResetNow (b : Base) : Base := setMsp b { b.msp with bulkIn := [], bulkOut := [] }

/-- BULK_RESET (R407). -/
def execBulkReset (e : Elem) (s : State) : Res := onBase e bulkResetNow s

/-- MSP_ERR_CLR (R407). -/
def execMspErrClr (e : Elem) (s : State) : Res := onBase e (fun b => setMsp b { b.msp with err := 0 }) s

/-- MSP_RELEASE: the tray controller ends the hold (R305, R407). -/
def execMspRelease (p : Nat) (s : State) : Res := onPkg p releaseHold s

/-- A write of a register that acts on the slave alone: MSP_ERR_CLR, CS_ADDR, CS_DATA, BULK_RESET (R407, R409). -/
def mspRegWrite (b : Base) (i : Nat) (v : Word) : Base :=
  match i with
  | 3 => setMsp b { b.msp with err := 0 }
  | 8 => if b.msp.csBusy then b else setMsp b { b.msp with csAddr := v }
  | 9 => if b.msp.csBusy then b else setMsp b { b.msp with csLo := v }
  | 10 => if b.msp.csBusy then b else setMsp b { b.msp with csHi := v }
  | 13 => if bitOf v.toNat 1 then bulkResetNow b else b
  | _ => b

/-! ## The control-space window (R409) -/

/-- An access ends: its result and reason, and the data of a read. -/
def csEnd (b : Base) (result reason : Nat) (data : Option (Nat × Nat)) : Base :=
  let m := { b.msp with csBusy := false, csResult := result, csReason := reason }
  setMsp b (match data with
    | some (v, size) => { m with csLo := w32 v, csHi := if size = 8 then w32 (v / 2 ^ 32) else m.csHi }
    | none => m)

/-- RESULT and reason of an answer. -/
def csResultOf : Answer → Nat × Nat
  | .done => (0, 0)
  | .fault => (1, 0)
  | .refused r => (2, r)

/-- The data that the window writes. -/
def csData (b : Base) : Nat := b.msp.csLo.toNat + b.msp.csHi.toNat * 2 ^ 32

/-- A GO that the element does not serve now: one while BUSY gives RESULT 4, one without a hub stays BUSY (R409). -/
def csRefused (b : Base) : Option Base :=
  if b.msp.csBusy then some (setMsp b { b.msp with csResult := 4 })
  else if hubRuns b then none
  else some (setMsp b { b.msp with csBusy := true })

/-- A write of CS_CTL at a package. -/
def csGoPkg (free : Nat) (p : Package) (ctl : Nat) : Package :=
  if !bitOf ctl 0 then p
  else
    match csRefused p.base with
    | some b => { p with base := b }
    | none =>
      let size := if bitOf ctl 2 then 8 else 4
      let a := p.base.msp.csAddr.toNat
      if bitOf ctl 1 then
        let (q, x) := csWrite free p .cs a size (csData p.base)
        q.mapBase fun b => csEnd b (csResultOf x).1 (csResultOf x).2 none
      else
        match csRead free p .cs a size with
        | (q, some v) => q.mapBase fun b => csEnd b 0 0 (some (v, size))
        | (q, none) => q.mapBase fun b => csEnd b 1 0 none

/-- A write of CS_CTL at a Weir. -/
def csGoWeir (w : Weir) (ctl : Nat) : Weir :=
  if !bitOf ctl 0 then w
  else
    match csRefused w.base with
    | some b => { w with base := b }
    | none =>
      let size := if bitOf ctl 2 then 8 else 4
      let a := w.base.msp.csAddr.toNat
      if bitOf ctl 1 then
        let (v, x) := weirWrite w a size (csData w.base)
        { v with base := csEnd v.base (csResultOf x).1 (csResultOf x).2 none }
      else
        match weirRead w a size with
        | some v => { w with base := csEnd w.base 0 0 (some (v, size)) }
        | none => { w with base := csEnd w.base 1 0 none }

/-- A row through the CS window. -/
def onCs (e : Elem) (fp : Nat → Package → Package) (fw : Weir → Weir) (s : State) : Res :=
  match e with
  | .pkg k => onPkgFree k fp s
  | .weir k => onWeir k fw s

/-- CS_GO (R409). -/
def execCsGo (e : Elem) (ctl : Nat) (s : State) : Res := onCs e (fun free p => csGoPkg free p ctl) (fun w => csGoWeir w ctl) s

/-- CS_TIMEOUT: the access that waits ends with RESULT 3 (R409). -/
def execCsTimeout (e : Elem) (s : State) : Res := onBase e (fun b => if b.msp.csBusy then csEnd b 3 0 none else b) s

/-! ## Register writes (R405, R406) -/

/-- One word written to a package's MSP register. -/
def mspWritePkg (free : Nat) (p : Package) (i : Nat) (v : Word) : Package :=
  if i = 11 then csGoPkg free p v.toNat
  else
    let p := p.mapBase fun b => mspRegWrite b i v
    if i = 13 ∧ bitOf v.toNat 0 then releaseHold p else p

/-- One word written to a Weir's MSP register; RELEASE has no effect there (R323). -/
def mspWriteWeir (w : Weir) (i : Nat) (v : Word) : Weir :=
  if i = 11 then csGoWeir w v.toNat else { w with base := mspRegWrite w.base i v }

/-- MSP_REGISTER_WRITE: the words apply in index order (R406). -/
def execMspRegisterWrite (e : Elem) (idx : Nat) (words : List Word) (s : State) : Res :=
  let ws := (List.range words.length).map fun i => ((idx + i) % 64, nth 0 words i)
  let start := fun (b : Base) => mspBegin b (64 + idx % 64) id
  onCs e
    (fun free p =>
      if mspTakes p.base then ws.foldl (fun p x => mspWritePkg free p x.1 x.2) (p.mapBase start) else p)
    (fun w =>
      if mspTakes w.base then ws.foldl (fun w x => mspWriteWeir w x.1 x.2) { w with base := start w.base } else w) s

/-! ## Raw words (R405, R410) -/

/-- The bytes of words in the order they travel, the most significant first (log 65). -/
def wireBytes (ws : List Word) : Bytes := ws.flatMap fun w => (le 4 w.toNat).reverse
def wireWords (n : Nat) (b : Bytes) : List Word := (List.range n).map fun i => w32 (ofLe ((b.drop (4 * i) ++ zeros 4).take 4).reverse)

/-- A raw command whose bits [4:0] are not zero is counted, and the rest of its transaction ignored. -/
def badRaw (cmd : Nat) : Bool := decide (cmd % 32 ≠ 0)

/-- Mode S raw write: the words that fit join the inbox, each of the others is discarded and counted. -/
def inboxTake (b : Base) (ws : List Word) : Base :=
  let room := 1024 - b.msp.inbox.length
  mspErr (setMsp b { b.msp with inbox := b.msp.inbox ++ ws.take room }) 16 (ws.length - room)

/-- Mode D raw write: the bytes that fit join the bulk-in buffer of 4 MiB, each of the others is discarded and counted. -/
def bulkTake (b : Base) (bytes : Bytes) : Base :=
  let room := 2 ^ 22 - b.msp.bulkIn.length
  mspErr (setMsp b { b.msp with bulkIn := b.msp.bulkIn ++ bytes.take room }) 16 (bytes.length - room)

/-- A raw write (R405, R410). -/
def mspRawIn (cmd : Nat) (ws : List Word) (b : Base) : Base :=
  mspBegin b (128 + cmd % 64) fun b =>
    if badRaw cmd then setMsp (mspErr b 8 1) { (mspErr b 8 1).msp with txn := none }
    else if bitOf cmd 5 then bulkTake b (wireBytes ws)
    else inboxTake b ws

/-- MSP_RAW_WRITE (R410). -/
def execMspRawWrite (e : Elem) (cmd : Nat) (words : List Word) (s : State) : Res := onBase e (mspRawIn cmd words) s

/-- One word is taken from the outbox; an empty one gives zero and counts (R406, R410). -/
def outboxWord (b : Base) : Base × Word :=
  match b.msp.outbox with
  | [] => (mspErr b 24 1, 0)
  | w :: rest =>
    let left := if b.msp.outLeft = 0 then fld w.toNat 15 0 else b.msp.outLeft - 1
    (setMsp b { b.msp with outbox := rest, outLeft := left }, w)

/-- `n` words are taken from the outbox. -/
def outboxWords : Nat → Base → List Word → Base × List Word
  | 0, b, ws => (b, ws)
  | n + 1, b, ws =>
    let (b, w) := outboxWord b
    outboxWords n b (ws ++ [w])

/-- A raw read (R405, R410). -/
def mspRawOut (cmd n : Nat) (b : Base) : Base :=
  mspBegin (mspPulled n b) (192 + cmd % 64) fun b =>
    if badRaw cmd then setMsp (mspErr b 8 1) { (mspErr b 8 1).msp with txn := none, lastRead := List.replicate n 0 }
    else if bitOf cmd 5 then
      setMsp b { b.msp with lastRead := wireWords n b.msp.bulkOut, bulkOut := b.msp.bulkOut.drop (4 * n) }
    else
      let (b, ws) := outboxWords n b []
      setMsp b { b.msp with lastRead := ws }

/-- MSP_RAW_READ (R410). -/
def execMspRawRead (e : Elem) (cmd n : Nat) (s : State) : Res := onBase e (mspRawOut cmd n) s

/-! ## Anomalies (R412) -/

/-- MSP_SELECT_END: bits beyond the last whole word are a partial word, counted; inside the command byte nothing happens. -/
def selectEnd (bits : Nat) (b : Base) : Base :=
  let b := if b.msp.txn.isSome ∧ bits % 32 ≠ 0 then mspErr b 0 1 else b
  setMsp b { b.msp with txn := none, abandoned := false }

/-- MSP_SELECT_END (R412). -/
def execMspSelectEnd (e : Elem) (bits : Nat) (s : State) : Res := onBase e (selectEnd bits) s

/-- MSP_EDGE_TIMEOUT: the transaction is abandoned; what a partial word leaves is judged when the select rises (R412). -/
def execMspEdgeTimeout (e : Elem) (s : State) : Res := onBase e (fun b => setMsp b { b.msp with abandoned := b.msp.txn.isSome }) s

end Sys2Proof.Machine
end

