-- ==== Sys2Proof/Machine/Tray.lean ====
section
/-! DEFINITION. What a tray controller does to the rest: which elements it serves, its log, its messages to the rack
controller, the reset pins it drives, its control-space accesses and the blobs it builds (R15–R18, R304, R373, R377–R382,
R390, R409). A span numbers tray controllers rack × 30 + the number of R17. -/

namespace Sys2Proof.Machine

/-! ## Numbers (R15–R17) -/

/-- The kind of tray a tray controller sits on. -/
def isCompute (tc : Nat) : Bool := decide (tc % 30 < 16)
def isSwitch (tc : Nat) : Bool := decide (16 ≤ tc % 30 ∧ tc % 30 < 25)
def isShelf (tc : Nat) : Bool := decide (25 ≤ tc % 30 ∧ tc % 30 < 29)

/-- How many positions a tray has (R373). -/
def posCount (tc : Nat) : Nat := if isCompute tc then 4 else if isSwitch tc then 2 else 0

/-- The element at a position. -/
def elemAt (tc pos : Nat) : Option Elem :=
  if posCount tc ≤ pos then none
  else if isCompute tc then some (.pkg (tc / 30 * 64 + 4 * (tc % 30) + pos))
  else some (.weir (tc / 30 * 18 + 2 * (tc % 30 - 16) + pos))

/-- The tray controller of an element, and its position there. -/
def tcOfElem : Elem → Nat × Nat
  | .pkg k => (k / 64 * 30 + k % 64 / 4, k % 4)
  | .weir k => (k / 18 * 30 + 16 + k % 18 / 2, k % 2)

/-- The number of a tray's controller in its rack, and over the span. -/
def trayNo : Tray → Nat
  | .compute c => c
  | .switch s => 16 + s
def trayTc (rack : Nat) (t : Tray) : Nat := rack * 30 + trayNo t

/-- The slot or plane that a message about a position names (R390). -/
def subjectOf (tc pos : Nat) : Nat := if isCompute tc then 4 * (tc % 30) + pos else 2 * (tc % 30 - 16) + pos

/-! ## One part of the span changed -/

def modPkg (s : State) (k : Nat) (f : Package → Package) : State := setPkg s k (f (pkgOf s k))
def modWeir (s : State) (k : Nat) (f : Weir → Weir) : State := setWeir s k (f (weirOf s k))
def modTc (s : State) (k : Nat) (f : TrayCtl → TrayCtl) : State := setTc s k (f (tcOf s k))
def modRc (s : State) (k : Nat) (f : RackCtl → RackCtl) : State := setRc s k (f (rcOf s k))

/-- An element changed. -/
def modElem (s : State) (e : Elem) (fp : Package → Package) (fw : Weir → Weir) : State :=
  match e with
  | .pkg k => modPkg s k fp
  | .weir k => modWeir s k fw

/-- What package and Weir share, and it changed. -/
def baseOf (s : State) : Elem → Base
  | .pkg k => (pkgOf s k).base
  | .weir k => (weirOf s k).base
def modBase (s : State) (e : Elem) (f : Base → Base) : State :=
  modElem s e (fun p => p.mapBase f) (fun w => { w with base := f w.base })

/-- A position as its tray controller sees it, and it changed. -/
def posOf (s : State) (tc pos : Nat) : Position := mget {} (tcOf s tc).positions pos
def modPos (s : State) (tc pos : Nat) (f : Position → Position) : State :=
  modTc s tc fun t => { t with positions := mupd {} t.positions pos f }

/-- The coolant state changed. -/
def modCool (s : State) (tc : Nat) (f : CoolSt → CoolSt) : State := modTc s tc fun t => { t with cool := f t.cool }

/-- Something done for each position of a tray. -/
def eachPos (s : State) (tc : Nat) (f : State → Nat → State) : State := (List.range (posCount tc)).foldl f s

/-! ## The log (R381, R382) -/

/-- The 32 bytes of a log record. -/
def logBytes (t : TrayCtl) (source sev code : Nat) (data : Bytes) : Bytes :=
  let head := le 4 t.lseq ++ le 8 t.now ++ le 1 source ++ le 1 sev ++ le 2 code ++ (data ++ zeros 14).take 14
  head ++ le 2 (crc16 head)

/-- A record joins the log; a sector erased takes the 128 oldest away. -/
def logRecord (source sev code : Nat) (data : Bytes) (t : TrayCtl) : TrayCtl :=
  let full := decide (65536 ≤ t.log.length)
  { t with
    log := (if full then t.log.drop 128 else t.log) ++ [logBytes t source sev code data]
    lseq := (t.lseq + 1) % 2 ^ 32
    logDropped := if full then satAdd 0xFFFFFFFF t.logDropped 128 else t.logDropped }

/-- SOURCE of a position. -/
def logSource (tc pos : Nat) : Nat := if isCompute tc then 1 + pos else 0x11 + pos

/-- A record about a position, and one of another source. -/
def logAt (s : State) (tc pos sev code : Nat) (data : Bytes) : State := modTc s tc (logRecord (logSource tc pos) sev code data)
def logTc (s : State) (tc source sev code : Nat) (data : Bytes) : State := modTc s tc (logRecord source sev code data)

/-! ## Messages (R389, R390) -/

/-- A message to the rack controller's subscribers. -/
def report (s : State) (rack : Nat) (name : String) (subject : Nat) : State :=
  modRc s rack fun r => { r with msgs := r.msgs ++ [{ name := name, subject := subject, http := 0 }] }

/-- What an action or a write answers. -/
def rcAnswer (s : State) (rack : Nat) (name : String) (subject http : Nat) : State :=
  modRc s rack fun r => { r with msgs := r.msgs ++ [{ name := name, subject := subject, http := http }] }

/-- A message about a position. -/
def reportPos (s : State) (tc pos : Nat) (name : String) : State := report s (tc / 30) name (subjectOf tc pos)

/-! ## The reset pins (R291, R373, R377) -/

/-- RESET_N driven low, released, and pulsed. -/
def lowReset (s : State) (e : Elem) : State := modElem s e resetNPkg resetNWeir
def freeReset (s : State) (e : Elem) : State := modBase s e fun b => endReset { b with kin := { b.kin with resetLow := false } }
def pulseReset (s : State) (e : Elem) : State := freeReset (lowReset s e) e

/-- PORST_N driven low and released. -/
def lowPorst (s : State) (e : Elem) : State := modElem s e porstPkg porstWeir
def freePorst (s : State) (e : Elem) : State := modBase s e fun b => { b with pwr := { b.pwr with porst := false } }

/-- PORST_N of a position is held for a cause, which is logged; the pin is low while any cause holds it. -/
def holdPorst (s : State) (tc cause pos : Nat) : State :=
  match elemAt tc pos with
  | none => s
  | some e =>
    let x := posOf s tc pos
    if x.porstHolds.contains cause then s
    else
      let s := if x.porstHolds.isEmpty then lowPorst s e else s
      logAt (modPos s tc pos fun x => { x with porstHolds := x.porstHolds ++ [cause], hbSeen := false }) tc pos 1 0x0013
        (le 1 1 ++ le 1 cause)

/-- A cause no longer holds PORST_N of a position. -/
def releasePorst (s : State) (tc cause pos : Nat) : State :=
  match elemAt tc pos with
  | none => s
  | some e =>
    let x := posOf s tc pos
    if !x.porstHolds.contains cause then s
    else
      let rest := x.porstHolds.filter (· ≠ cause)
      let s := if rest.isEmpty then freePorst s e else s
      logAt (modPos s tc pos fun x => { x with porstHolds := rest }) tc pos 1 0x0013 (le 1 0 ++ le 1 cause)

/-! ## Control space over the window (R409) -/

/-- The tray controller writes a register of a package through the CS window; it makes no access without a running hub
(log 70). -/
def tcWrite (s : State) (k a v : Nat) : State :=
  let p := pkgOf s k
  if !hubRuns p.base || mspSilent p.base then s
  else
    let p := p.mapBase fun b => mspRegWrite (mspRegWrite (mspRegWrite b 8 (w32 a)) 9 (w32 v)) 10 0
    { setPkg s k (csGoPkg s.free p 3) with free := s.free + 1 }

/-- The same at a Weir. -/
def tcWeirWrite (s : State) (k a v : Nat) : State :=
  modWeir s k fun w =>
    if !hubRuns w.base || mspSilent w.base then w
    else csGoWeir { w with base := mspRegWrite (mspRegWrite (mspRegWrite w.base 8 (w32 a)) 9 (w32 v)) 10 0 } 3

/-- The reset count that the MSP slave serves, or all ones where it is silent (R381, R407). -/
def resetCountSeen (b : Base) : Nat := if mspSilent b then 0xFFFFFFFF else mspReg b 4

/-- A cap is written to CAP_TC of a package, and logged (R392). -/
def writeCapTc (s : State) (tc pos watts : Nat) : State :=
  match elemAt tc pos with
  | some (.pkg k) =>
    if hubRuns (pkgOf s k).base then logAt (tcWrite s k (pw Off.CAP_TC) watts) tc pos 0 0x0050 (le 2 watts) else s
  | _ => s

/-- A cap that a coolant action lowers takes effect at once (R353). -/
def lowerCapTc (s : State) (tc pos : Nat) : State :=
  let s := writeCapTc s tc pos 400
  match elemAt tc pos with
  | some (.pkg k) => if hubRuns (pkgOf s k).base then modPkg s k capEvaluate else s
  | _ => s

/-- The coolant conditions that keep CAP_TC at 400 W (R365). -/
def capForced (t : TrayCtl) : Bool := t.cool.conds.contains 2 || t.cool.flowCap

/-! ## Route entries as the rack controllers hold them (R163, R164, R165, R380) -/

/-- The entry of a destination: VALID for a rack of the span's shape, no plane, until a change says otherwise (log 71). -/
def entryOf (s : State) (i : Nat) : Nat := mget (if s.spanRacks.contains (i / 64) then 2 ^ 18 else 0) s.table i

/-- Width and height codes of the span's shape (R4, R164). -/
def shapeCodes (s : State) : Nat × Nat :=
  match s.spanRacks.length with
  | 2 => (1, 0)
  | 4 => (1, 1)
  | 8 => (2, 1)
  | 16 => (2, 2)
  | _ => (0, 0)

/-- The up-ports that the shape cables, as bits from port 64 up (R165). -/
def upMask (s : State) : Nat := (if (shapeCodes s).1 = 0 then 0 else 0x0F) + (if (shapeCodes s).2 = 0 then 0 else 0xF0)

/-- SLOT_ROUTE and RACK_ROUTE of a Weir of a rack. -/
def slotWord (s : State) (rack i : Nat) : Nat := b2n (bitOf (entryOf s (rack * 64 + i)) 18)
def rackWord (s : State) (r : Nat) : Nat := if s.spanRacks.contains r then 1 + upMask s * 2 ^ 8 else 0

/-! ## Blobs (R18, R304, R322, R380; log 60) -/

/-- A section: header and content. -/
def blobSection (type : Nat) (c : Bytes) : Bytes := le 1 type ++ le 1 0 ++ le 2 c.length ++ c

/-- Section 1: rack, slot or plane, coordinate, shape. A rack outside the span is rack 0. -/
def sectionOne (s : State) (rack pos : Nat) : Bytes :=
  let r := if s.spanRacks.contains rack then rack else 0
  le 1 r ++ le 1 pos ++ le 1 r ++ le 1 ((shapeCodes s).1 + 4 * (shapeCodes s).2)

/-- A blob with its header and CRC. -/
def blobOf (serial : Nat) (sections : List Bytes) : Bytes :=
  let body := sections.flatten
  let head := le 2 1 ++ le 2 sections.length ++ le 4 (16 + body.length) ++ le 4 serial
  head ++ le 4 (crc32 (head ++ zeros 4 ++ body)) ++ body

/-- A section that is there only when it holds something. -/
def optSection (type : Nat) (c : Bytes) : List Bytes := if c.isEmpty then [] else [blobSection type c]

/-- The blob of a position. The override of section 2 is 0, the strap's clock mode (log 72). -/
def positionBlob (s : State) (tc pos : Nat) : Bytes :=
  let x := posOf s tc pos
  let rack := tc / 30
  if isCompute tc then
    blobOf x.serial
      ([blobSection 1 (sectionOne s rack (subjectOf tc pos)), blobSection 2 (le 1 0)]
        ++ optSection 3 x.savedPorts ++ optSection 4 x.savedDram ++ optSection 5 x.expects
        ++ [blobSection 6 ((List.range 1024).flatMap fun i => le 4 (entryOf s i))]
        ++ (if x.rcCap = 0 then [] else [blobSection 7 (le 2 x.rcCap)]))
  else
    blobOf x.serial
      ([blobSection 1 (sectionOne s rack (subjectOf tc pos))] ++ optSection 3 x.savedPorts ++ optSection 5 x.expects
        ++ [blobSection 6 ((List.range 64).flatMap (fun i => le 4 (slotWord s rack i))
          ++ (List.range 16).flatMap fun r => le 4 (rackWord s r))])

/-- Entries of `n` bytes, each under its first `key` bytes: a new one replaces the one of its key. -/
def mergeEntries (n key : Nat) (old : Bytes) (e : Bytes) : Bytes :=
  let olds := (List.range (old.length / n)).map fun i => (old.drop (n * i)).take n
  (olds.filter fun o => decide (o.take key ≠ e.take key)).flatten ++ e

/-! ## A position's serial (R380) -/

/-- A position's blob is for the serial read: a new one takes the rack controller's settings for that serial, and no EXPECT. -/
def takeSerial (s : State) (tc pos serial : Nat) : State :=
  if (posOf s tc pos).serial = serial then s
  else
    let kept := mget (([], []) : Bytes × Bytes) (rcOf s (tc / 30)).saved serial
    modPos s tc pos fun x => { x with serial := serial, savedPorts := kept.1, savedDram := kept.2, expects := [] }

end Sys2Proof.Machine
end

