-- ==== Sys2Proof/Machine/TrayMsgs.lean ====
section
/-! DEFINITION. Supervision of positions, and the messages a tray controller takes from packages and Weirs (R303, R304, R316,
R322, R361, R364, R376–R381, R384–R386, R410, R411, R462). -/

namespace Sys2Proof.Machine

/-! ## Recovery (R378, R462) -/

/-- The attempts of the last 10 minutes. -/
def recentAttempts (now : Nat) (x : Position) : List Nat := x.attempts.filter fun t => decide (now < t + 600000000000)

/-- The package of an element is sealed; a Weir never is. -/
def sealedElem (s : State) : Elem → Bool
  | .pkg k => isSealed (pkgOf s k)
  | .weir _ => false

/-- The tray controller holds RESET_N after three attempts, logs PackageFailed and reports it. -/
def holdFailed (s : State) (tc pos : Nat) (e : Elem) : State :=
  let count := resetCountSeen (baseOf s e)
  let s := modPos (lowReset s e) tc pos fun x =>
    { x with resetHeld := true, packageFailed := true, attemptRunning := false, hbSeen := false }
  reportPos (logAt s tc pos 3 0x0015 (le 4 count)) tc pos "PackageFailed"

/-- A fault starts an attempt: RESET_N is pulsed, or held after three attempts within 10 minutes. -/
def startAttempt (s : State) (tc pos reason : Nat) (e : Elem) : State :=
  let now := (tcOf s tc).now
  let recent := recentAttempts now (posOf s tc pos)
  if 3 ≤ recent.length then holdFailed s tc pos e
  else
    let s := logAt s tc pos 1 0x0012 (le 1 reason ++ le 1 (recent.length + 1))
    modPos (pulseReset s e) tc pos fun x => { x with attempts := recent ++ [now], attemptRunning := true, hbSeen := false }

/-- An attempt has failed: the third within 10 minutes makes the tray controller hold the position. -/
def attemptFails (s : State) (tc pos : Nat) (e : Elem) : State :=
  let s := modPos s tc pos fun x => { x with attemptRunning := false }
  if 3 ≤ (recentAttempts (tcOf s tc).now (posOf s tc pos)).length then holdFailed s tc pos e else s

/-! ## Pin conditions (R376, R377, R446) -/

/-- A condition of higher precedence governs the position: THERMTRIP_N, or a hold of PORST_N (R377). -/
def outranked (s : State) (tc pos : Nat) (e : Elem) : Bool :=
  (baseOf s e).pins.thermtrip || !(posOf s tc pos).porstHolds.isEmpty

/-- What a tray controller takes a position for (R446). -/
inductive PosState where
  | absent | tripLatched | unpowered | kindling | hubRunning
  deriving DecidableEq, Repr

/-- The state read from PKG_PRESENT_N, THERMTRIP_N, HB and the MSP byte: the first row that matches decides (R446). -/
def positionState (s : State) (tc pos : Nat) : PosState :=
  match elemAt tc pos with
  | none => .absent
  | some e =>
    let x := posOf s tc pos
    let toggling := x.hbSeen && decide ((tcOf s tc).now < x.lastEdge + 8500000)
    if !x.present then .absent
    else if (baseOf s e).pins.thermtrip then .tripLatched
    else if toggling then .hubRunning
    else if mspSilent (baseOf s e) then .unpowered
    else .kindling

/-- Sideband lines at a position whose level stands between edges (R445). -/
inductive Line where
  | present | resetN | porstN | errFatal | errCorr | thermtrip | brake | selN
  deriving DecidableEq, Repr

/-- Whether a line reads high: the board resistor alone sets it where the position is absent, and an open-drain line that nothing
drives reads high (R443–R448). -/
def lineHigh (s : State) (tc pos : Nat) (l : Line) : Bool :=
  match elemAt tc pos with
  | none => true
  | some e =>
    let x := posOf s tc pos
    let pins := (baseOf s e).pins
    if !x.present then true
    else match l with
      | .present => false
      | .resetN => !(baseOf s e).kin.resetLow
      | .porstN => !(baseOf s e).pwr.porst
      | .errFatal => pins.fatalBits.isEmpty && !pins.fatalStrike
      | .errCorr => !pins.corrPulse
      | .thermtrip => !pins.thermtrip
      | .brake => (rcOf s (tc / 30)).brakeAt.isNone
      | .selN => (baseOf s e).msp.txn.isNone

/-- A row about a position that is present. -/
def atPos (tc pos : Nat) (f : State → Elem → State) (s : State) : Res :=
  .next (match elemAt tc pos with
    | none => s
    | some e => if (posOf s tc pos).present then f s e else s)

/-- HEARTBEAT_EDGE: the watch of the position starts or starts again (R376). -/
def execHeartbeatEdge (tc pos : Nat) (s : State) : Res :=
  atPos tc pos (fun s _ =>
    let now := (tcOf s tc).now
    modPos s tc pos fun x => if x.resetHeld then x else { x with hbSeen := true, lastEdge := now }) s

/-- HEARTBEAT_FAULT of a position that is watched: logged; recovery unless a higher precedence governs or it is sealed. -/
def execHeartbeatFault (tc pos : Nat) (s : State) : Res :=
  atPos tc pos (fun s e =>
    let x := posOf s tc pos
    if x.resetHeld ∨ !x.hbSeen then s
    else
      let out := outranked s tc pos e
      let s := logAt s tc pos 2 0x0010 (le 4 x.lastEdge ++ le 4 (resetCountSeen (baseOf s e)))
      if out then s
      else
        let s := reportPos s tc pos "HeartbeatFault"
        if sealedElem s e then s else startAttempt s tc pos 1 e) s

/-- KINDLING_FAULT: no edge has come since the release (R376, R377). -/
def execKindlingFault (tc pos : Nat) (s : State) : Res :=
  atPos tc pos (fun s e =>
    let x := posOf s tc pos
    if x.resetHeld ∨ x.hbSeen then s
    else
      let out := outranked s tc pos e
      let s := logAt s tc pos 2 0x0011 (le 1 (mspReg (baseOf s e) 1 % 8))
      if out || sealedElem s e then s else startAttempt s tc pos 2 e) s

/-- RECOVERY_TIMEOUT: 30 s have passed since the pulse (R378). -/
def execRecoveryTimeout (tc pos : Nat) (s : State) : Res :=
  atPos tc pos (fun s e => if (posOf s tc pos).attemptRunning then attemptFails s tc pos e else s) s

/-- Inlet above 40 °C: the condition is entered and the rack controller told (R365, R377). -/
def recheckCoolant (s : State) (tc : Nat) : State :=
  let c := (tcOf s tc).cool
  if 320 < c.inlet ∧ !c.conds.contains 1 then
    let s := logTc (modCool s tc fun c => { c with conds := c.conds ++ [1] }) tc 0x30 2 0x0040 (le 1 1)
    modRc s (tc / 30) fun r => { r with inletHigh := r.inletHigh ++ [tc % 30] }
  else s

/-- THERMTRIP_ASSERT: logged and reported, the coolant checked; a second trip within the hour waits for ClearFault. The pin of
an absent position is a board fault, which is only logged (R377, R446). -/
def execThermtripAssert (tc pos : Nat) (s : State) : Res :=
  .next (if (elemAt tc pos).isNone then s
    else
      let c := (tcOf s tc).cool
      let now := (tcOf s tc).now
      let s := logAt s tc pos 3 0x0022 (le 2 c.inlet ++ le 2 c.flow)
      if !(posOf s tc pos).present then s
      else
        let wait := fun (x : Position) => match x.tripAt with
          | some t => decide (now < t + 3600000000000)
          | none => false
        let s := modPos s tc pos fun x => { x with tripWaitsClear := x.tripWaitsClear || wait x }
        recheckCoolant (reportPos s tc pos "ThermalTrip") tc)

/-- TRIP_REPULSE: PORST_N is pulsed, at most once in an hour, and not while a hold governs it (R377). -/
def execTripRepulse (tc pos : Nat) (s : State) : Res :=
  atPos tc pos (fun s e =>
    let x := posOf s tc pos
    let now := (tcOf s tc).now
    let soon : Bool := match x.tripAt with
      | some t => decide (now < t + 3600000000000)
      | none => false
    if !(baseOf s e).pins.thermtrip ∨ x.tripWaitsClear ∨ soon = true ∨ !x.porstHolds.isEmpty then s
    else
      modPos (releasePorst (holdPorst s tc 1 pos) tc 1 pos) tc pos fun x => { x with tripAt := some now }) s

/-- The error records of the hub event ring that the tray controller has not copied yet (R377, R441). -/
def newRingErrors (p : Package) (last : Nat) : List Bytes :=
  (p.hub.ring.map fun r => r.2).filter fun r => decide (2 ≤ byteAt r 13) && (decide (last = 0) || serialGt 32 (fieldAt r 0 4) last)

/-- A copied event record is logged (R381). -/
def logCopy (tc pos : Nat) (s : State) (r : Bytes) : State := logAt s tc pos (byteAt r 13) 0x0030 ((r.drop 16).take 14)

/-- New error records of a package with a running hub are copied into the log. -/
def copyRing (s : State) (tc pos : Nat) (e : Elem) : State :=
  match e with
  | .pkg k =>
    if !hubRuns (pkgOf s k).base then s
    else
      let recs := newRingErrors (pkgOf s k) (posOf s tc pos).lastRseq
      let s := recs.foldl (logCopy tc pos) s
      match recs.getLast? with
      | some r => modPos s tc pos fun x => { x with lastRseq := fieldAt r 0 4 }
      | none => s
  | .weir _ => s

/-- ERR_FATAL_ASSERT: logged; records copied and PackageError reported unless a higher precedence governs (R377). -/
def execErrFatalAssert (tc pos : Nat) (s : State) : Res :=
  atPos tc pos (fun s e =>
    let out := outranked s tc pos e || (posOf s tc pos).resetHeld
    let s := modPos s tc pos fun x => { x with fatalEdges := satAdd 0xFFFFFFFF x.fatalEdges 1 }
    let s := logAt s tc pos 2 0x0020 (le 4 (posOf s tc pos).fatalEdges)
    if out then s else reportPos (copyRing s tc pos e) tc pos "PackageError") s

/-- ERR_CORR_EDGE: counted, and summed up in the log once a second (R377). -/
def execErrCorrEdge (tc pos : Nat) (s : State) : Res :=
  atPos tc pos (fun s _ =>
    let now := (tcOf s tc).now
    let s := modPos s tc pos fun x => { x with corrEdges := satAdd 0xFFFFFFFF x.corrEdges 1 }
    let x := posOf s tc pos
    let due := match x.corrLogged with
      | some t => decide (t + 1000000000 ≤ now)
      | none => true
    if due then
      modPos (logAt s tc pos 1 0x0021 (le 4 x.corrEdges)) tc pos fun x => { x with corrEdges := 0, corrLogged := some now }
    else s) s

/-- The pulse of ERR_CORR_N and its gap end: the next that waits is driven (R447). -/
def nextPulse (x : Pins) : Pins :=
  if x.corrWait = 0 then { x with corrPulse := false } else { x with corrWait := x.corrWait - 1 }

/-- ERR_CORR_PULSE_END (R447). -/
def execErrCorrPulseEnd (e : Elem) (s : State) : Res := onBase e (fun b => { b with pins := nextPulse b.pins }) s

/-! ## The messages (R411) -/

/-- The whole message at the front of an outbox: type and content; none where raw reads have begun it. -/
def outFront (b : Base) : Option (Nat × Bytes) :=
  match b.msp.outbox with
  | [] => none
  | w :: rest =>
    let n := w.toNat % 2 ^ 16
    if b.msp.outLeft ≠ 0 ∨ rest.length < n then none else some (w.toNat / 2 ^ 24, wordsToBytes (rest.take n))

/-- The outbox without its front message. -/
def outDrop (b : Base) : Base :=
  setMsp b { b.msp with outbox := b.msp.outbox.drop (1 + ((b.msp.outbox.headD 0).toNat % 2 ^ 16)) }

/-- The tray controller delivers an image (1) or a blob (2): BULK_RESET, the bytes, BULK_DONE. -/
def deliver (kind : Nat) (bytes : Bytes) (b : Base) : Base :=
  inboxTake (bulkTake (bulkResetNow b) bytes) (mspMessage 0x81 (le 4 kind ++ le 4 bytes.length))

/-- The copy of the image store that a position's slot points at: a Weir's two copies follow the two hub copies (R386). -/
def slotCopy (tc : Nat) (x : Position) (slot : Nat) : Nat :=
  (if isSwitch tc then 2 else 0) + (if slot = 0 then x.slotA else x.slotB)

/-- IMAGE_REQ is answered with the image, or BULK_UNAVAILABLE where the store has none. -/
def onImageReq (tc pos : Nat) (e : Elem) (c : Bytes) (s : State) : State :=
  match mfind (slotCopy tc (posOf s tc pos) (fieldAt c 0 4)) (tcOf s tc).copies with
  | some img => modBase s e (deliver 1 img)
  | none => modBase s e fun b => inboxTake b (mspMessage 0x82 (le 4 1))

/-- BLOB_REQ: the serial is read, and the position's blob delivered (R380). -/
def onBlobReq (tc pos : Nat) (e : Elem) (_ : Bytes) (s : State) : State :=
  let s := takeSerial s tc pos (serialOf (baseOf s e))
  modBase s e (deliver 2 (positionBlob s tc pos))

/-- SETTINGS_READY: the settings leave the bulk-out buffer, join the position's own and go to the rack controller. An entry of
20 bytes is a port's, entries of 8 bytes are stacks' (log 27). -/
def onSettings (tc pos : Nat) (e : Elem) (c : Bytes) (s : State) : State :=
  let n := fieldAt c 0 4
  let got := (baseOf s e).msp.bulkOut.take n
  let s := modBase s e fun b => setMsp b { b.msp with bulkOut := b.msp.bulkOut.drop n }
  let s := takeSerial s tc pos (serialOf (baseOf s e))
  let s := modPos s tc pos fun x =>
    if n = 20 then { x with savedPorts := mergeEntries 20 1 x.savedPorts got }
    else { x with savedDram :=
      (List.range (got.length / 8)).foldl (fun d i => mergeEntries 8 8 d ((got.drop (8 * i)).take 8)) x.savedDram }
  let x := posOf s tc pos
  modRc s (tc / 30) fun r => { r with saved := mset r.saved x.serial (x.savedPorts, x.savedDram) }

/-- A ready report is logged; it ends an attempt, or with RESULT 3 counts as a failed one (R316, R322, R378, R462). -/
def onReady (tc pos : Nat) (e : Elem) (c : Bytes) (s : State) : State :=
  let s := modPos (logAt s tc pos 0 0x0014 ((c.drop 1).take 8)) tc pos fun x => { x with readyResult := byteAt c 1 }
  let x := posOf s tc pos
  if sealedElem s e then s
  else if byteAt c 1 = 3 then
    let now := (tcOf s tc).now
    attemptFails (modPos s tc pos fun x => { x with attempts := if x.attemptRunning then x.attempts else x.attempts ++ [now] })
      tc pos e
  else if x.attemptRunning then
    reportPos (modPos s tc pos fun x => { x with attemptRunning := false }) tc pos "PackageReset"
  else s

/-- A load notice goes into the tray's flow target (R361, R364). -/
def onNotice (tc pos : Nat) (_ : Elem) (c : Bytes) (s : State) : State :=
  let n : Notice :=
    { atNs := fieldAt c 0 8, power := min 1600 (fieldAt c 8 2), pitch := fieldAt c 10 2 % 4096, durMs := fieldAt c 12 2
      inForce := false, started := 0 }
  modPos s tc pos fun x => { x with notice := some n }

/-- A copy of an event record is logged. -/
def onRecord (tc pos : Nat) (e : Elem) (c : Bytes) (s : State) : State :=
  let s := logCopy tc pos s c
  match e with
  | .pkg _ => modPos s tc pos fun x => { x with lastRseq := fieldAt c 0 4 }
  | .weir _ => s

/-- A pitch reply reaches whoever sent the command; the tray controller keeps nothing of it. -/
def onReply (_ _ : Nat) (_ : Elem) (_ : Bytes) (s : State) : State := s

/-- A message whose type the table lacks is logged; no log code is given for it (log 73). -/
def onUnknown (tc pos type : Nat) (s : State) : State := logAt s tc pos 1 0 (le 1 type)

/-- A message is taken according to its type. -/
def onMessage (tc pos : Nat) (e : Elem) (type : Nat) (c : Bytes) (s : State) : State :=
  match type with
  | 0x01 => onImageReq tc pos e c s
  | 0x02 => onBlobReq tc pos e c s
  | 0x03 => onSettings tc pos e c s
  | 0x04 => onReady tc pos e c s
  | 0x05 => onNotice tc pos e c s
  | 0x06 => onRecord tc pos e c s
  | 0x07 => onReply tc pos e c s
  | 0x08 => onReady tc pos e c s
  | _ => onUnknown tc pos type s

/-- The front message is taken where it has one of the types. -/
def takeFront (types : Nat → Bool) (tc pos : Nat) (s : State) (e : Elem) : State :=
  match outFront (baseOf s e) with
  | some (type, c) => if types type then onMessage tc pos e type c (modBase s e outDrop) else s
  | none => s

/-- IMAGE_REQ (R411). -/
def execImageReq (tc pos : Nat) (s : State) : Res := atPos tc pos (takeFront (· == 0x01) tc pos) s

/-- BLOB_REQ (R411). -/
def execBlobReq (tc pos : Nat) (s : State) : Res := atPos tc pos (takeFront (· == 0x02) tc pos) s

/-- SETTINGS_READY (R380). -/
def execSettingsReady (tc pos : Nat) (s : State) : Res := atPos tc pos (takeFront (· == 0x03) tc pos) s

/-- READY_REPORT (R378). -/
def execReadyReport (tc pos : Nat) (s : State) : Res := atPos tc pos (takeFront (· == 0x04) tc pos) s

/-- LOAD_NOTICE_MESSAGE (R364). -/
def execLoadNoticeMessage (tc pos : Nat) (s : State) : Res := atPos tc pos (takeFront (· == 0x05) tc pos) s

/-- EVENT_RECORD_COPY (R411). -/
def execEventRecordCopy (tc pos : Nat) (s : State) : Res := atPos tc pos (takeFront (· == 0x06) tc pos) s

/-- PITCH_REPLY (R411). -/
def execPitchReply (tc pos : Nat) (s : State) : Res := atPos tc pos (takeFront (· == 0x07) tc pos) s

/-- WEIR_READY_REPORT (R322). -/
def execWeirReadyReport (tc pos : Nat) (s : State) : Res := atPos tc pos (takeFront (· == 0x08) tc pos) s

/-- Messages are taken while OUT_PENDING reads 1, at most `n` of them. -/
def drainOutbox (tc pos : Nat) (e : Elem) : Nat → State → State
  | 0, s => s
  | n + 1, s =>
    if outPending (baseOf s e).msp then drainOutbox tc pos e n (takeFront (fun _ => true) tc pos s e) else s

/-- MSP_STATUS_POLL (R410). -/
def execMspStatusPoll (tc pos : Nat) (s : State) : Res :=
  atPos tc pos (fun s e => drainOutbox tc pos e (baseOf s e).msp.outbox.length s) s

/-- The hub, or a Weir's image, discards the message at the front of its inbox where it knows no such type (R323, R411). -/
def inUnknown (type : Nat) (b : Base) : Base :=
  let w := (b.msp.inbox.headD 0).toNat
  let known := type = 0x81 || type = 0x82 || (type = 0x83 && !b.isWeir)
  if b.msp.inbox.isEmpty ∨ w / 2 ^ 24 ≠ type ∨ known ∨ !hubRuns b then b
  else mspErr (setMsp b { b.msp with inbox := b.msp.inbox.drop (1 + w % 2 ^ 16) }) 8 1

/-- MSP_UNKNOWN_MESSAGE (R411). -/
def execMspUnknownMessage (e : Elem) (toTc : Bool) (type : Nat) (s : State) : Res :=
  let at' := tcOfElem e
  if toTc then
    atPos at'.1 at'.2 (takeFront (fun t => decide (t = type ∧ (t = 0 ∨ 8 < t))) at'.1 at'.2) s
  else onBase e (inUnknown type) s

/-! ## Restart and images (R379, R384–R386) -/

/-- A position after its controller's restart: lines that were held are released and held again, which is a reset anew; an
element found in kindling or bring-up is pulsed (R379). -/
def restartPos (tc : Nat) (s : State) (pos : Nat) : State :=
  match elemAt tc pos with
  | none => s
  | some e =>
    let x := posOf s tc pos
    let s := modPos s tc pos fun x => { x with hbSeen := false }
    if !x.present then s
    else if x.resetHeld then lowReset (freeReset s e) e
    else if !x.porstHolds.isEmpty then lowPorst (freePorst s e) e
    else
      let busy := match (baseOf s e).kin.phase with
        | .kindling _ => true
        | .kindleStuck => !hubRuns (baseOf s e)
        | .bringup _ => true
        | _ => false
      if busy then pulseReset (logAt s tc pos 1 0x0012 (le 1 3 ++ le 1 0)) e else s

/-- The tray controller boots a slot: the boot is logged, and each position looked at. -/
def bootTc (s : State) (tc slot : Nat) : State :=
  let v := nth 0 (tcOf s tc).slotVersions slot
  eachPos (logTc s tc 0 0 0x0001 (le 1 slot ++ le 4 v)) tc (restartPos tc)

/-- A trial that did not confirm is failed, and the previous slot starts and logs it (R385). -/
def failTrial (s : State) (tc slot : Nat) : State :=
  let v := nth 0 (tcOf s tc).slotVersions slot
  let s := modTc s tc fun t => { t with trial := none }
  bootTc (logTc s tc 0 2 0x0002 (le 1 slot ++ le 4 v)) tc (tcOf s tc).activeSlot

/-- The fused image key of a tray controller. -/
def imageKeyBytes (tc : Nat) : List Nat := (List.range 16).map fun i => (Config.imageKey tc i).toNat

/-- Byte `x` of the image in a slot as the flash interface gives it, for the payload that follows the 256 bytes of header: decrypted on
the fly (R375; log 166). -/
def slotImageByte (s : State) (tc slot x : Nat) : Byte :=
  let g := mget [] (tcOf s tc).slotImages slot
  ctrByte (imageKeyBytes tc) (imgNonce g) x (nth 0 g x)

/-- TC_RESTART; during a trial it is the trial's failure (R379, R385). The management tray's controller is back with its rack controller
(R21; log 167). -/
def execTcRestart (tc : Nat) (s : State) : Res :=
  .next (let s := if tc % 30 = 29 then modRc s (tc / 30) fun r => { r with lost := false } else s
    match (tcOf s tc).trial with
    | some slot => failTrial s tc slot
    | none => bootTc s tc (tcOf s tc).activeSlot)

/-- TC_TRIAL_CONFIRM: the trial's slot is active, and the thermometer follows its ROLLBACK (R385). -/
def execTcTrialConfirm (tc : Nat) (s : State) : Res :=
  onTc tc (fun t => match t.trial with
    | some slot => { t with trial := none, activeSlot := slot, thermometer := max t.thermometer t.trialRollback }
    | none => t) s

/-- TC_TRIAL_FAIL (R385). -/
def execTcTrialFail (tc : Nat) (s : State) : Res :=
  .next (match (tcOf s tc).trial with
    | some slot => failTrial s tc slot
    | none => s)

/-- The copies that images of a type may use: a hub's, or a Weir's on a switch tray; none on other trays (R386). -/
def typeCopies (tc type : Nat) : List Nat :=
  if type = 2 then (if isCompute tc then [0, 1, 2, 3] else if isSwitch tc then [0, 1] else [])
  else if type = 3 ∧ isSwitch tc then [2, 3]
  else []

/-- The slot a position boots first. -/
def bootsFirst (s : State) (tc pos : Nat) : Nat :=
  match elemAt tc pos with
  | some (.pkg k) => bandSlot (pkgOf s k).band
  | _ => 0

/-- The copies that positions' first slots, or any slots, point at. -/
def firstCopies (s : State) (tc : Nat) : List Nat :=
  (List.range (posCount tc)).map fun pos => slotCopy tc (posOf s tc pos) (bootsFirst s tc pos)
def usedCopies (s : State) (tc : Nat) : List Nat :=
  (List.range (posCount tc)).flatMap fun pos => [slotCopy tc (posOf s tc pos) 0, slotCopy tc (posOf s tc pos) 1]

/-- The copy a new image is written into: one that no slot uses, or one that only fallback slots use (R386). -/
def copyFor (s : State) (tc type : Nat) : Option Nat :=
  let all := typeCopies tc type
  match all.find? fun c => !(usedCopies s tc).contains c with
  | some c => some c
  | none => all.find? fun c => !(firstCopies s tc).contains c

/-- The ROLLBACK that a new image must reach: the fuses burnt, or that of the image now served (R384). -/
def rollbackFloor (s : State) (tc type : Nat) : Nat :=
  if type = 1 then (tcOf s tc).thermometer
  else
    let served := (firstCopies s tc).filter (typeCopies tc type).contains
    ((served.filterMap fun c => mfind c (tcOf s tc).copies).map imgRollback).foldl max 0

/-- Why an image is rejected: 1 signature, 3 length, 2 rollback; 0 where it is stored (R381, R384). -/
def imageReason (s : State) (tc : Nat) (g : Bytes) : Nat :=
  let type := imgType g
  let room := if type = 1 then 2 ^ 23 else if (typeCopies tc type).isEmpty then 0 else 2 ^ 22
  if type < 1 ∨ 3 < type ∨ !imgVerifies g then 1
  else if room < imgLength g + 256 ∨ imgLength g ≠ (imgPayload g).length then 3
  else if imgRollback g < rollbackFloor s tc type then 2
  else 0

/-- A position's pointers follow a new copy, unless its element is in kindling phase 4 (R386). -/
def pointAt (tc copy : Nat) (s : State) (pos : Nat) : State :=
  match elemAt tc pos with
  | none => s
  | some e =>
    if (baseOf s e).kin.phase = .kindling 4 then s
    else
      let c := copy - (if isSwitch tc then 2 else 0)
      let first := bootsFirst s tc pos
      modPos s tc pos fun x => if first = 0 then { x with slotA := c, slotB := x.slotA } else { x with slotB := c, slotA := x.slotB }

/-- An image that verified is stored: a tray controller's own starts a trial, a hub's or Weir's takes a copy (R385, R386). -/
def storeImage (s : State) (tc : Nat) (g : Bytes) : State :=
  let slot := 1 - (tcOf s tc).activeSlot
  let note := fun (s : State) => logTc s tc 0 0 0x0060 (le 1 (imgType g) ++ le 4 (imgVersion g) ++ le 1 0)
  if imgType g = 1 then
    let s := modTc s tc fun t =>
      { t with
        slotVersions := setNth t.slotVersions slot (imgVersion g), slotImages := mset t.slotImages slot g
        trial := some slot, trialRollback := imgRollback g }
    bootTc (note s) tc slot
  else
    match copyFor s tc (imgType g) with
    | none => s
    | some c =>
      let s := note (modTc s tc fun t => { t with copies := mset t.copies c g })
      if imgType g = 2 ∧ isSwitch tc then s else eachPos s tc (pointAt tc c)

/-- IMAGE_STORE (R384). -/
def execImageStore (tc : Nat) (image : Bytes) (s : State) : Res :=
  .next (let r := imageReason s tc image
    if r = 0 then storeImage s tc image
    else logTc s tc 0 2 0x0060 (le 1 (imgType image) ++ le 4 (imgVersion image) ++ le 1 r))

/-- The cap is the one that the rack controller has sent for the slot; a raised cap is sent only after the lowered ones (R391, R392). -/
def capWasSent (s : State) (tc pos watts : Nat) : Bool :=
  isCompute tc && decide (mfind (subjectOf tc pos) (rcOf s (tc / 30)).capSent = some watts)

/-- TC_CAP_MESSAGE: the rack controller's cap is kept, and written unless a coolant action keeps its own (R392). -/
def execTcCapMessage (tc pos watts : Nat) (s : State) : Res :=
  atPos tc pos (fun s _ =>
    if !capWasSent s tc pos watts then s
    else
      let s := modPos s tc pos fun x => { x with rcCap := watts }
      if capForced (tcOf s tc) then s else writeCapTc s tc pos watts) s

end Sys2Proof.Machine
end

