-- ==== Sys2Proof/Machine/Coolant.lean ====
section
/-! DEFINITION. Tray coolant: sensors, the flow target, and the conditions a tray controller acts on (R363–R365, R413, R416). -/

namespace Sys2Proof.Machine

/-! ## Readings (R363) -/

/-- A reading within its range; one outside it is as one that did not come. -/
def inRange (limit : Nat) (r : Option Nat) : Option Nat := r.filter fun v => decide (v ≤ limit)

/-- The readings a tray controller may use: none of a stuck segment A (R416). -/
def usable (stuck : Bool) (r : Coolant) : Coolant :=
  if stuck then { inlet := none, outlet := none, flow := none, supply := none, ret := none, leak := none, power := r.power }
  else { r with
    inlet := inRange 560 r.inlet, outlet := inRange 720 r.outlet, flow := inRange 1500 r.flow, supply := inRange 600 r.supply
    ret := inRange 600 r.ret }

/-- The faulty sensors, in the order of the table of R363. -/
def faultySensors (r : Coolant) : List Nat :=
  ([r.inlet.isNone, r.outlet.isNone, r.flow.isNone, r.supply.isNone, r.ret.isNone, r.leak.isNone].zipIdx.filter fun x => x.1).map
    fun x => x.2

/-- The pressure differential is below 0.1 bar; with a faulty sensor it counts as in range. -/
def pressureLost (r : Coolant) : Bool :=
  match r.supply, r.ret with
  | some a, some b => decide (a < b + 10)
  | _, _ => false

/-! ## The flow target (R364) -/

/-- The notice of a position counts: it is in force, or its AT lies within the next 3 s. -/
def noticeCounts (now : Nat) (n : Notice) : Bool :=
  decide (n.atNs ≤ now + 3000000000) && (decide (n.durMs = 0) || decide (now < n.atNs + n.durMs * 1000000))

/-- What a package adds to the sum, in 0.125 W: nothing when it is absent or held. -/
def packageLoad (s : State) (tc pos : Nat) : Nat :=
  let x := posOf s tc pos
  match elemAt tc pos with
  | some (.pkg k) =>
    if !x.present || x.resetHeld || !x.porstHolds.isEmpty then 0
    else
      let pIn := if hubRuns (pkgOf s k).base then (pkgOf s k).rdF (pw Off.P_IN) 15 0 else 0
      match x.notice with
      | some n => if noticeCounts (tcOf s tc).now n then max pIn (8 * n.power) else pIn
      | none => pIn
  | _ => 0

/-- The target in 0.01 L/min: 2.0 L/min and 1.0 for each kW, at most 10.0. -/
def flowTarget (s : State) (tc : Nat) (trayWatts : Nat) : Nat :=
  let eighths :=
    if isCompute tc then (List.range 4).foldl (fun n pos => n + packageLoad s tc pos) 0 else 8 * trayWatts
  min 1000 (200 + eighths / 80)

/-! ## Conditions (R365) -/

/-- A condition is entered, and logged; one in force stays. -/
def enterCond (s : State) (tc row : Nat) : State :=
  if (tcOf s tc).cool.conds.contains row then s
  else logTc (modCool s tc fun c => { c with conds := c.conds ++ [row] }) tc 0x30 2 0x0040 (le 1 row)

/-- A condition ends, and is logged. -/
def leaveCond (s : State) (tc row : Nat) : State :=
  if (tcOf s tc).cool.conds.contains row then
    logTc (modCool s tc fun c => { c with conds := c.conds.filter (· ≠ row) }) tc 0x30 0 0x0040 (le 1 row)
  else s

/-- PORST_N is held on every position for a cause. -/
def holdAll (s : State) (tc cause : Nat) : State := eachPos s tc fun s pos => holdPorst s tc cause pos

/-- Flow loss: every package is held in reset, and the valve stays open. -/
def loseFlow (s : State) (tc : Nat) : State :=
  if (tcOf s tc).cool.conds.contains 4 then s
  else
    let s := modCool (enterCond s tc 4) tc fun c => { c with valveOpen := true }
    report (holdAll s tc 3) (tc / 30) "FlowLoss" (tc % 30)

/-- A leak: every package is held in reset, and the isolation valve closes. -/
def leak (s : State) (tc : Nat) : State :=
  if (tcOf s tc).cool.conds.contains 5 then s
  else
    let s := modCool (enterCond s tc 5) tc fun c => { c with isolationClosed := true }
    report (holdAll s tc 2) (tc / 30) "LeakDetected" (tc % 30)

/-- CAP_TC is 400 W on every package of the tray. -/
def lowerAll (s : State) (tc : Nat) : State := eachPos s tc fun s pos => lowerCapTc s tc pos

/-- The rack controller's caps stand again; 800 W where it has sent none (R350, R392). -/
def restoreCaps (s : State) (tc : Nat) : State :=
  if capForced (tcOf s tc) then s
  else eachPos s tc fun s pos =>
    let c := (posOf s tc pos).rcCap
    writeCapTc s tc pos (if c = 0 then 800 else c)

/-! ## Rows -/

/-- COOLANT_POLL: readings or substitutes, T_IN of every package, the valve's target, and the conditions that act at once. -/
def coolantPoll (tc : Nat) (reading : Coolant) (s : State) : State :=
  if posCount tc = 0 then s
  else
    let r := usable (mget {} (tcOf s tc).segs 0).stuck reading
    let inlet := r.inlet.getD 320
    let target := flowTarget s tc (r.power.headD 0)
    let s := modCool s tc fun c =>
      { c with inlet := inlet, flow := r.flow.getD 0, flowTarget := target, faulty := faultySensors r }
    let s := eachPos s tc fun s pos => match elemAt tc pos with
      | some (.pkg k) => tcWrite s k (pw Off.T_IN) inlet
      | _ => s
    let s := recheckCoolant s tc
    let s := if r.flow.isNone || pressureLost r then loseFlow s tc else s
    if r.leak.getD true then leak s tc else s

/-- COOLANT_POLL (R363). -/
def execCoolantPoll (tc : Nat) (reading : Coolant) (s : State) : Res := .next (coolantPoll tc reading s)

/-- A row of a tray that has coolant. -/
def onCool (tc : Nat) (f : State → State) (s : State) : Res := .next (if posCount tc = 0 then s else f s)

/-- INLET_HOT_TIMEOUT (R365). -/
def execInletHotTimeout (tc : Nat) (s : State) : Res := onCool tc (fun s => lowerAll (enterCond s tc 2) tc) s

/-- FLOW_LOW_TIMEOUT: the valve opens fully (R365). -/
def execFlowLowTimeout (tc : Nat) (s : State) : Res :=
  onCool tc (fun s => modCool (enterCond s tc 3) tc fun c => { c with valveFull := true }) s

/-- FLOW_STILL_LOW: five seconds after the valve opened fully (R365). -/
def execFlowStillLow (tc : Nat) (s : State) : Res :=
  onCool tc (fun s =>
    if (tcOf s tc).cool.conds.contains 3 then lowerAll (modCool s tc fun c => { c with flowCap := true }) tc else s) s

/-- FLOW_LOSS (R365). -/
def execFlowLoss (tc : Nat) (s : State) : Res := onCool tc (fun s => loseFlow s tc) s

/-- LEAK_DETECTED (R365). -/
def execLeakDetected (tc : Nat) (s : State) : Res := onCool tc (fun s => leak s tc) s

/-- COOLANT_CONDITION_END: rows 1 to 3 end so; a flow loss and a leak last until the rack controller clears them (R365). -/
def execCoolantConditionEnd (tc row : Nat) (s : State) : Res :=
  onCool tc (fun s =>
    if !(tcOf s tc).cool.conds.contains row then s
    else if row = 1 then
      modRc (leaveCond s tc 1) (tc / 30) fun r => { r with inletHigh := r.inletHigh.filter (· ≠ tc % 30) }
    else if row = 2 then restoreCaps (leaveCond s tc 2) tc
    else if row = 3 then
      let was := (tcOf s tc).cool.flowCap
      let s := modCool (leaveCond s tc 3) tc fun c => { c with valveFull := false, flowCap := false }
      if was then restoreCaps s tc else s
    else s) s

end Sys2Proof.Machine
end

