-- ==== Sys2Proof/Machine/Swap.lean ====
section
/-! DEFINITION. Trays of a rack and their ports, the removal and return of a tray, the route table the rack controllers hold
(R3, R16, R163–R165, R199, R395–R400, R457). -/

namespace Sys2Proof.Machine

/-! ## The torus of racks (R165) -/

/-- The rack that up-port 64 + `i` of a rack leads to. -/
def neighbour (s : State) (rack i : Nat) : Nat :=
  let w := shapeSize (shapeCodes s).1
  let h := shapeSize (shapeCodes s).2
  let x := rack % 4
  let y := rack / 4
  if i < 2 then (x + 1) % w + 4 * y
  else if i < 4 then (x + w - 1) % w + 4 * y
  else if i < 6 then x + 4 * ((y + 1) % h)
  else x + 4 * ((y + h - 1) % h)

/-- The up-ports that the shape cables. -/
def cabledUps (s : State) : List Nat := (bitList (upMask s) 8).map fun i => 64 + i

/-- The other end of a port's link (R16, R165). -/
def farEnd (s : State) (e : Elem) (q : Nat) : Elem × Nat :=
  match e with
  | .pkg k => (.weir (k / 64 * 18 + q), k % 64)
  | .weir k => if q < 64 then (.pkg (k / 18 * 64 + q), k % 18) else (.weir (neighbour s (k / 18) (q - 64) * 18 + k % 18), upPartner (q - 64))

/-! ## Ports of a tray (R396, R397, R454) -/

/-- The ports of the elements on a tray. -/
def ownPorts (rack : Nat) : Tray → List (Elem × Nat)
  | .compute c => (List.range 4).flatMap fun i => (List.range 18).map fun q => (Elem.pkg (rack * 64 + 4 * c + i), q)
  | .switch n => [2 * n, 2 * n + 1].flatMap fun p => (List.range 72).map fun q => (Elem.weir (rack * 18 + p), q)

/-- The ports that face the tray: Weir down-ports, package ports, and the other racks' up-ports that face this rack. -/
def facingPorts (s : State) (rack : Nat) (t : Tray) : List (Elem × Nat) :=
  match t with
  | .compute _ => (ownPorts rack t).map fun x => farEnd s x.1 x.2
  | .switch _ => ((ownPorts rack t).filter fun x => decide (x.2 < 64) || (cabledUps s).contains x.2).map fun x => farEnd s x.1 x.2

/-- ENABLE of a port is written: a package's page through the CS window, a Weir's by its switch tray's controller (log 48). -/
def setPort (on : Bool) (s : State) (x : Elem × Nat) : State :=
  match x.1 with
  | .pkg k =>
    let a := portPage x.2 + Off.PAGE_CTRL
    tcWrite s k a (setBit ((pkgOf s k).rd a % 4) 0 on)
  | .weir k =>
    if !hubRuns (weirOf s k).base then s
    else modWeir s k fun w => w.mapBase fun b => weirEnableWrite b x.2 on

/-- Step 4 of a removal: the ports that end or face at the tray are disabled. -/
def disablePorts (s : State) (rack : Nat) (t : Tray) : State := (facingPorts s rack t ++ ownPorts rack t).foldl (setPort false) s

/-- The return of a tray: the same ports are enabled, up-ports only where the shape cables them. -/
def enablePorts (s : State) (rack : Nat) (t : Tray) : State :=
  let mine := (ownPorts rack t).filter fun x => match x.1 with
    | .pkg _ => true
    | .weir _ => decide (x.2 < 64) || (cabledUps s).contains x.2
  (facingPorts s rack t ++ mine).foldl (setPort true) s

/-! ## Tray states (R3, R395) -/

def trayState (s : State) (rack n : Nat) : TrayState := mget .inService (rcOf s rack).trays n
def setTray (s : State) (rack n : Nat) (x : TrayState) : State := modRc s rack fun r => { r with trays := mset r.trays n x }

/-- Some switch tray of the rack is out of service, so the rack is degraded. -/
def showDegraded (s : State) (rack : Nat) : State :=
  modRc s rack fun r => { r with degraded := r.trays.any fun e => decide (16 ≤ e.1 ∧ e.1 < 25 ∧ e.2 ≠ .inService) }

/-- A hot-swap step is logged by the tray's controller (R381, R396). -/
def logStep (s : State) (tc n : Nat) : State := logTc s tc 0 0 0x0070 (le 1 n)

/-- Step 5 of a removal: PORST_N is held, the 48 V switch opens, the isolation valve closes, the LED lights. -/
def powerDown (s : State) (tc : Nat) : State :=
  modTc (holdAll s tc 4) tc fun t => { t with hotSwitchOpen := true, led := true, cool := { t.cool with isolationClosed := true } }

/-- What step 6 reports (R396, R397). -/
def readyForRemoval (s : State) (rack : Nat) (t : Tray) : State :=
  let s := setTray s rack (trayNo t) .readyForRemoval
  let s := report (modRc s rack fun r => { r with swap := some (t, 0) }) rack "ReadyForRemoval" (trayNo t)
  match t with
  | .compute _ => s
  | .switch _ => report (modRc s rack fun r => { r with degraded := true }) rack "PlanesDegraded" (trayNo t)

/-- Steps 4 to 6 of a removal, once the epoch change has completed; a tray lost meanwhile has no step 5 (R399). -/
def finishRemoval (s : State) (rack : Nat) (t : Tray) : State :=
  if (rcOf s rack).swap ≠ some (t, 3) then disablePorts s rack t
  else
    let tc := trayTc rack t
    let s := disablePorts (logStep s tc 4) rack t
    let s := powerDown (logStep s tc 5) tc
    readyForRemoval (logStep s tc 6) rack t

/-! ## DRAIN_PLANES (R397, R398, R400) -/

/-- The planes of a switch tray, as a mask. -/
def planesOf (n : Nat) : Nat := 3 * 2 ^ (2 * n)

/-- DRAIN_PLANES of every package of the span gains or loses the planes of a switch tray. -/
def drainPlanes (s : State) (n : Nat) (on : Bool) : State :=
  let a := hubPage 2 + Off.DRAIN_PLANES
  (s.pkgs.map fun e => e.1).foldl (fun s k =>
    if s.spanRacks.contains (k / 64) then
      let old := (pkgOf s k).rd a
      tcWrite s k a (if on then old ||| planesOf n else mergeBits old 0 (planesOf n))
    else s) s

/-- The end of ReturnToService, once the epoch change has completed (R398). -/
def finishReturn (s : State) (rack : Nat) (t : Tray) : State :=
  let s := enablePorts s rack t
  let s := match t with
    | .compute _ => s
    | .switch n => drainPlanes s n false
  let s := setTray s rack (trayNo t) .inService
  showDegraded (modRc s rack fun r => { r with swap := match r.swap with
    | some (u, n) => if u = t then none else some (u, n)
    | none => none }) rack

/-! ## A span that has been attested (R457) -/

/-- A package that hosts no pitch takes its new rack number at a kindling, requested by a pulse of RESET_N (log 74). -/
def kindleAgain (s : State) (k : Nat) : State :=
  let at' := tcOfElem (.pkg k)
  let p := pkgOf s k
  if !p.hub.hosted.isEmpty ∨ p.base.kin.phase ≠ .running then s
  else pulseReset (logAt s at'.1 at'.2 1 0x0012 (le 1 4 ++ le 1 0)) (.pkg k)

/-- Packages kindle again, and then the up-ports are enabled. -/
def finishSpan (s : State) (racks : List Nat) : State :=
  let s := ((s.pkgs.map fun e => e.1).filter fun k => racks.contains (k / 64)).foldl kindleAgain s
  ((s.weirs.map fun e => e.1).filter fun k => racks.contains (k / 18)).foldl
    (fun s k => (cabledUps s).foldl (fun s q => setPort true s (.weir k, q)) s) s

/-- What follows an epoch change. -/
def followUp (s : State) : After → State
  | .nothing => s
  | .removed rack t => finishRemoval s rack t
  | .lost rack t => disablePorts s rack t
  | .returned rack t => finishReturn s rack t
  | .spanned racks => finishSpan s racks

/-! ## The table of route entries (R163, R397, R456) -/

/-- An entry changed. -/
def tableSet (s : State) (i v : Nat) : State := { s with table := mset s.table i v }

/-- A change made to the table. -/
def applyEdit (s : State) : Edit → State
  | .valid i on => tableSet s i (setBit (entryOf s i) 18 on)
  | .plane i p on => tableSet s i (setBit (entryOf s i) p on)
  | .planeOff p =>
    (s.spanRacks.flatMap fun r => (List.range 64).map fun d => r * 64 + d).foldl
      (fun s i => tableSet s i (setBit (entryOf s i) p false)) s

/-- Changes made to the table. -/
def applyEdits (s : State) (l : List Edit) : State := l.foldl applyEdit s

end Sys2Proof.Machine
end

