-- ==== Sys2Proof/Machine/Epoch.lean ====
section
/-! DEFINITION. The epoch change of the span: open, write the tables, seal, switch, wait (R166–R169, R210, R393, R394). -/

namespace Sys2Proof.Machine

/-- The element of a number: Weirs count from 1,024. -/
def elemOf (n : Nat) : Elem := if n < 1024 then .pkg n else .weir (n - 1024)
def numberOf : Elem → Nat
  | .pkg k => k
  | .weir k => 1024 + k

/-- The rack of an element. -/
def rackOf : Elem → Nat
  | .pkg k => k / 64
  | .weir k => k / 18

/-- An element takes part while it is present, and ready or degraded (R393; log 75). -/
def takesPart (s : State) (x : Nat) : Bool :=
  let e := elemOf x
  let at' := tcOfElem e
  decide ((baseOf s e).kin.phase = .running) && (posOf s at'.1 at'.2).present && s.spanRacks.contains (rackOf e)
    && (match e with
      | .pkg k => !(pkgOf s k).dies.outOfService
      | .weir _ => true)

/-- The elements of the span that take part now. -/
def spanMembers (s : State) : List Nat :=
  (List.append (s.pkgs.map fun e => e.1) (s.weirs.map fun e => 1024 + e.1)).filter (takesPart s)

/-! ## One step at one element (R167, R168) -/

/-- The address of ROUTE_EPOCH or WEIR_EPOCH. -/
def epochReg (b : Base) : Nat := if b.isWeir then 0x10000 else routePage + Off.ROUTE_EPOCH

/-- A pitch-0 write over the control path: of a package over the MSP, of a Weir by its switch tray's controller (R168, R393). -/
def ctlWord (s : State) (e : Elem) (a v : Nat) : State :=
  match e with
  | .pkg k => tcWrite s k a v
  | .weir k => tcWeirWrite s k a v

/-- Where the tables of epoch `n` lie, word by word, with the words of the changed tables: an unchanged copy where the change alters
nothing. -/
def tableWords (s : State) (n rack : Nat) (isWeir : Bool) : List (Nat × Nat) :=
  if isWeir then
    ((List.range 64).map fun i => (slotRoute n i, slotWord s rack i)) ++ (List.range 16).map fun r => (rackRoute n r, rackWord s r)
  else (List.range 1024).map fun i => (pg 0x38 (0x10 + 4 * n + i / 256) + Off.ROUTE_ENTRY + 4 * (i % 256), entryOf s i)

/-- A write whose effect is read back (R168). -/
def writeAndRead (s : State) (e : Elem) (l : List (Nat × Nat)) : State × Bool :=
  let s := l.foldl (fun s x => ctlWord s e x.1 x.2) s
  (s, l.all fun x => decide (rd (baseOf s e) x.1 = x.2))

/-- A step at an element, and whether it has done it: it has not where it refuses the write, or has not come so far. -/
def stepElem (s : State) (c : EpochChange) (e : Elem) : State × Bool :=
  let b := baseOf s e
  let old := rd b (epochReg b)
  let o := 1 - c.n
  match c.step with
  | 1 => writeAndRead s e [(epochReg b, setBit (setFld old 0 0 o) (1 + c.n) true % 8)]
  | 2 => writeAndRead s e (tableWords (applyEdits s c.edits) c.n (rackOf e) b.isWeir)
  | 3 => writeAndRead s e [(epochReg b, setBit old (1 + c.n) false % 8)]
  | 4 => writeAndRead s e [(epochReg b, setFld old 0 0 c.n % 8)]
  | _ => (s, decide (rdF b (inflightReg b o) 15 0 = 0))

/-- An element does the step of the change that runs, unless it has done it or has dropped out. -/
def runAt (s : State) (x : Nat) : State :=
  match s.epochChange with
  | none => s
  | some c =>
    if c.done.contains x || !takesPart s x then s
    else
      match stepElem s c (elemOf x) with
      | (s, true) => { s with epochChange := some { c with done := c.done ++ [x] } }
      | (s, false) => s

/-- Every element that has not done the step is asked. -/
def runStep (s : State) : State :=
  match s.epochChange with
  | none => s
  | some c => c.members.foldl runAt s

/-- Every element has done the step, or has dropped out. -/
def stepDone (s : State) (c : EpochChange) : Bool := c.members.all fun x => c.done.contains x || !takesPart s x

/-! ## From change to change (R393, R394) -/

/-- The strikes of a compute tray's removal still run (R396 step 2). -/
def strikesRun (s : State) : After → Bool
  | .removed rack (.compute c) => (List.range 4).any fun i => (pkgOf s (rack * 64 + 4 * c + i)).hub.strikes.any fun x => !x.released
  | _ => false

/-- The open step begins. -/
def openStep (s : State) (edits : List Edit) (after : After) : State :=
  let c : EpochChange := { n := 1 - s.epoch, step := 1, members := spanMembers s, done := [], edits := edits, after := after }
  runStep { s with epochChange := some c }

/-- A change starts; one that has to wait for strikes starts at step 0. -/
def startChange (s : State) (edits : List Edit) (after : After) : State :=
  if strikesRun s after then
    let c : EpochChange := { n := 1 - s.epoch, step := 0, members := [], done := [], edits := edits, after := after }
    { s with epochChange := some c }
  else openStep s edits after

/-- A rack controller of the span is lost: no change, removal or return can start (R21). -/
def controllersLost (s : State) : Bool := s.spanRacks.any fun r => (rcOf s r).lost

/-- A change is asked for: at most one runs in the span at a time, and none starts while a rack controller is lost (R21, R393). -/
def askChange (s : State) (edits : List Edit) (after : After) : State :=
  if s.epochChange.isSome || controllersLost s then { s with waits := s.waits ++ [(edits, after)] } else startChange s edits after

/-- The next change that waits starts, once every rack controller is there. -/
def nextChange (s : State) : State :=
  match s.waits with
  | [] => s
  | (edits, after) :: rest => if controllersLost s then s else startChange { s with waits := rest } edits after

/-- A rack whose destinations have a plane has planes enabled (R435). -/
def showPlanes (s : State) (rack : Nat) : State :=
  if s.table.any fun e => decide (e.1 / 64 = rack ∧ e.2 % 2 ^ 18 ≠ 0) then modRc s rack fun r => { r with planesEnabled := true }
  else s

/-- The change has completed: it is reported, and what it was for goes on. -/
def completeChange (s : State) (c : EpochChange) : State :=
  let s := applyEdits { s with epochChange := none, epoch := c.n } c.edits
  let s := s.spanRacks.foldl showPlanes s
  nextChange (followUp (report s 0 "EpochChangeDone" c.n) c.after)

/-- EPOCH_STEP_DONE: the next step starts once every element has done this one (R393, R394). Where none runs, a change that waited for a
rack controller starts (R21). -/
def epochStepDone (s : State) : State :=
  match s.epochChange with
  | none => nextChange s
  | some c =>
    if c.step = 0 then (if strikesRun s c.after then s else openStep s c.edits c.after)
    else
      let s := if c.step = 5 then runStep s else s
      match s.epochChange with
      | none => s
      | some c =>
        if !stepDone s c then s
        else if c.step = 5 then completeChange s c
        else runStep { s with epochChange := some { c with step := c.step + 1, done := [] } }

/-- EPOCH_STEP_DONE (R393). -/
def execEpochStepDone (s : State) : Res := .next (epochStepDone s)

/-- The elements that have not done a step are asked again. -/
def askAgain (step : Nat) (s : State) : State :=
  match s.epochChange with
  | some c => if c.step = step then runStep s else s
  | none => s

/-- EPOCH_OPEN_RETRY (R394). -/
def execEpochOpenRetry (s : State) : Res := .next (askAgain 1 s)

/-- EPOCH_SWITCH_RETRY (R394). -/
def execEpochSwitchRetry (s : State) : Res := .next (askAgain 4 s)

/-- EPOCH_STEP_TIMEOUT: a step before the switch that some element has not done aborts the change; a removal or return that
waited for it may be asked for again (R394; log 76). -/
def epochStepTimeout (s : State) : State :=
  match s.epochChange with
  | none => s
  | some c =>
    if c.step = 0 ∨ 3 < c.step ∨ stepDone s c then s
    else nextChange (report { s with epochChange := none } 0 "EpochChangeFailed" c.n)

/-- EPOCH_STEP_TIMEOUT (R394). -/
def execEpochStepTimeout (s : State) : Res := .next (epochStepTimeout s)

end Sys2Proof.Machine
end

