-- ==== Sys2Proof/Machine/HostRows.lean ====
section
/-! DEFINITION. The host interface beyond its pages: shadow, holdoff, host loss, function resets, BAR2, D3hot (R324, R327,
R334, R336, R338, R339, R345). -/

namespace Sys2Proof.Machine

/-- SHADOW_WRITE: a shadow that lags is written (R334). -/
def execShadowWrite (p v : Nat) (s : State) : Res := onPkg p (fun x => if (x.vf v).shadowDirty then writeShadow x v else x) s

/-- MSIX_HOLDOFF_END: what waited is signalled, and a new holdoff starts (R336). -/
def holdoffEnd (p : Package) (v vec : Nat) : Package :=
  let x := p.vf v
  let p := p.setVf v { x with holdoff := setNth x.holdoff vec false, pendingVec := setNth x.pendingVec vec false }
  if nth false x.pendingVec vec then vfSignal p v vec else p

/-- MSIX_HOLDOFF_END (R336). -/
def execMsixHoldoffEnd (p v vec : Nat) (s : State) : Res := onPkg p (fun x => holdoffEnd x v vec) s

/-! ## Host loss and function resets (R338, R339) -/

/-- RUN and every COMMIT of a virtual function become 0, refusals apart, and records that wait are dropped. -/
def ringsOff (p : Package) (v : Nat) : Package :=
  let p := (List.range 4).foldl (fun p h => (p.wrF (hhReg v h Off.HH_CTL) 0 0 0).wrF (hhReg v h Off.HH_CFG) 16 16 0) p
  hostDrain ((p.wrF (vfPage v + Off.HCQ_CFG) 8 8 0).wrF (vfPage v + Off.HEQ_CFG) 8 8 0) v

/-- The number of a host loss's cause (R345). -/
def lossCode : HostLossCause → Nat
  | .linkDown => 1
  | .hotReset => 2
  | .pfReset => 3
  | .busMaster => 4

/-- The window base of a function, and its bits below the BAR2 size cleared, which are reserved (R343, R344). -/
def winReg (fn : Nat) : Nat := if fn = 0 then pfPage + Off.PF_WIN_BASE else vfPage fn + Off.VF_WIN_BASE
def trimWindow (p : Package) (fn : Nat) : Package :=
  let a := winReg fn
  (p.wr a (winTrim p false (p.rd a))).wr (a + 4) (winTrim p true (p.rd (a + 4)))

/-- HOST_LOSS: one step for every virtual function; configuration space takes MAX_VFS and BAR2_LOG2 (R326, R338, R343). -/
def hostLoss (p : Package) (cause : HostLossCause) : Package :=
  let p := ((List.range 16).map (· + 1)).foldl (fun p v => (ringsOff p v).wrF (vfPage v + Off.SHADOW_CTL) 0 0 0) p
  let cfg := p.rd (pfPage + Off.HIF_CFG)
  let p : Package := { p with host := { p.host with cfgVfs := fld cfg 4 0, cfgBar2 := fld cfg 11 8 } }
  let p := (List.range 17).foldl trimWindow p
  let p := if cause = .linkDown then p.wr (pfPage + Off.HIF_LINK) 0 else p
  raise (p.mapBase fun b => bumpSat b (pfPage + Off.HIF_LOSS_CNT) 1) pfPage 1 { c2 := lossCode cause }

/-- HOST_LOSS (R338). -/
def execHostLoss (p : Nat) (cause : HostLossCause) (s : State) : Res := onPkg p (fun x => hostLoss x cause) s

/-- VF_FLR: an owned function's pitch is struck within the package; a free one stops (R339, R345). -/
def vfFlr (p : Package) (v : Nat) : Package :=
  let q := ownerOf p.base (vfPage v)
  if q ≠ 0 then hubStrike p 4 3 q else raise (ringsOff p v) pfPage 2 {}

/-- VF_FLR (R339). -/
def execVfFlr (p v : Nat) (s : State) : Res := onPkgMem p (fun x => vfFlr x v) s

/-- What waited while VF `v` issued no DMA goes on: records, and vectors whose holdoff is over (R324; log 129). -/
def hostWake (p : Package) (v : Nat) : Package :=
  [0, 1].foldl (fun p i =>
    let x := p.vf v
    if nth false x.pendingVec i && !nth false x.holdoff i then
      vfSignal (p.setVf v { x with pendingVec := setNth x.pendingVec i false }) v i
    else p) (eventDrain (hostDrain p v) v)

/-- D3HOT (R324). -/
def execD3hot (p fn : Nat) (d3 : Bool) (s : State) : Res :=
  onPkg p (fun x =>
    let rest := x.host.d3.filter (· ≠ fn)
    let y : Package := { x with host := { x.host with d3 := if d3 then rest ++ [fn] else rest } }
    if d3 ∨ fn = 0 then y else hostWake y fn) s

/-! ## BAR2 (R327) -/

/-- The page of a function, and the base of its window. -/
def fnPage (fn : Nat) : Nat := if fn = 0 then pfPage else vfPage fn
def winBase (p : Package) (fn : Nat) : Nat := rd64 p.base (winReg fn)

/-- The bytes of a read that completes: withheld ones have a free value, for the manual gives none (log 7). -/
def shown (free : Nat) (bs : List (Option Byte)) : Bytes :=
  (List.range bs.length).map fun i => (nth none bs i).getD (Config.freeByte free i)

/-- An access that reaches nothing: a read gives zeros. -/
def barNothing (p : Package) (op : MemOp) : Package :=
  if opReads op then { p with host := { p.host with bar2Read := zeros (opLen op) } } else p

/-- BAR2_ACCESS: region, pitch, and then the bytes (R27, R282, R283, R327). Where a die does not serve them now a write waits there, and
a read has no answer yet (R117). -/
def bar2Access (fn off : Nat) (op : MemOp) (free : Nat) (p : Package) : Package :=
  let n := opLen op
  let a := winBase p fn + off
  let pitch := if fn = 0 then 0 else ownerOf p.base (vfPage fn)
  if n = 0 ∨ 2 ^ (28 + p.host.cfgBar2) < off + n then p
  else if !inRegion p a n then
    barNothing (raise p (fnPage fn) 14 { c2 := a % 2 ^ 32, c3 := a / 2 ^ 32 % 2 ^ 16, pitch := pitch }) op
  else if !ownsRange p pitch a n then
    barNothing (crossPitch p (fnPage fn) pitch (globalAddr p.base.rack p.base.pos 0 a) none) op
  else
    match op with
    | .write _ => request free p (.linkDie 0) a op []
    | _ =>
      if !memReady p a n then p
      else
        let (p, _, bs) := readMem p 16 a n
        { p with host := { p.host with bar2Read := shown free bs } }

/-- BAR2_ACCESS (R327). -/
def execBar2Access (p fn off : Nat) (op : MemOp) (s : State) : Res := onPkgFree p (bar2Access fn off op) s

end Sys2Proof.Machine
end

