-- ==== Sys2Proof/Machine/PegRows.lean ====
section
/-! DEFINITION. The local operations of the PEG descriptor (R139, R148, R150). -/

namespace Sys2Proof.Machine

/-- A local peg operation is applied: the peg's tile and its owner are looked at again, as the peg unit does for a bump
(R148, R150; log 67). -/
def pegDesc (r : HopRef) (op : Nat → PegOp) (p : Package) (e : HopEntry) : Package :=
  let n := fieldAt e.bytes 18 2 % 8192
  if !pegExists p n then finishEntry p r e.idx St.crossPitch false
  else if hollowPage p.base (tilePage (n / 512) 0) then finishEntry p r e.idx St.hollowUnit false
  else if pegFor p (pitchOfHop p r) n then finishEntry (pegApply p n (op (fieldAt e.bytes 20 4))) r e.idx 0 false
  else finishEntry p r e.idx St.crossPitch false

/-- A row of one SUBOP of the PEG descriptor. -/
def onPegDesc (k : Nat) (r : HopRef) (idx sub : Nat) (op : Nat → PegOp) (s : State) : Res :=
  onPkg k (fun p => match issuedEntry p r idx 0x60 with
    | some e => if byteAt e.bytes 16 = sub then pegDesc r op p e else p
    | none => p) s

/-- PEG_ADD (R139). -/
def execPegAdd (p : Nat) (ref : HopRef) (idx : Nat) (s : State) : Res := onPegDesc p ref idx 0 .add s

/-- PEG_SET (R139). -/
def execPegSet (p : Nat) (ref : HopRef) (idx : Nat) (s : State) : Res := onPegDesc p ref idx 1 .set s

/-- SET_TARGET (R139). -/
def execSetTarget (p : Nat) (ref : HopRef) (idx : Nat) (s : State) : Res := onPegDesc p ref idx 2 .setTarget s

end Sys2Proof.Machine
end

