-- ==== Sys2Proof/Machine/Rack.lean ====
section
/-! DEFINITION. The rack controller: power caps, actions on packages and trays, wiring and span attestation, return seals,
BRAKE_N (R3, R4, R192, R354, R377, R378, R388–R399, R453–R462). -/

namespace Sys2Proof.Machine

/-! ## What may run (R389, R393) -/

/-- An epoch change runs or waits. -/
def changing (s : State) : Bool := s.epochChange.isSome || !s.waits.isEmpty

/-- A tray is being removed somewhere in the span. -/
def removing (s : State) : Bool := s.rcs.any fun e => match e.2.swap with
  | some (_, n) => decide (n ≠ 0)
  | none => false

/-- Another tray than this one is being swapped, from PrepareRemoval until it is back in service. -/
def swappingOther (s : State) (rack : Nat) (t : Tray) : Bool := s.rcs.any fun e => match e.2.swap with
  | some (u, _) => decide (e.1 ≠ rack ∨ u ≠ t)
  | none => false

/-- A tray that a rack has. -/
def trayThere (rack : Nat) (t : Tray) : Bool := decide (rack < 16) && (match t with
  | .compute c => decide (c < 16)
  | .switch n => decide (n < 9))

/-! ## Power caps (R388, R391, R392) -/

/-- POWER_LIMIT_WRITE: within 50 kW and 128 kW. -/
def execPowerLimitWrite (rack watts : Nat) (s : State) : Res :=
  .next (if watts < 50000 ∨ 128000 < watts then rcAnswer s rack "PowerLimit" watts 400
    else rcAnswer (modRc s rack fun r => { r with setPoint := watts }) rack "PowerLimit" watts 200)

/-- POWER_LIMIT_PKG_WRITE: within 400 W and 1,600 W. -/
def execPowerLimitPkgWrite (rack slot watts : Nat) (s : State) : Res :=
  .next (if watts < 400 ∨ 1600 < watts ∨ 64 ≤ slot then rcAnswer s rack "PowerLimitPkg" slot 400
    else rcAnswer (modRc s rack fun r => { r with req := mset r.req slot watts }) rack "PowerLimitPkg" slot 200)

/-- What the shelves can supply, in W. -/
def supply (s : State) (rack : Nat) : Nat :=
  (List.range 4).foldl (fun n i => n + 6600 * min 5 ((tcOf s (rack * 30 + 25 + i)).psuHealthy.filter id).length) 0

/-- The package of a slot is ready, degraded or holding, and its position not absent, failed or held. -/
def takesCap (s : State) (rack slot : Nat) : Bool :=
  let k := rack * 64 + slot
  let at' := tcOfElem (.pkg k)
  let x := posOf s at'.1 at'.2
  x.present && !x.resetHeld && x.porstHolds.isEmpty && !(pkgOf s k).dies.outOfService
    && (decide ((pkgOf s k).base.kin.phase = .running) || decide ((pkgOf s k).base.kin.phase = .held))

/-- The cap of a request under a level. -/
def capUnder (level req : Nat) : Nat := max 400 (min req level)

/-- The largest whole watt whose caps fit; no request exceeds 1,600 W. -/
def capLevel (avail : Nat) (reqs : List Nat) : Nat :=
  (((List.range 1601).reverse).find? fun l => decide ((reqs.map (capUnder l)).foldl (· + ·) 0 ≤ avail)).getD 0

/-- CAP_COMPUTATION: lowered caps are sent at once, raised ones kept for CAP_RAISE. `overhead` is the mean non-package input,
to which 5 % are added, rounded up. -/
def capComputation (rack overhead : Nat) (s : State) : State :=
  let r := rcOf s rack
  let avail := min r.setPoint (supply s rack) - (overhead * 105 + 99) / 100
  let slots := (List.range 64).filter (takesCap s rack)
  let reqs := slots.map fun i => (i, mget 1600 r.req i)
  let short := decide (avail < 400 * slots.length)
  let level := if short then 400 else capLevel avail (reqs.map fun x => x.2)
  let caps := reqs.map fun x => (x.1, if short then 400 else capUnder level x.2)
  let before := fun (i : Nat) => mget 0 r.capSent i
  let lowered := caps.filter fun x => decide (x.2 < before x.1)
  let raised := caps.filter fun x => decide (before x.1 < x.2)
  let s := modRc s rack fun r =>
    { r with capSent := lowered.foldl (fun m x => mset m x.1 x.2) r.capSent, capRaise := raised }
  if short then report s rack "PowerShortfall" rack else s

/-- CAP_COMPUTATION: a rack controller that is lost sends none, and each hub holds its last cap (R21, R391). -/
def execCapComputation (rack overhead : Nat) (s : State) : Res :=
  .next (if (rcOf s rack).lost then s else capComputation rack overhead s)

/-- CAP_RAISE: the raised caps are sent (R392). -/
def execCapRaise (rack : Nat) (s : State) : Res :=
  onRc rack (fun r => { r with capSent := r.capRaise.foldl (fun m x => mset m x.1 x.2) r.capSent, capRaise := [] }) s

/-- BRAKE_ASSERT of a package: the rack's one line has gone low, which the rack controller reports (R354, R355, R390). -/
def execBrakeAssert (p : Nat) (s : State) : Res :=
  .next (let s := setPkg s p { brakeAssert (pkgOf s p) with mem := (pkgOf s p).mem }
    let r := rcOf s (p / 64)
    if r.brakeAt.isSome then s
    else report (modRc s (p / 64) fun r => { r with brakeAt := some r.time.now }) (p / 64) "Brake" (p / 64))

/-- BRAKE_RELEASE: switch, shelf and management trays log the assertion and its length (R355, R381, R392). -/
def execBrakeRelease (p : Nat) (s : State) : Res :=
  .next (let s := setPkg s p { brakeRelease (pkgOf s p) with mem := (pkgOf s p).mem }
    let r := rcOf s (p / 64)
    match r.brakeAt with
    | none => s
    | some t =>
      let s := modRc s (p / 64) fun r => { r with brakeAt := none }
      (List.range 14).foldl (fun s i => logTc s (p / 64 * 30 + 16 + i) 0 1 0x0041 (le 4 ((r.time.now - t) / 1000))) s)

/-! ## Actions on packages (R377, R378, R389) -/

/-- RESET_PACKAGE: the hold and the count are cleared, and RESET_N is pulsed. -/
def resetPackage (rack slot : Nat) (s : State) : State :=
  let e := Elem.pkg (rack * 64 + slot)
  let at' := tcOfElem e
  let s := if (posOf s at'.1 at'.2).resetHeld then freeReset s e else s
  let s := modPos s at'.1 at'.2 fun x =>
    { x with resetHeld := false, packageFailed := false, attempts := [], attemptRunning := false, hbSeen := false }
  rcAnswer (pulseReset (logAt s at'.1 at'.2 1 0x0012 (le 1 4 ++ le 1 0)) e) rack "ResetPackage" slot 200

/-- RESET_PACKAGE (R389). -/
def execResetPackage (rack slot : Nat) (s : State) : Res :=
  .next (if 64 ≤ slot then rcAnswer s rack "ResetPackage" slot 400 else resetPackage rack slot s)

/-- CLEAR_FAULT: a leak's or flow loss's hold ends, and the hourly limit of trips (R365, R377). -/
def clearFault (rack : Nat) (t : Tray) (s : State) : State :=
  let tc := trayTc rack t
  let s := leaveCond (leaveCond s tc 4) tc 5
  let s := eachPos s tc fun s pos =>
    modPos (releasePorst (releasePorst s tc 2 pos) tc 3 pos) tc pos fun x => { x with tripAt := none, tripWaitsClear := false }
  modCool s tc fun c => { c with valveOpen := false, isolationClosed := false }

/-- CLEAR_FAULT (R389). -/
def execClearFault (rack : Nat) (tray : Tray) (s : State) : Res :=
  .next (if trayThere rack tray then rcAnswer (clearFault rack tray s) rack "ClearFault" (trayNo tray) 200
    else rcAnswer s rack "ClearFault" (trayNo tray) 400)

/-! ## Removal (R393, R396, R397) -/

/-- Why PrepareRemoval is refused: 409 while a change runs, another tray is swapped or a rack controller of the span is lost (R21), 400 for a tray that is not there or not
in service; a removal whose epoch change failed may be asked for again (log 76). 200 where it is accepted. -/
def removalAnswer (s : State) (rack : Nat) (t : Tray) : Nat :=
  if !trayThere rack t then 400
  else if changing s || swappingOther s rack t || controllersLost s then 409
  else if trayState s rack (trayNo t) = .inService then 200
  else if trayState s rack (trayNo t) = .draining then (if ((rcOf s rack).swap.map fun x => x.2) = some 2 then 409 else 200)
  else 400

/-- The bytes of a STRIKE command of REACH 0b100 (R265). -/
def spanStrikeCmd (pitch : Nat) : Bytes := le 1 0x14 ++ le 1 0 ++ le 2 pitch ++ zeros 4 ++ le 1 4 ++ zeros 23

/-- Every pitch that a package hosts is struck across the span, over the MSP (R396 step 2). -/
def strikeHosted (s : State) (k : Nat) : State :=
  ((pkgOf s k).hub.hosted.map fun e => e.1).foldl (fun s q => modPkg s k fun p => strikeCommand p .msp (spanStrikeCmd q)) s

/-- Step 1 of a removal. -/
def beginRemoval (s : State) (rack : Nat) (t : Tray) (step : Nat) : State :=
  let s := setTray (logStep s (trayTc rack t) 1) rack (trayNo t) .draining
  modRc s rack fun r => { r with swap := some (t, step), attested := r.attested.filter (· ≠ trayNo t) }

/-- Steps 1 to 3 of a compute tray's removal. -/
def removeCompute (rack c : Nat) (s : State) : State :=
  let tc := trayTc rack (.compute c)
  let slots := (List.range 4).map fun i => 4 * c + i
  let s := slots.foldl (fun s d => report s rack "PlaneDrainRequested" d) (beginRemoval s rack (.compute c) 3)
  let s := slots.foldl (fun s d => strikeHosted s (rack * 64 + d)) (logStep s tc 2)
  askChange (logStep s tc 3) (slots.map fun d => Edit.valid (rack * 64 + d) false) (.removed rack (.compute c))

/-- PREPARE_REMOVAL_COMPUTE (R396). -/
def execPrepareRemovalCompute (rack c : Nat) (s : State) : Res :=
  .next (let code := removalAnswer s rack (.compute c)
    let s := rcAnswer s rack "PrepareRemoval" c code
    if code = 200 then removeCompute rack c s else s)

/-- PREPARE_REMOVAL_SWITCH: step 1, and the wait of step 2 begins (R397). -/
def execPrepareRemovalSwitch (rack n : Nat) (s : State) : Res :=
  .next (let t := Tray.switch n
    let code := removalAnswer s rack t
    let s := rcAnswer s rack "PrepareRemoval" (trayNo t) code
    if code = 200 then logStep (drainPlanes (beginRemoval s rack t 2) n true) (trayTc rack t) 2 else s)

/-- Step 3 of a switch tray's removal, where step 2 waits. -/
def afterDrain (rack : Nat) (s : State) : State :=
  match (rcOf s rack).swap with
  | some (.switch n, 2) =>
    let s := modRc s rack fun r => { r with swap := some (.switch n, 3) }
    askChange (logStep s (trayTc rack (.switch n)) 3) [.planeOff (2 * n), .planeOff (2 * n + 1)] (.removed rack (.switch n))
  | _ => s

/-- Every PLANE_ORD count of the planes being drained reads 0 on every package of the span. -/
def planesDrained (s : State) (rack : Nat) : Bool :=
  match (rcOf s rack).swap with
  | some (.switch n, 2) => s.pkgs.all fun e =>
      !s.spanRacks.contains (e.1 / 64) || (decide (planeOrd e.2 (2 * n) = 0) && decide (planeOrd e.2 (2 * n + 1) = 0))
  | _ => false

/-- PLANES_DRAINED (R397). -/
def execPlanesDrained (rack : Nat) (s : State) : Res := .next (if planesDrained s rack then afterDrain rack s else s)

/-- DRAIN_WAIT_EXPIRE (R397). -/
def execDrainWaitExpire (rack : Nat) (s : State) : Res := .next (afterDrain rack s)

/-! ## Return (R398) -/

/-- The part that stands at a position after an insertion: the same one, or one of another serial, as new and held by PORST_N. -/
def seatElem (s : State) (tc pos serial : Nat) : State :=
  match elemAt tc pos with
  | none => s
  | some e =>
    if serialOf (baseOf s e) = serial then s
    else
      let held : PowerIn := { ({} : PowerIn) with porst := !(posOf s tc pos).porstHolds.isEmpty }
      match e with
      | .pkg k =>
        let p := ((Package.reset k).wr (pg 3 1 + Off.ID_SERIAL_LO) serial).wr (pg 3 1 + Off.ID_SERIAL_HI) (serial / 2 ^ 32)
        setPkg s k (p.mapBase fun b => { b with pwr := held })
      | .weir k => setWeir s k { Weir.reset k with base := { (Weir.reset k).base with serial := serial % 2 ^ 64, pwr := held } }

/-- A position of a tray that has been inserted: its part, its blob's serial, no trace of the part before. -/
def insertPos (tc : Nat) (serials : List Nat) (s : State) (pos : Nat) : State :=
  match serials[pos]? with
  | none => modPos s tc pos fun x => { x with present := false }
  | some serial =>
    let s := modPos (seatElem s tc pos serial) tc pos fun x =>
      { x with present := true, resetHeld := false, packageFailed := false, attempts := [], attemptRunning := false, hbSeen := false
               tripAt := none, tripWaitsClear := false, lastRseq := 0, notice := none }
    takeSerial s tc pos serial

/-- TRAY_INSERTED: the blobs are built, the valve opens, the 48 V switch closes, PORST_N is released. -/
def trayInserted (rack : Nat) (t : Tray) (serials : List Nat) (s : State) : State :=
  let tc := trayTc rack t
  let st := trayState s rack (trayNo t)
  if !trayThere rack t ∨ (st ≠ .readyForRemoval ∧ st ≠ .absent) then s
  else
    let s := modRc (setTray s rack (trayNo t) .inserted) rack fun r => { r with attested := r.attested.filter (· ≠ trayNo t) }
    let s := eachPos s tc (insertPos tc serials)
    let s := modTc s tc fun t => { t with hotSwitchOpen := false, led := false, cool := { t.cool with isolationClosed := false } }
    let s := eachPos s tc fun s pos => releasePorst s tc 4 pos
    report s rack "WiringAttestationRequired" (trayNo t)

/-- TRAY_INSERTED (R398). -/
def execTrayInserted (rack : Nat) (tray : Tray) (serials : List Nat) (s : State) : Res := .next (trayInserted rack tray serials s)

/-- Both ends of a port's link are ACTIVE. -/
def linkActive (s : State) (e : Elem) (q : Nat) : Bool :=
  let far := farEnd s e q
  portUp (baseOf s e) q && portUp (baseOf s far.1) far.2

/-- The changes that put a package's links into PLANE_MASK: only those that are ACTIVE (R456). -/
def planeEdits (s : State) (ports : List (Elem × Nat)) : List Edit :=
  ports.filterMap fun x =>
    if !linkActive s x.1 x.2 then none
    else match x.1 with
      | .pkg k => some (.plane k x.2 true)
      | .weir k => if x.2 < 64 then some (.plane (k / 18 * 64 + x.2) (k % 18) true) else none

/-- The changes that ReturnToService asks for: a compute tray's slots, a switch tray's planes. -/
def returnEdits (s : State) (rack : Nat) (t : Tray) : List Edit :=
  (match t with
    | .compute c => (List.range 4).map fun i => Edit.valid (rack * 64 + 4 * c + i) true
    | .switch _ => []) ++ planeEdits s (ownPorts rack t)

/-- RETURN_TO_SERVICE: accepted only after attestation, while nothing else changes the span. -/
def execReturnToService (rack : Nat) (tray : Tray) (s : State) : Res :=
  .next (let n := trayNo tray
    let code :=
      if !trayThere rack tray ∨ trayState s rack n ≠ .inserted then 400
      else if changing s || swappingOther s rack tray || controllersLost s || !(rcOf s rack).attested.contains n then 409
      else 200
    let s := rcAnswer s rack "ReturnToService" n code
    if code = 200 then askChange s (returnEdits s rack tray) (.returned rack tray) else s)

/-! ## A tray lost (R399) -/

/-- The tray of a controller number; none for a shelf and the management tray. -/
def trayOf (n : Nat) : Option Tray := if n < 16 then some (.compute n) else if n < 25 then some (.switch (n - 16)) else none

/-- TC_CONTACT_LOSS, where no port that faces the tray is ACTIVE. -/
def tcContactLoss (rack n : Nat) (s : State) : State :=
  match trayOf n with
  | none => s
  | some t =>
    if (facingPorts s rack t).any fun x => portUp (baseOf s x.1) x.2 then s
    else
      let s := report (setTray s rack n .absent) rack "TrayLost" n
      let s := modRc s rack fun r => { r with swap := match r.swap with
        | some (u, k) => if u = t then some (u, 0) else some (u, k)
        | none => none }
      match t with
      | .compute c => askChange s ((List.range 4).map fun i => Edit.valid (rack * 64 + 4 * c + i) false) (.lost rack t)
      | .switch k =>
        askChange (modRc s rack fun r => { r with degraded := true }) [.planeOff (2 * k), .planeOff (2 * k + 1)] (.lost rack t)

/-- TC_CONTACT_LOSS (R399). Contact with the management tray's own controller goes with the management Ethernet, and the rack controller
counts as lost (R21; log 167). -/
def execTcContactLoss (rack tc : Nat) (s : State) : Res :=
  .next (if tc = 29 then modRc s rack fun r => { r with lost := true } else tcContactLoss rack tc s)

/-! ## EXPECT and wiring attestation (R192, R453–R456) -/

/-- EXPECT of a package's port, written by a source: the serial, then PORT and VALID. -/
def expectPkg (src : Src) (q serial partner : Nat) (valid : Bool) (free : Nat) (p : Package) : Package :=
  let a := portPage q
  let p := (csWrite free p src (a + Off.EXPECT_SERIAL_LO) 4 serial).1
  let p := (csWrite free p src (a + Off.EXPECT_SERIAL_HI) 4 (serial / 2 ^ 32)).1
  (csWrite free p src (a + Off.EXPECT_CTL) 4 (partner % 2 ^ 8 + b2n valid * 2 ^ 8)).1

/-- EXPECT of a Weir's port. -/
def expectWeir (q serial partner : Nat) (valid : Bool) (w : Weir) : Weir :=
  let a := portReg w.base q
  weirSet (a Off.EXPECT_CTL) (partner % 2 ^ 8 + b2n valid * 2 ^ 8)
    (weirSet (a Off.EXPECT_SERIAL_HI) (serial / 2 ^ 32) (weirSet (a Off.EXPECT_SERIAL_LO) serial w))

/-- EXPECT_WRITE (R192). -/
def execExpectWrite (e : Elem) (src : Src) (port serial partner : Nat) (valid : Bool) (s : State) : Res :=
  match e with
  | .pkg k => onPkgFree k (fun free p => if port < 18 then expectPkg src port serial partner valid free p else p) s
  | .weir k => onWeir k (fun w => if port < 72 then expectWeir port serial partner valid w else w) s

/-- The rack controller writes EXPECT of a port through the CS window, and into the blob's section 5 (R380, R455). -/
def attestEnd (s : State) (e : Elem) (q serial partner : Nat) : State :=
  let s := match e with
    | .pkg k =>
      let a := portPage q
      tcWrite (tcWrite (tcWrite s k (a + Off.EXPECT_SERIAL_LO) serial) k (a + Off.EXPECT_SERIAL_HI) (serial / 2 ^ 32)) k
        (a + Off.EXPECT_CTL) (partner % 2 ^ 8 + 2 ^ 8)
    | .weir k =>
      let a := portReg (weirOf s k).base q
      tcWeirWrite (tcWeirWrite (tcWeirWrite s k (a Off.EXPECT_SERIAL_LO) serial) k (a Off.EXPECT_SERIAL_HI) (serial / 2 ^ 32)) k
        (a Off.EXPECT_CTL) (partner % 2 ^ 8 + 2 ^ 8)
  let at' := tcOfElem e
  modPos s at'.1 at'.2 fun x =>
    { x with expects := mergeEntries 12 1 x.expects (le 1 q ++ le 1 partner ++ zeros 2 ++ le 8 serial) }

/-- Both ends of a link: this one expects the partner its report names, the other this one. -/
def attestLink (s : State) (x : Elem × Nat) : State :=
  let b := baseOf s x.1
  let far := farEnd s x.1 x.2
  attestEnd (attestEnd s x.1 x.2 (partnerSerial b x.2) (partnerPort b x.2)) far.1 far.2 (serialOf b) x.2

/-- The tray's ports that attestation includes: those UP_UNATTESTED or ACTIVE. -/
def includedPorts (s : State) (rack : Nat) (t : Tray) : List (Elem × Nat) :=
  (ownPorts rack t).filter fun x => [6, 7].contains (portState (baseOf s x.1) x.2)

/-- What AttestWiring answers (R389, R454). The tray being swapped may be attested once it is inserted (log 77). -/
def attestAnswer (s : State) (rack : Nat) (t : Tray) (ports : Nat) : Nat :=
  if !trayThere rack t then 400
  else if changing s || removing s then 409
  else if (ownPorts rack t).any fun x => [1, 2, 3, 4, 5, 10].contains (portState (baseOf s x.1) x.2) then 409
  else if ports ≠ (includedPorts s rack t).length then 409
  else 200

/-- An accepted AttestWiring (R455, R456). -/
def attestTray (s : State) (rack : Nat) (t : Tray) (ports : Nat) : State :=
  let inc := includedPorts s rack t
  let s := inc.foldl attestLink s
  let touched := dedup (trayTc rack t :: inc.map fun x => (tcOfElem (farEnd s x.1 x.2).1).1)
  let s := touched.foldl (fun s tc => logTc s tc 0 0 0x0070 (le 1 0 ++ le 4 ports)) s
  let s := modRc s rack fun r => { r with attested := dedup (r.attested ++ [trayNo t]) }
  let s := rcAnswer s rack "AttestWiring" (Config.attestCode s.free % 1000000) 200
  askChange { s with free := s.free + 1 } (planeEdits s inc) .nothing

/-- ATTEST_WIRING (R455). -/
def execAttestWiring (rack : Nat) (tray : Tray) (ports : Nat) (s : State) : Res :=
  .next (let code := attestAnswer s rack tray ports
    if code = 200 then attestTray s rack tray ports else rcAnswer s rack "AttestWiring" (trayNo tray) code)

/-! ## Span attestation (R4, R18, R457) -/

/-- The racks of each shape of R4. -/
def shapes : List (List Nat) := [[0], [0, 1], [0, 1, 4, 5], List.range 8, List.range 16]

/-- An identified partner of an up-port is in another rack than the one R165 names. -/
def upWrong (s : State) (k q : Nat) : Bool :=
  let w := rd (weirOf s k).base (portReg (weirOf s k).base q Off.PARTNER_ID)
  decide (fld w 7 0 ≠ 0) && decide (fld w 19 16 ≠ neighbour s (k / 18) (q - 64))

/-- The listed Weirs of some racks. -/
def weirsIn (s : State) (racks : List Nat) : List Nat := (s.weirs.map fun e => e.1).filter fun k => racks.contains (k / 18)

/-- The racks that coordinates name, and whether the span may be made of them: a shape of R4, no coordinate twice, and up-ports that lead
where R165 says (R457). -/
def spanOf (coords : List (Nat × Nat)) : List Nat := coords.map fun c => c.1 + 4 * c.2
def spanOk (s : State) (coords : List (Nat × Nat)) : Bool :=
  let racks := spanOf coords
  let ordered := (List.range 16).filter racks.contains
  coords.all (fun c => decide (c.1 < 4 ∧ c.2 < 4)) && decide (dedup racks = racks) && shapes.contains ordered
    && !((weirsIn s racks).any fun k => (cabledUps { s with spanRacks := ordered }).any (upWrong { s with spanRacks := ordered } k))

/-- Racks whose attestation is refused run as separate machines: they are in no span, and their up-ports are disabled (R4). The span that
the model follows is then rack 0's (log 168). -/
def separate (s : State) (racks : List Nat) : State :=
  let left := s.spanRacks.filter fun r => !racks.contains r
  let s := { s with spanRacks := if left.contains 0 then left else [0] }
  (weirsIn s racks).foldl (fun s k => (List.range 8).foldl (fun s i => setPort false s (.weir k, 64 + i)) s) s

/-- A Weir takes its coordinate, and EXPECT of its up-ports whose partner has been identified. -/
def attestWeir (s : State) (k : Nat) : State :=
  let r := k / 18
  let s := tcWeirWrite s k 0x1000C (r + (shapeCodes s).1 * 2 ^ 4 + (shapeCodes s).2 * 2 ^ 6 + 2 ^ 8)
  let b := (weirOf s k).base
  let ups := (cabledUps s).filter fun q => decide (rdF b (portReg b q Off.PARTNER_ID) 7 0 ≠ 0)
  ups.foldl (fun s q => attestEnd s (.weir k) q (partnerSerial b q) (partnerPort b q)) s

/-- ATTEST_SPAN (R457). Section 1 of every blob follows from the span's racks. -/
def execAttestSpan (coords : List (Nat × Nat)) (s : State) : Res :=
  .next (if changing s || removing s || controllersLost s then rcAnswer s 0 "AttestSpan" coords.length 409
    else if !spanOk s coords then separate (rcAnswer s 0 "AttestSpan" coords.length 409) (spanOf coords)
    else
      let racks := (List.range 16).filter (spanOf coords).contains
      let s := { s with spanRacks := racks }
      let s := (weirsIn s racks).foldl attestWeir s
      askChange (rcAnswer s 0 "AttestSpan" coords.length 200) [] (.spanned racks))

/-! ## Return seal (R460) -/

/-- Why ReturnSeal is refused. -/
def sealAnswer (s : State) (rack slot reason ref : Nat) : Nat :=
  let k := rack * 64 + slot
  let at' := tcOfElem (.pkg k)
  let x := posOf s at'.1 at'.2
  let p := pkgOf s k
  if 16 ≤ rack ∨ 64 ≤ slot ∨ reason = 0 ∨ 255 < reason ∨ 65535 < ref then 400
  else if !x.present || p.base.pwr.asserted || !x.porstHolds.isEmpty || !hubRuns p.base then 409
  else if isSealed p || changing s || removing s then 409
  else 200

/-- RETURN_SEAL: once accepted, the tray controller writes SEAL_CTL with GO (R460, R461). -/
def execReturnSeal (rack slot reason ref : Nat) (s : State) : Res :=
  .next (let code := sealAnswer s rack slot reason ref
    let s := rcAnswer s rack "ReturnSeal" slot code
    if code = 200 then tcWrite s (rack * 64 + slot) (hubPage 4 + Off.SEAL_CTL) (1 + reason * 2 ^ 8 + ref * 2 ^ 16) else s)

/-- The words of a page's own registers. -/
def pageWords (p : Package) (a : Nat) : Bytes :=
  match pageKind p.hubL1 (clsOf a) (instOf a) with
  | none => []
  | some k => k.rows.flatMap fun r => (List.range r.n).flatMap fun i => le 4 (p.rd (a + r.off + r.stride * i))

/-- The saturating error counters of a page kind (R85, R119, R181, R201, R231). -/
def PKind.errCounters : PKind → List Nat
  | .tile0 => [Off.SRAM_CE_CNT, Off.SRAM_UE_CNT]
  | .memStack => [Off.DRAM_CE_CNT, Off.DRAM_UE_CNT]
  | .link1 => [Off.PARSE_DEEP_CNT, Off.PARSE_POISON_CNT]
  | .rma => [Off.RETRANS_CNT, Off.DUP_CNT, Off.OOO_CNT, Off.HALVE_CNT, Off.BROKEN_CNT]
  | .port => [Off.UNCORR_CW, Off.REPLAY_CNT, Off.DOWN_CNT, Off.HOLD_EXPIRED_CNT, Off.TRAIN_FAIL_CNT, Off.REROUTED_CNT,
      Off.ORDERED_FAILED_CNT, Off.FEC_CORR_SYM]
  | _ => []

/-- The error counters of a page. -/
def counterWords (p : Package) (a : Nat) : Bytes :=
  match pageKind p.hubL1 (clsOf a) (instOf a) with
  | none => []
  | some k => k.errCounters.flatMap fun o => le 4 (p.rd (a + o))

/-- The parts of the seal bundle before its trailer, in the order of R460; the layout within a part is the model's (log 78). -/
def bundleBody (p : Package) : Bytes :=
  let w := fun (a : Nat) => le 4 (p.rd a)
  let ctl := p.rd (hubPage 4 + Off.SEAL_CTL)
  let head := w (pg 3 1 + Off.ID_SERIAL_LO) ++ w (pg 3 1 + Off.ID_SERIAL_HI) ++ w (pg 3 1 + Off.ID_PART) ++ le 2 (fld ctl 15 8)
    ++ le 2 (fld ctl 31 16) ++ le 8 p.base.gtime ++ w (em Off.RESET_COUNT)
  let tiles := List.range p.tiles
  let ports := List.range 18
  (head ++ zeros 64).take 64
    ++ w (em Off.LAST_CAUSE) ++ w (em Off.LAST_UPTIME) ++ w (em Off.GLITCH_CNT) ++ w (em Off.EMBER_STAT)
    ++ (classPages p 3).flatMap (pageWords p) ++ w (kindlePage + Off.KINDLE_STAT) ++ w (kindlePage + Off.BRINGUP_STAT)
    ++ w (hubPage 1 + Off.LTILE_MAP) ++ w (hubPage 1 + Off.LTILE_MAP + 4)
    ++ tiles.flatMap (fun t => w (tilePage t 0 + Off.ME_MAP) ++ w (tilePage t 0 + Off.ME_HOLLOW))
    ++ (List.range 8).flatMap (fun i => w (stackPage i + Off.STACK_STAT))
    ++ tiles.flatMap (fun t => w (tilePage t 3 + Off.REPAIR_SUM))
    ++ (tiles.flatMap (fun t => classPages p (0x10 + t)) ++ [0x20, 0x21, 0x22, 0x23].flatMap (classPages p)).flatMap (counterWords p)
    ++ ports.flatMap (fun q => w (portPage q + Off.PORT_STAT)
        ++ (List.range 5).flatMap (fun i => w (portPage q + Off.PARTNER_ID + 4 * i)) ++ w (portPage q + Off.TRAIN_TIME))
    ++ (List.range 4096).flatMap (fun i => ((p.hub.ring[i]?).map fun r => r.2).getD (zeros 32))
    ++ w (hubPage 3 + Off.RING_HEAD) ++ w (hubPage 3 + Off.RING_OVERWRITTEN)

/-- The bundle with its trailer: digest and signature. -/
def sealBundle (p : Package) : Bytes :=
  let body := bundleBody p
  body ++ (List.range 48).map (Config.digestByte body) ++ (List.range 96).map (Config.signatureByte body)

/-- SEAL_BUNDLE_READY: STATE becomes 3, and the tray controller stores the bundle with its log (R460). -/
def execSealBundleReady (p : Nat) (s : State) : Res :=
  .next (let x := pkgOf s p
    if sealState x ≠ 2 then s
    else
      let b := sealBundle x
      let at' := tcOfElem (.pkg p)
      let s := modPkg s p fun x =>
        let x := (x.wrF (hubPage 4 + Off.SEAL_STAT) 2 0 3).wrF (hubPage 4 + Off.SEAL_STAT) 31 16 ((b.length + 1023) / 1024)
        { x with sealed := { x.sealed with bundle := b } }
      modTc s at'.1 fun t => { t with bundles := mset t.bundles at'.2 b })

end Sys2Proof.Machine
end

