-- ==== Sys2Proof/Machine/Sideband.lean ====
section
/-! DEFINITION. A tray controller's sideband segments and its Ethernet MAC (R413–R420). -/

namespace Sys2Proof.Machine

/-! ## PMBus and SMBus (R414, R415) -/

/-- One PSU's reading: its health, or the loss of its readings, after which its last health stands. -/
def psuReading (t : TrayCtl) (i : Nat) (r : Option Bool) : TrayCtl :=
  match r with
  | some b => { t with psuHealthy := setNth t.psuHealthy i b, psuLost := t.psuLost.filter (· ≠ i) }
  | none => if t.psuLost.contains i then t else { t with psuLost := t.psuLost ++ [i] }

/-- PMBUS_POLL of a power shelf; a stuck segment P gives no reading. On other trays segment P holds no PSU. -/
def pmbusPoll (tc : Nat) (healthy : List (Option Bool)) (t : TrayCtl) : TrayCtl :=
  if !isShelf tc then t
  else
    let stuck := (mget {} t.segs 2).stuck
    (List.range 6).foldl (fun t i => psuReading t i (if stuck then none else nth none healthy i)) t

/-- PMBUS_POLL (R415). -/
def execPmbusPoll (tc : Nat) (healthy : List (Option Bool)) (s : State) : Res := onTc tc (pmbusPoll tc healthy) s

/-- PSU_READING_STALE: a PSU whose readings stay lost counts as unhealthy (R415). -/
def execPsuReadingStale (tc psu : Nat) (s : State) : Res :=
  onTc tc (fun t => if t.psuLost.contains psu then { t with psuHealthy := setNth t.psuHealthy psu false } else t) s

/-- SMBALERT_POLL (R414). -/
def execSmbalertPoll (tc : Nat) (asserted : Bool) (s : State) : Res := onTc tc (fun t => { t with smbalert := asserted }) s

/-! ## Stuck bus recovery (R416) -/

/-- A segment, and it replaced. -/
def segOf (t : TrayCtl) (i : Nat) : Segment := mget {} t.segs i
def setSeg (t : TrayCtl) (i : Nat) (g : Segment) : TrayCtl := { t with segs := mset t.segs i g }

/-- The record of a recovery: segment, stage, clocks sent, last address. -/
def logRecovery (i stage : Nat) (t : TrayCtl) : TrayCtl :=
  let g := segOf t i
  logRecord 0 1 0x0080 (le 1 i ++ le 1 stage ++ le 1 g.clocks ++ le 1 g.lastAddr) t

/-- Stages 1 to 3: `freeAfter` clocks free SDA, if any number does; with SCL low no clock is sent, and a STOP frees the bus or
does not. -/
def busRecovery (i : Nat) (sdaLow sclLow : Bool) (freeAfter : Option Nat) (lastAddr : Nat) (t : TrayCtl) : TrayCtl :=
  let g := { segOf t i with lastAddr := lastAddr, sda := sdaLow, scl := sclLow }
  let freed := fun (stage clocks : Nat) =>
    logRecovery i stage (setSeg t i { g with stage := 0, clocks := clocks, stuck := false, sda := false, scl := false })
  let cycle := fun (clocks : Nat) => setSeg t i { g with stage := 3, clocks := clocks, isolatorOff := true }
  if 2 < i then t
  else if sclLow then (if freeAfter.isSome then freed 2 0 else cycle 0)
  else
    match freeAfter with
    | some n => if n ≤ 9 then freed 1 (max 1 n) else freed 2 9
    | none => cycle 9

/-- BUS_RECOVERY (R416). -/
def execBusRecovery (tc seg : Nat) (sdaLow sclLow : Bool) (freeAfter : Option Nat) (lastAddr : Nat) (s : State) : Res :=
  onTc tc (busRecovery seg sdaLow sclLow freeAfter lastAddr) s

/-- ISOLATOR_RESTORE: the isolator is on again, and the bus free or stuck; one recovery is logged once (R416). -/
def isolatorRestore (i : Nat) (free : Bool) (t : TrayCtl) : TrayCtl :=
  let g := segOf t i
  if !g.isolatorOff then t
  else
    let t' := setSeg t i (if free then { g with isolatorOff := false, stage := 0, stuck := false, sda := false, scl := false }
      else { g with isolatorOff := false, stage := 4, stuck := true })
    if g.stuck then t' else logRecovery i (if free then 3 else 4) t'

/-- ISOLATOR_RESTORE (R416). -/
def execIsolatorRestore (tc seg : Nat) (free : Bool) (s : State) : Res := onTc tc (isolatorRestore seg free) s

/-- BUS_STUCK_RETRY: a stuck segment's isolator is switched off again (R416). -/
def execBusStuckRetry (tc seg : Nat) (s : State) : Res :=
  onTc tc (fun t => if (segOf t seg).stuck then setSeg t seg { segOf t seg with isolatorOff := true } else t) s

/-- The six bytes of the port's MAC address: 0x02, then bits [39:0] of the tray controller's serial, the most significant byte first
(R417; log 187). -/
def macAddress (t : TrayCtl) : Bytes := le 1 2 ++ (le 5 t.serial).reverse

/-! ## The MAC: receiving (R417–R419) -/

/-- Descriptor `i` of a ring, counted round. -/
def descAt (ring : List MacDesc) (i : Nat) : MacDesc := nth {} ring (i % ring.length)

/-- A frame's bytes go into owned descriptors from `i` on, at most `n` of them: the ring, the descriptors used, the bytes left. -/
def fillRx : Nat → List MacDesc → Nat → Bytes → List Nat → List MacDesc × List Nat × Bytes
  | 0, ring, _, rest, used => (ring, used, rest)
  | n + 1, ring, i, rest, used =>
    let d := descAt ring i
    if rest.isEmpty || !d.own then (ring, used, rest)
    else
      let j := i % ring.length
      fillRx n (setNth ring j { d with buf := rest.take d.bufLen }) (i + 1) (rest.drop d.bufLen) (used ++ [j])

/-- A received frame's kind, from its two bytes after the addresses: VLAN tagged, PAUSE. -/
def etherType (frame : Bytes) : Nat := byteAt frame 12 * 2 ^ 8 + byteAt frame 13

/-- The descriptors of a good frame go back to software, FRAME_LEN and TIME_LO in the last (R418, R419). -/
def returnRx (ring : List MacDesc) (used : List Nat) (frame : Bytes) (now : Nat) : List MacDesc :=
  used.foldl (fun r j =>
    let last := decide (some j = used.getLast?)
    let d : MacDesc := { nth ({} : MacDesc) r j with
      own := false, first := decide (some j = used.head?), last := last, frameLen := if last then frame.length else 0
      vlan := decide (etherType frame = 0x8100), timeLo := if last then now % 2 ^ 32 else 0 }
    setNth r j d) ring

/-- MAC_RECEIVE: no buffer at the start or on the way, errors, PAUSE, and good frames (R417, R419). -/
def macReceive (frame : Bytes) (fcsOk : Bool) (t : TrayCtl) : TrayCtl :=
  let m := t.mac
  let up := fun (n : Nat) => satAdd 0xFFFFFFFF n 1
  if !m.linkUp then t
  else if m.rxRing.isEmpty || !(descAt m.rxRing m.rxHead).own then { t with mac := { m with rxNobufStart := up m.rxNobufStart } }
  else
    let (ring, used, rest) := fillRx m.rxRing.length m.rxRing m.rxHead frame []
    let m := { m with rxRing := ring }
    if !rest.isEmpty then { t with mac := { m with rxNobufMid := up m.rxNobufMid } }
    else if !fcsOk ∨ frame.length < 64 ∨ 1522 < frame.length then { t with mac := { m with rxErr := up m.rxErr } }
    else if etherType frame = 0x8808 then { t with mac := m }
    else { t with mac := { m with
      rxRing := returnRx ring used frame t.now, rxHead := (m.rxHead + used.length) % ring.length } }

/-- MAC_RECEIVE (R419). -/
def execMacReceive (tc : Nat) (frame : Bytes) (fcsOk : Bool) (s : State) : Res := onTc tc (macReceive frame fcsOk) s

/-! ## The MAC: sending (R420) -/

/-- What stands at the head of the transmit ring: nothing whole yet, a frame of `n` descriptors, or `n` malformed ones. -/
inductive TxFound where
  | waits
  | frame (n : Nat)
  | bad (n : Nat)
  deriving DecidableEq, Repr

/-- The descriptors from place `k` of a frame on, which began with FIRST or did not: it ends at LAST, and is malformed where a
FIRST comes before. -/
def scanTx (ring : List MacDesc) (head : Nat) (good : Bool) : Nat → Nat → TxFound
  | 0, _ => .waits
  | n + 1, k =>
    let d := descAt ring (head + k)
    if !d.own then .waits
    else if d.first && decide (k ≠ 0) then .bad k
    else if d.last then (if good then .frame (k + 1) else .bad (k + 1))
    else scanTx ring head good n (k + 1)

/-- `n` descriptors from the head are returned, sent or malformed; TIME_LO stands in the last. -/
def returnTx (m : Mac) (n : Nat) (ok : Bool) (now : Nat) : Mac :=
  let ring := (List.range n).foldl (fun r k =>
    let j := (m.txHead + k) % m.txRing.length
    let d : MacDesc := { nth ({} : MacDesc) r j with own := false, sent := ok, malformed := !ok }
    setNth r j (if ok ∧ k + 1 = n then { d with timeLo := now % 2 ^ 32 } else d)) m.txRing
  { m with txRing := ring, txHead := (m.txHead + n) % m.txRing.length }

/-- MAC_TRANSMIT: a whole frame starts while the link is up; a malformed one is returned and counted. -/
def macTransmit (t : TrayCtl) : TrayCtl :=
  let m := t.mac
  if m.txRing.isEmpty ∨ m.sending.isSome then t
  else
    match scanTx m.txRing m.txHead (descAt m.txRing m.txHead).first m.txRing.length 0 with
    | .waits => t
    | .frame n => if m.linkUp then { t with mac := { m with sending := some n } } else t
    | .bad n => { t with mac := { returnTx m n false t.now with txMalformed := satAdd 0xFFFFFFFF m.txMalformed 1 } }

/-- MAC_TRANSMIT (R420). -/
def execMacTransmit (tc : Nat) (s : State) : Res := onTc tc macTransmit s

/-- MAC_TRANSMIT_DONE: the frame has left the port (R420). -/
def execMacTransmitDone (tc : Nat) (s : State) : Res :=
  onTc tc (fun t => match t.mac.sending with
    | some n => { t with mac := { returnTx t.mac n true t.now with sending := none } }
    | none => t) s

end Sys2Proof.Machine
end

