-- ==== Sys2Proof/Machine/TimeRows.lean ====
section
/-! DEFINITION. Global time: timing frames, TIMESYNC edges, the loss of lock, the rack time master (R434–R442). -/

namespace Sys2Proof.Machine

/-- An offset corrects a clock: up to 1,000 ns it slews, a greater one steps it forward, a lesser one halves its rate until
it is aligned. The second value says that a step counts; half rate that already runs counts once (R438; log 68). -/
def correctTime (t : TimeSt) (o : Int) : TimeSt × Bool :=
  if t.half ≠ 0 ∧ o < 0 then ({ t with half := (-o).toNat, slew := 0 }, false)
  else if 1000 < o then ({ t with now := (t.now + o.toNat) % 2 ^ 64, slew := 0, half := 0 }, true)
  else if o < -1000 then ({ t with half := (-o).toNat, slew := 0 }, true)
  else ({ t with slew := o, half := 0 }, false)

/-- The nearest whole second of a time, in ns. -/
def nearestSecond (t : Nat) : Nat := (t + 500000000) / 1000000000 * 1000000000

/-- The clock of an element replaced. -/
def setTime (b : Base) (t : TimeSt) : Base := { b with time := t }

/-- A 32-bit fragment of global time, extended with a full time taken within 2^31 ns of the event it records (R433). -/
def extendTime (g f : Nat) : Nat :=
  let back := (g % 2 ^ 32 + 2 ^ 32 - f) % 2 ^ 32
  if back < 2 ^ 31 then g - back else g + (f + 2 ^ 32 - g % 2 ^ 32) % 2 ^ 32

/-! ## The package (R438–R442) -/

/-- A register of the ring page. -/
def rp (off : Nat) : Nat := hubPage 3 + off

/-- The lowest-numbered ACTIVE port (R438). -/
def sourcePort (b : Base) : Option Nat := (List.range 18).find? fun q => portUp b q

/-- The payload of a TYPE 4 record (R441). -/
def timePayload (kind port : Nat) (o : Int) : Bytes := le 1 kind ++ le 1 port ++ zeros 2 ++ le 8 (toTwos 64 o)

/-- A time record joins the ring. -/
def timeRecord (p : Package) (sev kind port : Nat) (o : Int) : Package :=
  let (p, overw) := ringAppend p 4 sev 0 (timePayload kind port o)
  if overw && !bitOf (p.rd (hubPage 3 + Off.EVT_STAT)) 2 then raise p (hubPage 3) 2 {} else p

/-- A package corrects its time by an offset, and shows it; a step is counted, raised and recorded (R438, R441, R442). -/
def pkgCorrect (p : Package) (o : Int) : Package :=
  let (t, stepped) := correctTime p.base.time o
  let p := p.mapBase fun b => setTime b t
  let p := p.wr (rp Off.TIME_OFFSET) (toTwos 32 (max (-(2 ^ 31 - 1)) (min (2 ^ 31 - 1) o)))
  if stepped then
    let p := p.mapBase fun b => bumpSat b (rp Off.TIME_STEPS) 1
    timeRecord (raise p (hubPage 3) 0 {}) 0 1 (p.rdF (rp Off.TIME_STAT) 12 8) o
  else p

/-- The source port of a package's time (R442). -/
def setSource (p : Package) (q : Nat) : Package :=
  let p := (p.wrF (rp Off.TIME_STAT) 12 8 q).wrF (rp Off.TIME_FLIGHT) 15 0 (min 0xFFFF (p.base.port q).flight)
  p.mapBase fun b => setTime b { b.time with source := q }

/-- A timing frame of the source port is taken (R438, R439). -/
def takeTiming (p : Package) (q tSend : Nat) : Package :=
  let o : Int := (tSend : Int) + ((p.base.port q).flight : Int) - (p.base.gtime : Int)
  let p := (setSource p q).wrF (rp Off.TIME_STAT) 0 0 1
  pkgCorrect (p.mapBase fun b => setTime b { b.time with lastRef := b.time.raw }) o

/-- A reply in Verify gives FLIGHT: half of the round trip less the Weir's turnaround (R437). -/
def takeReply (p : Package) (q tSend tRecv : Nat) : Package :=
  match (p.base.port q).timingT1 with
  | some t1 =>
    let d : Int := ((p.base.gtime : Int) - (t1 : Int) - ((tSend : Int) - (tRecv : Int))) / 2
    p.mapBase fun b => b.setPort q { b.port q with flight := d.toNat, timingT1 := none }
  | none => p

/-- TIMING_FRAME (R437, R438). -/
def timingFrame (p : Package) (q tSend tRecv : Nat) (reply : Bool) : Package :=
  if reply then (if (p.base.port q).phase = 5 then takeReply p q tSend tRecv else p)
  else if sourcePort p.base = some q then takeTiming p q tSend
  else p

/-- TIMING_FRAME (R438). -/
def execTimingFrame (p port tSend tRecv : Nat) (reply : Bool) (s : State) : Res :=
  onPkg p (fun x => timingFrame x port tSend tRecv reply) s

/-- The package is LOCKED (R439). -/
def pkgLocked (p : Package) : Bool := bitOf (p.rd (rp Off.TIME_STAT)) 0

/-- TIME_UNLOCK: another ACTIVE port becomes the source, or LOCKED clears and TIME_UNLOCKED is raised (R439, R440). -/
def timeUnlock (p : Package) : Package :=
  let last := p.rdF (rp Off.TIME_STAT) 12 8
  let lost := fun (p : Package) =>
    if pkgLocked p then timeRecord (raise (p.wrF (rp Off.TIME_STAT) 0 0 0) (hubPage 3) 1 { c2 := last }) 2 2 last 0 else p
  match sourcePort p.base with
  | some q => if q = last then lost p else setSource p q
  | none => lost p

/-- TIME_UNLOCK (R440). -/
def execTimeUnlock (p : Nat) (s : State) : Res := onPkg p timeUnlock s

/-- PACKAGE_TIMESYNC_EDGE: an unlocked package corrects to the nearest whole second of its own time (R440). -/
def execPackageTimesyncEdge (p : Nat) (s : State) : Res :=
  onPkg p (fun x => if pkgLocked x then x else pkgCorrect x ((nearestSecond x.base.gtime : Int) - (x.base.gtime : Int))) s

/-! ## The Weir (R436, R437) -/

/-- TIMING_FRAME_SEND: a frame leaves each ACTIVE down-port (R437). -/
def timingSend (w : Weir) : Weir :=
  (List.range 64).foldl (fun w q =>
    if portUp w.base q then w.mapBase fun b => b.setPort q ((b.port q).sendTiming
      { tSend := b.gtime, tRecv := 0, reply := false, locked := weirLocked b })
    else w) w

/-- TIMING_FRAME_SEND (R437). -/
def execTimingFrameSend (w : Nat) (s : State) : Res := onWeir w timingSend s

/-- A Weir corrects its time: its steps are counted, and its image reports each as a time record (R438; log 69). -/
def weirCorrect (b : Base) (o : Int) : Base :=
  let (t, stepped) := correctTime b.time o
  let b := setTime b t
  if stepped then
    let b := bumpF b 0x5000C 31 16
    sendTc b 0x06 (ringRecord 0 b.gtime 4 0 0 (timePayload 1 0 o))
  else b

/-- TIMESYNC_EDGE: WEIR_SECONDS that waits is loaded, else the nearest whole second corrects; the Weir is LOCKED (R436). -/
def timesyncEdge (b : Base) : Base :=
  let b := match b.time.secondsArmed with
    | some v => setTime b { b.time with now := v * 1000000000 % 2 ^ 64, secondsArmed := none, slew := 0, half := 0 }
    | none => weirCorrect b ((nearestSecond b.gtime : Int) - (b.gtime : Int))
  wrF (setTime b { b.time with lastRef := b.time.raw }) 0x5000C 0 0 1

/-- TIMESYNC_EDGE (R436). -/
def execTimesyncEdge (w : Nat) (s : State) : Res := onWeir w (fun w => w.mapBase timesyncEdge) s

/-- WEIR_TIME_UNLOCKED (R436). -/
def execWeirTimeUnlocked (w : Nat) (s : State) : Res := onWeir w (fun w => w.mapBase fun b => wrF b 0x5000C 0 0 0) s

/-! ## The rack time master (R435) -/

/-- An event of the rack controller's own log: 1 lock, 0 loss of lock. -/
def ownLog (r : RackCtl) (kind : Nat) : RackCtl := { r with ownLog := r.ownLog ++ [(r.time.now, kind)] }

/-- PTP_SYNC: the first lock steps, before any plane is enabled; afterwards the time master slews (R435). -/
def ptpSync (r : RackCtl) (o : Int) : RackCtl :=
  let r := if r.ptpLocked then r else ownLog { r with ptpLocked := true } 1
  if !r.firstLock && !r.planesEnabled then
    { r with firstLock := true, time := { r.time with now := ((r.time.now : Int) + o).toNat % 2 ^ 64, slew := 0 } }
  else { r with firstLock := true, time := { r.time with slew := o } }

/-- PTP_SYNC (R435). -/
def execPtpSync (rack : Nat) (offset : Int) (s : State) : Res := onRc rack (fun r => ptpSync r offset) s

/-- PTP_LOCK_LOSS: the time master runs on its own oscillator (R435). -/
def execPtpLockLoss (rack : Nat) (s : State) : Res :=
  onRc rack (fun r =>
    if r.ptpLocked then
      let r : RackCtl := { r with ptpLocked := false, time := { r.time with slew := 0 } }
      ownLog r 0
    else r) s

end Sys2Proof.Machine
end

