-- ==== Sys2Proof/Machine/Dispatch.lean ====
section
/-! DEFINITION. The dispatch: one arm per command. -/

namespace Sys2Proof.Machine

def exec (i : Instr) (s : State) : Host.Outcome State Fault Refusal :=
  match i with
  | .controlWrite p src off size val => Sys2Proof.Machine.execControlWrite p src off size val s
  | .controlSpacePacket p port pkt => Sys2Proof.Machine.execControlSpacePacket p port pkt s
  | .pageCtrlWrite p src page val => Sys2Proof.Machine.execPageCtrlWrite p src page val s
  | .evtStatClear p src page val => Sys2Proof.Machine.execEvtStatClear p src page val s
  | .evtForce p src page val => Sys2Proof.Machine.execEvtForce p src page val s
  | .strikeCtrlGo p src page val => Sys2Proof.Machine.execStrikeCtrlGo p src page val s
  | .strikeDrainDone p sid => Sys2Proof.Machine.execStrikeDrainDone p sid s
  | .strikeDrainAbandon p sid => Sys2Proof.Machine.execStrikeDrainAbandon p sid s
  | .strikeAbsorbDone p sid => Sys2Proof.Machine.execStrikeAbsorbDone p sid s
  | .spanStrikeMessage p rack slot pitch => Sys2Proof.Machine.execSpanStrikeMessage p rack slot pitch s
  | .spanStrikeAnswer p rack slot pitch => Sys2Proof.Machine.execSpanStrikeAnswer p rack slot pitch s
  | .spanStrikeResend p pitch => Sys2Proof.Machine.execSpanStrikeResend p pitch s
  | .spanStrikeTimeout p pitch => Sys2Proof.Machine.execSpanStrikeTimeout p pitch s
  | .latePeerResend p pitch => Sys2Proof.Machine.execLatePeerResend p pitch s
  | .setupUncommitResend p g => Sys2Proof.Machine.execSetupUncommitResend p g s
  | .pitchCreate p via cmd => Sys2Proof.Machine.execPitchCreate p via cmd s
  | .addTiles p via cmd => Sys2Proof.Machine.execAddTiles p via cmd s
  | .addDram p via cmd => Sys2Proof.Machine.execAddDram p via cmd s
  | .addFence p via cmd => Sys2Proof.Machine.execAddFence p via cmd s
  | .strike p via cmd => Sys2Proof.Machine.execStrike p via cmd s
  | .query p via cmd => Sys2Proof.Machine.execQuery p via cmd s
  | .pitchBadCommand p via cmd => Sys2Proof.Machine.execPitchBadCommand p via cmd s
  | .inputUndervoltage e => Sys2Proof.Machine.execInputUndervoltage e s
  | .undervoltageClear e => Sys2Proof.Machine.execUndervoltageClear e s
  | .inputOvervoltage e => Sys2Proof.Machine.execInputOvervoltage e s
  | .overvoltageClear e => Sys2Proof.Machine.execOvervoltageClear e s
  | .inrushLimitEnd e => Sys2Proof.Machine.execInrushLimitEnd e s
  | .railOutOfRegulation e => Sys2Proof.Machine.execRailOutOfRegulation e s
  | .railRegulated e => Sys2Proof.Machine.execRailRegulated e s
  | .emberColdStart e => Sys2Proof.Machine.execEmberColdStart e s
  | .powerOnRelease e => Sys2Proof.Machine.execPowerOnRelease e s
  | .resetPulseAccepted e pin => Sys2Proof.Machine.execResetPulseAccepted e pin s
  | .resetGlitch e pin => Sys2Proof.Machine.execResetGlitch e pin s
  | .resetPinRelease e pin => Sys2Proof.Machine.execResetPinRelease e pin s
  | .hubResetAck p => Sys2Proof.Machine.execHubResetAck p s
  | .resetEscalate p => Sys2Proof.Machine.execResetEscalate p s
  | .strapMeasurement p samples => Sys2Proof.Machine.execStrapMeasurement p samples s
  | .refclkPresent e => Sys2Proof.Machine.execRefclkPresent e s
  | .hubSelfTestDone e hub pass => Sys2Proof.Machine.execHubSelfTestDone e hub pass s
  | .imageRequestTimeout e => Sys2Proof.Machine.execImageRequestTimeout e s
  | .imageSlotRetry e => Sys2Proof.Machine.execImageSlotRetry e s
  | .blobRequestRetry e => Sys2Proof.Machine.execBlobRequestRetry e s
  | .bringupRelease p src => Sys2Proof.Machine.execBringupRelease p src s
  | .mspRelease p => Sys2Proof.Machine.execMspRelease p s
  | .bulkReset e => Sys2Proof.Machine.execBulkReset e s
  | .dieLinksTrained p results => Sys2Proof.Machine.execDieLinksTrained p results s
  | .tileTestDone p results => Sys2Proof.Machine.execTileTestDone p results s
  | .dramTrainingDone p trained full => Sys2Proof.Machine.execDramTrainingDone p trained full s
  | .portTrainingDone e => Sys2Proof.Machine.execPortTrainingDone e s
  | .imageReq tc pos => Sys2Proof.Machine.execImageReq tc pos s
  | .blobReq tc pos => Sys2Proof.Machine.execBlobReq tc pos s
  | .settingsReady tc pos => Sys2Proof.Machine.execSettingsReady tc pos s
  | .readyReport tc pos => Sys2Proof.Machine.execReadyReport tc pos s
  | .weirReadyReport tc pos => Sys2Proof.Machine.execWeirReadyReport tc pos s
  | .loadNoticeMessage tc pos => Sys2Proof.Machine.execLoadNoticeMessage tc pos s
  | .eventRecordCopy tc pos => Sys2Proof.Machine.execEventRecordCopy tc pos s
  | .pitchReply tc pos => Sys2Proof.Machine.execPitchReply tc pos s
  | .bulkDone e kind bytes => Sys2Proof.Machine.execBulkDone e kind bytes s
  | .bulkUnavailable e kind => Sys2Proof.Machine.execBulkUnavailable e kind s
  | .mspUnknownMessage e toTc type => Sys2Proof.Machine.execMspUnknownMessage e toTc type s
  | .mspRegisterRead e idx n => Sys2Proof.Machine.execMspRegisterRead e idx n s
  | .mspRegisterWrite e idx words => Sys2Proof.Machine.execMspRegisterWrite e idx words s
  | .mspRawWrite e cmd words => Sys2Proof.Machine.execMspRawWrite e cmd words s
  | .mspRawRead e cmd n => Sys2Proof.Machine.execMspRawRead e cmd n s
  | .mspSelectEnd e bits => Sys2Proof.Machine.execMspSelectEnd e bits s
  | .mspEdgeTimeout e => Sys2Proof.Machine.execMspEdgeTimeout e s
  | .mspErrClr e => Sys2Proof.Machine.execMspErrClr e s
  | .csGo e ctl => Sys2Proof.Machine.execCsGo e ctl s
  | .csTimeout e => Sys2Proof.Machine.execCsTimeout e s
  | .mspStatusPoll tc pos => Sys2Proof.Machine.execMspStatusPoll tc pos s
  | .flitReceive p die port flit => Sys2Proof.Machine.execFlitReceive p die port flit s
  | .flitReplayRequest p die port ack => Sys2Proof.Machine.execFlitReplayRequest p die port ack s
  | .moduleRetrainDone p die port module ok => Sys2Proof.Machine.execModuleRetrainDone p die port module ok s
  | .budgetTick p => Sys2Proof.Machine.execBudgetTick p s
  | .budgetMessage p die msg => Sys2Proof.Machine.execBudgetMessage p die msg s
  | .dieReport p report => Sys2Proof.Machine.execDieReport p report s
  | .budgetFallback p die => Sys2Proof.Machine.execBudgetFallback p die s
  | .diePowerSample p die power temp => Sys2Proof.Machine.execDiePowerSample p die power temp s
  | .dieSilent p die => Sys2Proof.Machine.execDieSilent p die s
  | .clkModeWrite p src val => Sys2Proof.Machine.execClkModeWrite p src val s
  | .modeChangeDone p => Sys2Proof.Machine.execModeChangeDone p s
  | .hopTailWrite p via t h val => Sys2Proof.Machine.execHopTailWrite p via t h val s
  | .hopRun p src t h val => Sys2Proof.Machine.execHopRun p src t h val s
  | .hopResume p src t h val => Sys2Proof.Machine.execHopResume p src t h val s
  | .descriptorFetch p ref => Sys2Proof.Machine.execDescriptorFetch p ref s
  | .descriptorIssue p ref => Sys2Proof.Machine.execDescriptorIssue p ref s
  | .nop p ref idx => Sys2Proof.Machine.execNop p ref idx s
  | .copy p ref idx => Sys2Proof.Machine.execCopy p ref idx s
  | .fill p ref idx => Sys2Proof.Machine.execFill p ref idx s
  | .matmul p ref idx => Sys2Proof.Machine.execMatmul p ref idx s
  | .vectorAdd p ref idx => Sys2Proof.Machine.execVectorAdd p ref idx s
  | .vectorMul p ref idx => Sys2Proof.Machine.execVectorMul p ref idx s
  | .axpy p ref idx => Sys2Proof.Machine.execAxpy p ref idx s
  | .vectorMax p ref idx => Sys2Proof.Machine.execVectorMax p ref idx s
  | .vectorMin p ref idx => Sys2Proof.Machine.execVectorMin p ref idx s
  | .expCmd p ref idx => Sys2Proof.Machine.execExpCmd p ref idx s
  | .recip p ref idx => Sys2Proof.Machine.execRecip p ref idx s
  | .rsqrt p ref idx => Sys2Proof.Machine.execRsqrt p ref idx s
  | .convert p ref idx => Sys2Proof.Machine.execConvert p ref idx s
  | .scale p ref idx => Sys2Proof.Machine.execScale p ref idx s
  | .attend p ref idx => Sys2Proof.Machine.execAttend p ref idx s
  | .rwrite p ref idx => Sys2Proof.Machine.execRwrite p ref idx s
  | .rread p ref idx => Sys2Proof.Machine.execRread p ref idx s
  | .allReduce p ref idx => Sys2Proof.Machine.execAllReduce p ref idx s
  | .reduceScatter p ref idx => Sys2Proof.Machine.execReduceScatter p ref idx s
  | .allGather p ref idx => Sys2Proof.Machine.execAllGather p ref idx s
  | .broadcast p ref idx => Sys2Proof.Machine.execBroadcast p ref idx s
  | .barrier p ref idx => Sys2Proof.Machine.execBarrier p ref idx s
  | .allToAll p ref idx => Sys2Proof.Machine.execAllToAll p ref idx s
  | .reduceScatterv p ref idx => Sys2Proof.Machine.execReduceScatterv p ref idx s
  | .allGatherv p ref idx => Sys2Proof.Machine.execAllGatherv p ref idx s
  | .allToAllv p ref idx => Sys2Proof.Machine.execAllToAllv p ref idx s
  | .collNextSequence p g => Sys2Proof.Machine.execCollNextSequence p g s
  | .pegAdd p ref idx => Sys2Proof.Machine.execPegAdd p ref idx s
  | .pegSet p ref idx => Sys2Proof.Machine.execPegSet p ref idx s
  | .setTarget p ref idx => Sys2Proof.Machine.execSetTarget p ref idx s
  | .remoteBump p ref idx => Sys2Proof.Machine.execRemoteBump p ref idx s
  | .descriptorComplete p ref idx => Sys2Proof.Machine.execDescriptorComplete p ref idx s
  | .waitTimeout p ref => Sys2Proof.Machine.execWaitTimeout p ref s
  | .engineFailed p t phys => Sys2Proof.Machine.execEngineFailed p t phys s
  | .coreRun p src t c val => Sys2Proof.Machine.execCoreRun p src t c val s
  | .coreTrap p t c cause pc tval => Sys2Proof.Machine.execCoreTrap p t c cause pc tval s
  | .corePegSet p t c k val => Sys2Proof.Machine.execCorePegSet p t c k val s
  | .corePegSetTarget p t c k val => Sys2Proof.Machine.execCorePegSetTarget p t c k val s
  | .corePegAdd p t c k val => Sys2Proof.Machine.execCorePegAdd p t c k val s
  | .coreWaitArm p t c k val => Sys2Proof.Machine.execCoreWaitArm p t c k val s
  | .pegAllocWrite p src peg val => Sys2Proof.Machine.execPegAllocWrite p src peg val s
  | .sramAccess p t who off op errs => Sys2Proof.Machine.execSramAccess p t who off op errs s
  | .repairAdd p src t val => Sys2Proof.Machine.execRepairAdd p src t val s
  | .repairDone p t => Sys2Proof.Machine.execRepairDone p t s
  | .memoryRequest p who off op errs => Sys2Proof.Machine.execMemoryRequest p who off op errs s
  | .memCfgWrite p src m val => Sys2Proof.Machine.execMemCfgWrite p src m val s
  | .patrolStep p stack errs => Sys2Proof.Machine.execPatrolStep p stack errs s
  | .stackTempSample p stack temp => Sys2Proof.Machine.execStackTempSample p stack temp s
  | .stackTrainingLost p stack => Sys2Proof.Machine.execStackTrainingLost p stack s
  | .stackRetrainDone p stack ok => Sys2Proof.Machine.execStackRetrainDone p stack ok s
  | .scrubGranuleDone p unit => Sys2Proof.Machine.execScrubGranuleDone p unit s
  | .granuleZeroDone p unit granule => Sys2Proof.Machine.execGranuleZeroDone p unit granule s
  | .frameReceive e port frame => Sys2Proof.Machine.execFrameReceive e port frame s
  | .frameReplayRequest e port ack => Sys2Proof.Machine.execFrameReplayRequest e port ack s
  | .packetIngress p port len bytes => Sys2Proof.Machine.execPacketIngress p port len bytes s
  | .weirForward w port len bytes => Sys2Proof.Machine.execWeirForward w port len bytes s
  | .routeEpochWrite p src val => Sys2Proof.Machine.execRouteEpochWrite p src val s
  | .weirEpochWrite w val => Sys2Proof.Machine.execWeirEpochWrite w val s
  | .portSignalLoss e port optics => Sys2Proof.Machine.execPortSignalLoss e port optics s
  | .portLockLoss e port => Sys2Proof.Machine.execPortLockLoss e port s
  | .downNotice e port => Sys2Proof.Machine.execDownNotice e port s
  | .portDisable e port => Sys2Proof.Machine.execPortDisable e port s
  | .portDisableDrained e port => Sys2Proof.Machine.execPortDisableDrained e port s
  | .portEnable e port => Sys2Proof.Machine.execPortEnable e port s
  | .portRelock e port samePartner => Sys2Proof.Machine.execPortRelock e port samePartner s
  | .relockTimeout e port => Sys2Proof.Machine.execRelockTimeout e port s
  | .linkHoldExpire p port => Sys2Proof.Machine.execLinkHoldExpire p port s
  | .weirHoldExpire w port => Sys2Proof.Machine.execWeirHoldExpire w port s
  | .trainPhasePass e port => Sys2Proof.Machine.execTrainPhasePass e port s
  | .trainPhaseTimeout e port => Sys2Proof.Machine.execTrainPhaseTimeout e port s
  | .identityBlock e port block => Sys2Proof.Machine.execIdentityBlock e port block s
  | .trainParkRetry e port => Sys2Proof.Machine.execTrainParkRetry e port s
  | .wiringFaultIdentity e port => Sys2Proof.Machine.execWiringFaultIdentity e port s
  | .expectWrite e src port serial partner valid => Sys2Proof.Machine.execExpectWrite e src port serial partner valid s
  | .opticsPoll w port temp state present ready los => Sys2Proof.Machine.execOpticsPoll w port temp state present ready los s
  | .opticsReadyTimeout w port => Sys2Proof.Machine.execOpticsReadyTimeout w port s
  | .timingFrameSend w => Sys2Proof.Machine.execTimingFrameSend w s
  | .timingFrame p port tSend tRecv reply => Sys2Proof.Machine.execTimingFrame p port tSend tRecv reply s
  | .timeUnlock p => Sys2Proof.Machine.execTimeUnlock p s
  | .timesyncEdge w => Sys2Proof.Machine.execTimesyncEdge w s
  | .packageTimesyncEdge p => Sys2Proof.Machine.execPackageTimesyncEdge p s
  | .weirSecondsWrite w val => Sys2Proof.Machine.execWeirSecondsWrite w val s
  | .ptpSync rack offset => Sys2Proof.Machine.execPtpSync rack offset s
  | .rmaPacketSend p conn => Sys2Proof.Machine.execRmaPacketSend p conn s
  | .rwritePacket p port pkt => Sys2Proof.Machine.execRwritePacket p port pkt s
  | .rreadPacket p port pkt => Sys2Proof.Machine.execRreadPacket p port pkt s
  | .pegPacket p port pkt => Sys2Proof.Machine.execPegPacket p port pkt s
  | .responsePacket p port pkt => Sys2Proof.Machine.execResponsePacket p port pkt s
  | .ackTimer p conn => Sys2Proof.Machine.execAckTimer p conn s
  | .retryTimeout p conn => Sys2Proof.Machine.execRetryTimeout p conn s
  | .connCtlWrite p src die val => Sys2Proof.Machine.execConnCtlWrite p src die val s
  | .pitchStalled p pitch => Sys2Proof.Machine.execPitchStalled p pitch s
  | .grpCtlWrite p src die val => Sys2Proof.Machine.execGrpCtlWrite p src die val s
  | .push p src die val => Sys2Proof.Machine.execPush p src die val s
  | .pushTimeout p g => Sys2Proof.Machine.execPushTimeout p g s
  | .setup w port pkt => Sys2Proof.Machine.execSetup w port pkt s
  | .setupAnswer p pkt => Sys2Proof.Machine.execSetupAnswer p pkt s
  | .barrierArrive p g => Sys2Proof.Machine.execBarrierArrive p g s
  | .arrive w port pkt => Sys2Proof.Machine.execArrive w port pkt s
  | .go p pkt => Sys2Proof.Machine.execGo p pkt s
  | .collDataSend p g plane => Sys2Proof.Machine.execCollDataSend p g plane s
  | .data w port pkt => Sys2Proof.Machine.execData w port pkt s
  | .result p pkt => Sys2Proof.Machine.execResult p pkt s
  | .breakCmd e pkt => Sys2Proof.Machine.execBreakCmd e pkt s
  | .reject p pkt => Sys2Proof.Machine.execReject p pkt s
  | .arrivalDeadline w g => Sys2Proof.Machine.execArrivalDeadline w g s
  | .dataDeadline w g => Sys2Proof.Machine.execDataDeadline w g s
  | .memberDeadline p g => Sys2Proof.Machine.execMemberDeadline p g s
  | .hhPostedWrite p src v h val => Sys2Proof.Machine.execHhPostedWrite p src v h val s
  | .hhRun p src v h val => Sys2Proof.Machine.execHhRun p src v h val s
  | .hhResume p src v h val => Sys2Proof.Machine.execHhResume p src v h val s
  | .hostEntryFetch p v h read => Sys2Proof.Machine.execHostEntryFetch p v h read s
  | .hhAccWrite p src v h val => Sys2Proof.Machine.execHhAccWrite p src v h val s
  | .hhCfgWrite p src v h val => Sys2Proof.Machine.execHhCfgWrite p src v h val s
  | .hcqCfgWrite p src v val => Sys2Proof.Machine.execHcqCfgWrite p src v val s
  | .heqCfgWrite p src v val => Sys2Proof.Machine.execHeqCfgWrite p src v val s
  | .hcqProdWrite p src v val => Sys2Proof.Machine.execHcqProdWrite p src v val s
  | .heqProdWrite p src v val => Sys2Proof.Machine.execHeqProdWrite p src v val s
  | .hcqConsWrite p src v val => Sys2Proof.Machine.execHcqConsWrite p src v val s
  | .heqConsWrite p src v val => Sys2Proof.Machine.execHeqConsWrite p src v val s
  | .shadowWrite p v => Sys2Proof.Machine.execShadowWrite p v s
  | .msixHoldoffEnd p v vec => Sys2Proof.Machine.execMsixHoldoffEnd p v vec s
  | .hostLoss p cause => Sys2Proof.Machine.execHostLoss p cause s
  | .vfFlr p v => Sys2Proof.Machine.execVfFlr p v s
  | .bar2Access p fn off op => Sys2Proof.Machine.execBar2Access p fn off op s
  | .inputPowerSample p power => Sys2Proof.Machine.execInputPowerSample p power s
  | .capEvaluation p => Sys2Proof.Machine.execCapEvaluation p s
  | .fantailSample p => Sys2Proof.Machine.execFantailSample p s
  | .inletStale p => Sys2Proof.Machine.execInletStale p s
  | .tInWrite p temp => Sys2Proof.Machine.execTInWrite p temp s
  | .relearn p src val => Sys2Proof.Machine.execRelearn p src val s
  | .brakeAssert p => Sys2Proof.Machine.execBrakeAssert p s
  | .brakeRelease p => Sys2Proof.Machine.execBrakeRelease p s
  | .loadNoticeArm p src val => Sys2Proof.Machine.execLoadNoticeArm p src val s
  | .noticeInForce p => Sys2Proof.Machine.execNoticeInForce p s
  | .noticeExpire p => Sys2Proof.Machine.execNoticeExpire p s
  | .thermalTrip e => Sys2Proof.Machine.execThermalTrip e s
  | .thermalCritical p => Sys2Proof.Machine.execThermalCritical p s
  | .criticalClear p => Sys2Proof.Machine.execCriticalClear p s
  | .coolantPoll tc reading => Sys2Proof.Machine.execCoolantPoll tc reading s
  | .inletHotTimeout tc => Sys2Proof.Machine.execInletHotTimeout tc s
  | .flowLowTimeout tc => Sys2Proof.Machine.execFlowLowTimeout tc s
  | .flowStillLow tc => Sys2Proof.Machine.execFlowStillLow tc s
  | .flowLoss tc => Sys2Proof.Machine.execFlowLoss tc s
  | .leakDetected tc => Sys2Proof.Machine.execLeakDetected tc s
  | .coolantConditionEnd tc row => Sys2Proof.Machine.execCoolantConditionEnd tc row s
  | .heartbeatFault tc pos => Sys2Proof.Machine.execHeartbeatFault tc pos s
  | .kindlingFault tc pos => Sys2Proof.Machine.execKindlingFault tc pos s
  | .thermtripAssert tc pos => Sys2Proof.Machine.execThermtripAssert tc pos s
  | .tripRepulse tc pos => Sys2Proof.Machine.execTripRepulse tc pos s
  | .errFatalAssert tc pos => Sys2Proof.Machine.execErrFatalAssert tc pos s
  | .errCorrEdge tc pos => Sys2Proof.Machine.execErrCorrEdge tc pos s
  | .errCorrPulseEnd e => Sys2Proof.Machine.execErrCorrPulseEnd e s
  | .recoveryTimeout tc pos => Sys2Proof.Machine.execRecoveryTimeout tc pos s
  | .tcRestart tc => Sys2Proof.Machine.execTcRestart tc s
  | .tcCapMessage tc pos watts => Sys2Proof.Machine.execTcCapMessage tc pos watts s
  | .imageStore tc image => Sys2Proof.Machine.execImageStore tc image s
  | .tcTrialConfirm tc => Sys2Proof.Machine.execTcTrialConfirm tc s
  | .tcTrialFail tc => Sys2Proof.Machine.execTcTrialFail tc s
  | .prepareRemovalCompute rack c => Sys2Proof.Machine.execPrepareRemovalCompute rack c s
  | .prepareRemovalSwitch rack n => Sys2Proof.Machine.execPrepareRemovalSwitch rack n s
  | .drainWaitExpire rack => Sys2Proof.Machine.execDrainWaitExpire rack s
  | .trayInserted rack tray serials => Sys2Proof.Machine.execTrayInserted rack tray serials s
  | .returnToService rack tray => Sys2Proof.Machine.execReturnToService rack tray s
  | .resetPackage rack slot => Sys2Proof.Machine.execResetPackage rack slot s
  | .clearFault rack tray => Sys2Proof.Machine.execClearFault rack tray s
  | .tcContactLoss rack tc => Sys2Proof.Machine.execTcContactLoss rack tc s
  | .powerLimitWrite rack watts => Sys2Proof.Machine.execPowerLimitWrite rack watts s
  | .powerLimitPkgWrite rack slot watts => Sys2Proof.Machine.execPowerLimitPkgWrite rack slot watts s
  | .capComputation rack overhead => Sys2Proof.Machine.execCapComputation rack overhead s
  | .capRaise rack => Sys2Proof.Machine.execCapRaise rack s
  | .epochStepDone => Sys2Proof.Machine.execEpochStepDone s
  | .epochOpenRetry => Sys2Proof.Machine.execEpochOpenRetry s
  | .epochStepTimeout => Sys2Proof.Machine.execEpochStepTimeout s
  | .epochSwitchRetry => Sys2Proof.Machine.execEpochSwitchRetry s
  | .pmbusPoll tc healthy => Sys2Proof.Machine.execPmbusPoll tc healthy s
  | .psuReadingStale tc psu => Sys2Proof.Machine.execPsuReadingStale tc psu s
  | .smbalertPoll tc asserted => Sys2Proof.Machine.execSmbalertPoll tc asserted s
  | .busRecovery tc seg sdaLow sclLow freeAfter lastAddr => Sys2Proof.Machine.execBusRecovery tc seg sdaLow sclLow freeAfter lastAddr s
  | .isolatorRestore tc seg free => Sys2Proof.Machine.execIsolatorRestore tc seg free s
  | .busStuckRetry tc seg => Sys2Proof.Machine.execBusStuckRetry tc seg s
  | .macReceive tc frame fcsOk => Sys2Proof.Machine.execMacReceive tc frame fcsOk s
  | .macTransmit tc => Sys2Proof.Machine.execMacTransmit tc s
  | .macTransmitDone tc => Sys2Proof.Machine.execMacTransmitDone tc s
  | .attestWiring rack tray ports => Sys2Proof.Machine.execAttestWiring rack tray ports s
  | .attestSpan coords => Sys2Proof.Machine.execAttestSpan coords s
  | .returnSeal rack slot reason ref => Sys2Proof.Machine.execReturnSeal rack slot reason ref s
  | .sealGo p src val => Sys2Proof.Machine.execSealGo p src val s
  | .sealBundleReady p => Sys2Proof.Machine.execSealBundleReady p s
  | .sealBurn p src val => Sys2Proof.Machine.execSealBurn p src val s
  | .sealOffsetWrite p src val => Sys2Proof.Machine.execSealOffsetWrite p src val s
  | .ringSelWrite p src val => Sys2Proof.Machine.execRingSelWrite p src val s
  | .heartbeatEdge tc pos => Sys2Proof.Machine.execHeartbeatEdge tc pos s
  | .partnerRestart e port => Sys2Proof.Machine.execPartnerRestart e port s
  | .ptpLockLoss rack => Sys2Proof.Machine.execPtpLockLoss rack s
  | .weirTimeUnlocked w => Sys2Proof.Machine.execWeirTimeUnlocked w s
  | .planesDrained rack => Sys2Proof.Machine.execPlanesDrained rack s
  | .d3hot p fn d3 => Sys2Proof.Machine.execD3hot p fn d3 s

end Sys2Proof.Machine
end

