-- ==== Sys2Proof/Machine/Tick.lean ====
section
/-! DEFINITION. The tick of an empty queue: one microsecond of global time passes at every element (log 2). -/

namespace Sys2Proof.Machine

/-- One microsecond on an element's clock (R434; log 2). The slew of R438 runs at 1,000 ppm, one nanosecond in a
microsecond, and an offset of half rate runs off at half a microsecond. -/
def TimeSt.tick (t : TimeSt) : TimeSt :=
  let d : Int := if t.slew = 0 then 0 else if 0 < t.slew then 1 else -1
  let h := min t.half 500
  { t with now := (t.now + 1000 - h + d.toNat - (-d).toNat) % 2 ^ 64, raw := t.raw + 1000, slew := t.slew - d, half := t.half - h }

/-- One microsecond on a rack time master's clock: it slews 1 ns in a millisecond (R435; log 2). -/
def TimeSt.tickMaster (t : TimeSt) : TimeSt :=
  let d : Int := if t.slew = 0 ∨ 1000 ≤ t.now % 1000000 then 0 else if 0 < t.slew then 1 else -1
  { t with now := (t.now + 1000 + d.toNat - (-d).toNat) % 2 ^ 64, raw := t.raw + 1000, slew := t.slew - d }

/-- One microsecond passes everywhere. -/
def tick (s : State) : State :=
  { s with
    pkgs := s.pkgs.map fun e => (e.1, { e.2 with base := { e.2.base with time := e.2.base.time.tick } })
    weirs := s.weirs.map fun e => (e.1, { e.2 with base := { e.2.base with time := e.2.base.time.tick } })
    tcs := s.tcs.map fun e => (e.1, { e.2 with now := e.2.now + 1000 })
    rcs := s.rcs.map fun e => (e.1, { e.2 with time := e.2.time.tickMaster }) }

end Sys2Proof.Machine
end

