-- ==== Sys2Proof/Safety.lean ====
section
/-! DEFINITION. What counts as a safe run, in the terms the statements use: invariants every step keeps, and when a control
write is taken. -/

namespace Sys2Proof

/-- The span's maps list each element once, in rising order. -/
def Safety.mapsRise (s : Machine.State) : Bool :=
  Machine.keysRise s.pkgs && Machine.keysRise s.weirs && Machine.keysRise s.tcs && Machine.keysRise s.rcs

/-- Every package's memory has its canonical form. -/
def Safety.memoriesWf (s : Machine.State) : Bool := s.pkgs.all fun e => Machine.memWf e.2.mem.cells

/-- A control write of four bytes by `src` arrives at offset `a` of package `k`, a page of kind `kd`: the source may write
there, the access makes no fault, and the package is not sealed (R33, R325, R326, R462). -/
def Safety.arrives (s : Machine.State) (k : Nat) (src : Src) (a : Nat) (kd : Machine.PKind) : Bool :=
  let p := Machine.pkgOf s k
  decide (src ≠ .endpointB) && Machine.srcReaches src a && decide (Machine.faultReason p a 4 = 0)
    && decide (Machine.pageKind p.hubL1 (Machine.clsOf a) (Machine.instOf a) = some kd) && !Machine.sealedShut p

/-- A control write that arrives at a page that is not being struck (R54). -/
def Safety.reaches (s : Machine.State) (k : Nat) (src : Src) (a : Nat) (kd : Machine.PKind) : Bool :=
  Safety.arrives s k src a kd && !Machine.strikingPage (Machine.pkgOf s k).base (Machine.pageOf a)

/-- The state after an accepted control write at offset `a` of package `k` that leaves the package `q`: the page's SEQ_IN and
SEQ_OUT have counted it (R47), and the counter of free values has moved on. -/
def Safety.written (s : Machine.State) (k a : Nat) (q : Machine.Package) : Machine.State :=
  { Machine.setPkg s k (Machine.acceptWrite q (Machine.pageOf a)) with free := s.free + 1 }

/-- The state after a refused control write of `v` at offset `a` of package `k`: recorded with its reason, nothing else
changed (R52). -/
def Safety.refused (s : Machine.State) (k : Nat) (src : Src) (a v reason : Nat) : Machine.State :=
  { Machine.setPkg s k (Machine.refuseWrite (Machine.pkgOf s k) src (Machine.pageOf a) (Machine.offOf a) v reason) with
    free := s.free + 1 }

/-- The bytes that a readable range of package memory holds, as a reader sees them (R27, R28, R282). -/
def Safety.bytesAt (p : Machine.Package) (off n : Nat) : Bytes :=
  (List.range n).map fun i => Machine.byteValue p (Machine.canon p (off + i))

/-- A packet that every header field can hold: each value within its field, and a field that its form lacks at its default
(R171–R175). -/
def Safety.wirePacket (k : Pkt) : Bool :=
  decide (k.cls < 4 ∧ k.dl < 2 ∧ k.epoch < 2 ∧ k.pitch < 4096 ∧ k.destSlot < 64 ∧ k.destRack < 16 ∧ k.srcRack < 16 ∧
      k.srcSlot < 64 ∧ k.plane < 32)
    && (match k.spanDim with
      | some d => decide (d < 2 ∧ k.hops < 256 ∧ k.originTime < 2 ^ 32)
      | none => decide (k.hops = 0 ∧ k.originTime = 0))
    && (match k.op with
      | .coll => decide (k.mgmt = false ∧ k.conn < 2048 ∧ k.psn < 2 ^ 16 ∧ k.status = 0 ∧ k.offset = 0 ∧ k.space = 0 ∧
          k.coll.length = 17)
      | .response => decide (k.psn < 2 ^ 24 ∧ k.status < 256)
      | _ => decide (k.psn < 2 ^ 24 ∧ k.status = 0 ∧ k.bumpPeg < 8192 ∧ k.gen < 256 ∧ k.arg < 2 ^ 32))
    && (decide (k.op = .coll) || decide (k.conn < (if k.mgmt then 1024 else 4096) ∧ k.offset < 2 ^ 48 ∧ k.space < 4 ∧ k.coll = []))
    && (!decide (k.op = .coll ∨ k.op = .response) || decide (k.bumpPeg = 0 ∧ k.gen = 0 ∧ k.arg = 0))
    && (k.ext.isEmpty || decide ((k.ext.length = 8 ∨ k.ext.length = 16) ∧ Machine.byteAt k.ext 0 % 16 = 0 ∧
        Machine.byteAt k.ext 1 = k.ext.length))
    && Machine.payOk k k.payload.length

/-- How many ports an element has: 18 at a package, 72 at a Weir. -/
def Safety.ports : Elem → Nat
  | .pkg _ => 18
  | .weir _ => 72

/-- The element that a command is about, where it acts on that element alone: a package, or a Weir. The commands of tray and rack
controllers, of the epoch change and of the brake line have none, and neither has a bundle that goes to a tray controller. -/
def Safety.home (i : Instr) : Option Elem :=
  match i with
  | .controlWrite p _ _ _ _ => some (.pkg p)
  | .controlSpacePacket p _ _ => some (.pkg p)
  | .pageCtrlWrite p _ _ _ => some (.pkg p)
  | .evtStatClear p _ _ _ => some (.pkg p)
  | .evtForce p _ _ _ => some (.pkg p)
  | .strikeCtrlGo p _ _ _ => some (.pkg p)
  | .strikeDrainDone p _ => some (.pkg p)
  | .strikeDrainAbandon p _ => some (.pkg p)
  | .strikeAbsorbDone p _ => some (.pkg p)
  | .spanStrikeMessage p _ _ _ => some (.pkg p)
  | .spanStrikeAnswer p _ _ _ => some (.pkg p)
  | .spanStrikeResend p _ => some (.pkg p)
  | .spanStrikeTimeout p _ => some (.pkg p)
  | .latePeerResend p _ => some (.pkg p)
  | .setupUncommitResend p _ => some (.pkg p)
  | .pitchCreate p _ _ => some (.pkg p)
  | .addTiles p _ _ => some (.pkg p)
  | .addDram p _ _ => some (.pkg p)
  | .addFence p _ _ => some (.pkg p)
  | .strike p _ _ => some (.pkg p)
  | .query p _ _ => some (.pkg p)
  | .pitchBadCommand p _ _ => some (.pkg p)
  | .inputUndervoltage e => some e
  | .undervoltageClear e => some e
  | .inputOvervoltage e => some e
  | .overvoltageClear e => some e
  | .inrushLimitEnd e => some e
  | .railOutOfRegulation e => some e
  | .railRegulated e => some e
  | .emberColdStart e => some e
  | .powerOnRelease e => some e
  | .resetPulseAccepted e _ => some e
  | .resetGlitch e _ => some e
  | .resetPinRelease e _ => some e
  | .hubResetAck p => some (.pkg p)
  | .resetEscalate p => some (.pkg p)
  | .strapMeasurement p _ => some (.pkg p)
  | .refclkPresent e => some e
  | .hubSelfTestDone e _ _ => some e
  | .imageRequestTimeout e => some e
  | .imageSlotRetry e => some e
  | .blobRequestRetry e => some e
  | .bringupRelease p _ => some (.pkg p)
  | .mspRelease p => some (.pkg p)
  | .bulkReset e => some e
  | .dieLinksTrained p _ => some (.pkg p)
  | .tileTestDone p _ => some (.pkg p)
  | .dramTrainingDone p _ _ => some (.pkg p)
  | .portTrainingDone e => some e
  | .imageReq _ _ => none
  | .blobReq _ _ => none
  | .settingsReady _ _ => none
  | .readyReport _ _ => none
  | .weirReadyReport _ _ => none
  | .loadNoticeMessage _ _ => none
  | .eventRecordCopy _ _ => none
  | .pitchReply _ _ => none
  | .bulkDone e _ _ => some e
  | .bulkUnavailable e _ => some e
  | .mspUnknownMessage _ _ _ => none
  | .mspRegisterRead e _ _ => some e
  | .mspRegisterWrite e _ _ => some e
  | .mspRawWrite e _ _ => some e
  | .mspRawRead e _ _ => some e
  | .mspSelectEnd e _ => some e
  | .mspEdgeTimeout e => some e
  | .mspErrClr e => some e
  | .csGo e _ => some e
  | .csTimeout e => some e
  | .mspStatusPoll _ _ => none
  | .flitReceive p _ _ _ => some (.pkg p)
  | .flitReplayRequest p _ _ _ => some (.pkg p)
  | .moduleRetrainDone p _ _ _ _ => some (.pkg p)
  | .budgetTick p => some (.pkg p)
  | .budgetMessage p _ _ => some (.pkg p)
  | .dieReport p _ => some (.pkg p)
  | .budgetFallback p _ => some (.pkg p)
  | .diePowerSample p _ _ _ => some (.pkg p)
  | .dieSilent p _ => some (.pkg p)
  | .clkModeWrite p _ _ => some (.pkg p)
  | .modeChangeDone p => some (.pkg p)
  | .hopTailWrite p _ _ _ _ => some (.pkg p)
  | .hopRun p _ _ _ _ => some (.pkg p)
  | .hopResume p _ _ _ _ => some (.pkg p)
  | .descriptorFetch p _ => some (.pkg p)
  | .descriptorIssue p _ => some (.pkg p)
  | .nop p _ _ => some (.pkg p)
  | .copy p _ _ => some (.pkg p)
  | .fill p _ _ => some (.pkg p)
  | .matmul p _ _ => some (.pkg p)
  | .vectorAdd p _ _ => some (.pkg p)
  | .vectorMul p _ _ => some (.pkg p)
  | .axpy p _ _ => some (.pkg p)
  | .vectorMax p _ _ => some (.pkg p)
  | .vectorMin p _ _ => some (.pkg p)
  | .expCmd p _ _ => some (.pkg p)
  | .recip p _ _ => some (.pkg p)
  | .rsqrt p _ _ => some (.pkg p)
  | .convert p _ _ => some (.pkg p)
  | .scale p _ _ => some (.pkg p)
  | .attend p _ _ => some (.pkg p)
  | .rwrite p _ _ => some (.pkg p)
  | .rread p _ _ => some (.pkg p)
  | .allReduce p _ _ => some (.pkg p)
  | .reduceScatter p _ _ => some (.pkg p)
  | .allGather p _ _ => some (.pkg p)
  | .broadcast p _ _ => some (.pkg p)
  | .barrier p _ _ => some (.pkg p)
  | .allToAll p _ _ => some (.pkg p)
  | .reduceScatterv p _ _ => some (.pkg p)
  | .allGatherv p _ _ => some (.pkg p)
  | .allToAllv p _ _ => some (.pkg p)
  | .collNextSequence p _ => some (.pkg p)
  | .pegAdd p _ _ => some (.pkg p)
  | .pegSet p _ _ => some (.pkg p)
  | .setTarget p _ _ => some (.pkg p)
  | .remoteBump p _ _ => some (.pkg p)
  | .descriptorComplete p _ _ => some (.pkg p)
  | .waitTimeout p _ => some (.pkg p)
  | .engineFailed p _ _ => some (.pkg p)
  | .coreRun p _ _ _ _ => some (.pkg p)
  | .coreTrap p _ _ _ _ _ => some (.pkg p)
  | .corePegSet p _ _ _ _ => some (.pkg p)
  | .corePegSetTarget p _ _ _ _ => some (.pkg p)
  | .corePegAdd p _ _ _ _ => some (.pkg p)
  | .coreWaitArm p _ _ _ _ => some (.pkg p)
  | .pegAllocWrite p _ _ _ => some (.pkg p)
  | .sramAccess p _ _ _ _ _ => some (.pkg p)
  | .repairAdd p _ _ _ => some (.pkg p)
  | .repairDone p _ => some (.pkg p)
  | .memoryRequest p _ _ _ _ => some (.pkg p)
  | .memCfgWrite p _ _ _ => some (.pkg p)
  | .patrolStep p _ _ => some (.pkg p)
  | .stackTempSample p _ _ => some (.pkg p)
  | .stackTrainingLost p _ => some (.pkg p)
  | .stackRetrainDone p _ _ => some (.pkg p)
  | .scrubGranuleDone p _ => some (.pkg p)
  | .granuleZeroDone p _ _ => some (.pkg p)
  | .frameReceive e _ _ => some e
  | .frameReplayRequest e _ _ => some e
  | .packetIngress p _ _ _ => some (.pkg p)
  | .weirForward w _ _ _ => some (.weir w)
  | .routeEpochWrite p _ _ => some (.pkg p)
  | .weirEpochWrite w _ => some (.weir w)
  | .portSignalLoss e _ _ => some e
  | .portLockLoss e _ => some e
  | .downNotice e _ => some e
  | .portDisable e _ => some e
  | .portDisableDrained e _ => some e
  | .portEnable e _ => some e
  | .portRelock e _ _ => some e
  | .relockTimeout e _ => some e
  | .linkHoldExpire p _ => some (.pkg p)
  | .weirHoldExpire w _ => some (.weir w)
  | .trainPhasePass e _ => some e
  | .trainPhaseTimeout e _ => some e
  | .identityBlock e _ _ => some e
  | .trainParkRetry e _ => some e
  | .wiringFaultIdentity e _ => some e
  | .expectWrite e _ _ _ _ _ => some e
  | .opticsPoll w _ _ _ _ _ _ => some (.weir w)
  | .opticsReadyTimeout w _ => some (.weir w)
  | .timingFrameSend w => some (.weir w)
  | .timingFrame p _ _ _ _ => some (.pkg p)
  | .timeUnlock p => some (.pkg p)
  | .timesyncEdge w => some (.weir w)
  | .packageTimesyncEdge p => some (.pkg p)
  | .weirSecondsWrite w _ => some (.weir w)
  | .ptpSync _ _ => none
  | .rmaPacketSend p _ => some (.pkg p)
  | .rwritePacket p _ _ => some (.pkg p)
  | .rreadPacket p _ _ => some (.pkg p)
  | .pegPacket p _ _ => some (.pkg p)
  | .responsePacket p _ _ => some (.pkg p)
  | .ackTimer p _ => some (.pkg p)
  | .retryTimeout p _ => some (.pkg p)
  | .connCtlWrite p _ _ _ => some (.pkg p)
  | .pitchStalled p _ => some (.pkg p)
  | .grpCtlWrite p _ _ _ => some (.pkg p)
  | .push p _ _ _ => some (.pkg p)
  | .pushTimeout p _ => some (.pkg p)
  | .setup w _ _ => some (.weir w)
  | .setupAnswer p _ => some (.pkg p)
  | .barrierArrive p _ => some (.pkg p)
  | .arrive w _ _ => some (.weir w)
  | .go p _ => some (.pkg p)
  | .collDataSend p _ _ => some (.pkg p)
  | .data w _ _ => some (.weir w)
  | .result p _ => some (.pkg p)
  | .breakCmd e _ => some e
  | .reject p _ => some (.pkg p)
  | .arrivalDeadline w _ => some (.weir w)
  | .dataDeadline w _ => some (.weir w)
  | .memberDeadline p _ => some (.pkg p)
  | .hhPostedWrite p _ _ _ _ => some (.pkg p)
  | .hhRun p _ _ _ _ => some (.pkg p)
  | .hhResume p _ _ _ _ => some (.pkg p)
  | .hostEntryFetch p _ _ _ => some (.pkg p)
  | .hhAccWrite p _ _ _ _ => some (.pkg p)
  | .hhCfgWrite p _ _ _ _ => some (.pkg p)
  | .hcqCfgWrite p _ _ _ => some (.pkg p)
  | .heqCfgWrite p _ _ _ => some (.pkg p)
  | .hcqProdWrite p _ _ _ => some (.pkg p)
  | .heqProdWrite p _ _ _ => some (.pkg p)
  | .hcqConsWrite p _ _ _ => some (.pkg p)
  | .heqConsWrite p _ _ _ => some (.pkg p)
  | .shadowWrite p _ => some (.pkg p)
  | .msixHoldoffEnd p _ _ => some (.pkg p)
  | .hostLoss p _ => some (.pkg p)
  | .vfFlr p _ => some (.pkg p)
  | .bar2Access p _ _ _ => some (.pkg p)
  | .inputPowerSample p _ => some (.pkg p)
  | .capEvaluation p => some (.pkg p)
  | .fantailSample p => some (.pkg p)
  | .inletStale p => some (.pkg p)
  | .tInWrite p _ => some (.pkg p)
  | .relearn p _ _ => some (.pkg p)
  | .brakeAssert _ => none
  | .brakeRelease _ => none
  | .loadNoticeArm p _ _ => some (.pkg p)
  | .noticeInForce p => some (.pkg p)
  | .noticeExpire p => some (.pkg p)
  | .thermalTrip e => some e
  | .thermalCritical p => some (.pkg p)
  | .criticalClear p => some (.pkg p)
  | .coolantPoll _ _ => none
  | .inletHotTimeout _ => none
  | .flowLowTimeout _ => none
  | .flowStillLow _ => none
  | .flowLoss _ => none
  | .leakDetected _ => none
  | .coolantConditionEnd _ _ => none
  | .heartbeatFault _ _ => none
  | .kindlingFault _ _ => none
  | .thermtripAssert _ _ => none
  | .tripRepulse _ _ => none
  | .errFatalAssert _ _ => none
  | .errCorrEdge _ _ => none
  | .errCorrPulseEnd e => some e
  | .recoveryTimeout _ _ => none
  | .tcRestart _ => none
  | .tcCapMessage _ _ _ => none
  | .imageStore _ _ => none
  | .tcTrialConfirm _ => none
  | .tcTrialFail _ => none
  | .prepareRemovalCompute _ _ => none
  | .prepareRemovalSwitch _ _ => none
  | .drainWaitExpire _ => none
  | .trayInserted _ _ _ => none
  | .returnToService _ _ => none
  | .resetPackage _ _ => none
  | .clearFault _ _ => none
  | .tcContactLoss _ _ => none
  | .powerLimitWrite _ _ => none
  | .powerLimitPkgWrite _ _ _ => none
  | .capComputation _ _ => none
  | .capRaise _ => none
  | .epochStepDone => none
  | .epochOpenRetry => none
  | .epochStepTimeout => none
  | .epochSwitchRetry => none
  | .pmbusPoll _ _ => none
  | .psuReadingStale _ _ => none
  | .smbalertPoll _ _ => none
  | .busRecovery _ _ _ _ _ _ => none
  | .isolatorRestore _ _ _ => none
  | .busStuckRetry _ _ => none
  | .macReceive _ _ _ => none
  | .macTransmit _ => none
  | .macTransmitDone _ => none
  | .attestWiring _ _ _ => none
  | .attestSpan _ => none
  | .returnSeal _ _ _ _ => none
  | .sealGo p _ _ => some (.pkg p)
  | .sealBundleReady _ => none
  | .sealBurn p _ _ => some (.pkg p)
  | .sealOffsetWrite p _ _ => some (.pkg p)
  | .ringSelWrite p _ _ => some (.pkg p)
  | .heartbeatEdge _ _ => none
  | .partnerRestart e _ => some e
  | .ptpLockLoss _ => none
  | .weirTimeUnlocked w => some (.weir w)
  | .planesDrained _ => none
  | .d3hot p _ _ => some (.pkg p)

end Sys2Proof
end

