-- ==== Sys2Proof/Certificates/Slice0/Obligations.lean ====
section
/-! DEFINITION. The statements for the provers. -/

open Sys2Proof Sys2Proof.Machine

/-! ## The step, the queue and the span -/

/-- A step with command c at the front of the queue is exec of c on the state with the queue's rest. -/
def Obligations.StepRunsFront : Prop :=
  ∀ (s : State) (c : Instr) (rest : List Instr), s.pending = c :: rest → step s = exec c { s with pending := rest }

/-- Whatever command runs and whatever state it leaves, the queue of waiting commands is the one it was given: no command
sends or drops a command. -/
def Obligations.CommandsKeepQueue : Prop :=
  ∀ (c : Instr) (s t : State), exec c s = .next t → t.pending = s.pending

/-- The invariant of the span's maps: if every package, Weir, tray controller and rack controller is listed once and in rising
order, then so it is after any step, of any command or of time alone. -/
def Obligations.StepKeepsMaps : Prop :=
  ∀ s t : State, Safety.mapsRise s = true → step s = .next t → Safety.mapsRise t = true

/-- At reset the invariants hold, no command waits, no element differs from its reset value, and a package's registers read the
reset values the tables give: both route epochs open (R180), CAP_TC at 800 W and CAP_HOST at 1,600 W (R369), the interface configured for
16 functions (R343), STRIKE_CTRL.REACH of a page at 2 (R55), the routing of an event to the physical function (R44). -/
def Obligations.ResetValues : Prop :=
  Safety.mapsRise State.reset = true ∧ Safety.memoriesWf State.reset = true ∧ State.reset.pending = [] ∧
  ∀ k : Nat, pkgOf State.reset k = Package.reset k ∧
    (pkgOf State.reset k).rdF (routePage + Off.ROUTE_EPOCH) 2 0 = 6 ∧
    (pkgOf State.reset k).rdF (pw Off.CAP_TC) 10 0 = 800 ∧ (pkgOf State.reset k).rdF (pw Off.CAP_HOST) 10 0 = 1600 ∧
    (pkgOf State.reset k).rdF (pfPage + Off.HIF_CFG) 4 0 = 16 ∧
    (pkgOf State.reset k).rdF (tilePage 3 1 + Off.STRIKE_CTRL) 3 1 = 2 ∧
    (pkgOf State.reset k).rdF (tilePage 3 1 + Off.EVT_ROUTE) 2 0 = 1

/-- A command that is about one element (`Safety.home`) changes that element alone: every other package and Weir, every tray
controller and rack controller, the span's racks, its route table and its epoch change stay as they were. -/
def Obligations.ElementsApart : Prop :=
  ∀ (i : Instr) (e : Elem) (s t : State), Safety.home i = some e → exec i s = .next t →
    (∀ k, Elem.pkg k ≠ e → pkgOf t k = pkgOf s k) ∧ (∀ k, Elem.weir k ≠ e → weirOf t k = weirOf s k) ∧
    t.tcs = s.tcs ∧ t.rcs = s.rcs ∧ t.spanRacks = s.spanRacks ∧ t.table = s.table ∧ t.epochChange = s.epochChange ∧
    t.waits = s.waits ∧ t.epoch = s.epoch

/-! ## Control space -/

/-- A control write of four bytes that reaches a register with no action of its own stores each field by its access code: a
read-write field takes the value, a read-only one keeps its own, a write-1 bit clears or sets (R11). It holds for the header
registers other than PAGE_CTRL, EVT_STAT, EVT_EN, EVT_FORCE and STRIKE_CTRL of every page, and for every register of the pages
of no special effect; the field must not be locked (R48), and a quiesce-only change needs a quiesced page (R53, R54). Nothing
but the register and the page's two sequence counts changes. A reserved offset of those pages, and one beyond the header of the
open debug boundary, stores nothing: the two counts alone move (R11, R12, R47). Completes: CONTROL_WRITE. -/
def Obligations.ControlWriteStores : Prop :=
  (∀ (s : State) (p : Nat) (src : Src) (a v : Nat) (kd : PKind),
    Safety.reaches s p src a kd = true → 0x80 ≤ offOf a →
    kd ∈ [.debug, .hub0, .ltile, .ember, .tile0, .tile4, .tile8, .link1, .rma, .memStack, .diePwr, .fuse2] →
    rowAt kd (offOf a) = none →
    exec (.controlWrite p src a 4 v) s = .next (Safety.written s p a (pkgOf s p))) ∧
  (∀ (s : State) (p : Nat) (src : Src) (a v : Nat) (kd : PKind) (r : RegRow),
    Safety.reaches s p src a kd = true →
    (offOf a < 0x80 ∧ offOf a ∉ [Off.PAGE_CTRL, Off.EVT_STAT, Off.EVT_EN, Off.EVT_FORCE, Off.STRIKE_CTRL]
      ∨ 0x80 ≤ offOf a ∧ kd ∈ [.hub0, .ltile, .ember, .tile0, .tile4, .tile8, .link1, .rma, .memStack, .diePwr, .fuse2]) →
    rowAt kd (offOf a) = some r →
    ((r.fields.any fun f => decide (f.acc = .rwl)) = false ∨ bitOf ((pkgOf s p).rd (pageOf a + Off.PAGE_CTRL)) 2 = false) →
    (let old := (pkgOf s p).rd a
     let new := storeRow src r old (storeRule (pkgOf s p) a kd (offOf a) old (v % 2 ^ 32))
     (changesQuiesce r old new = false ∨ quiesceOk (pkgOf s p) (pageOf a) kd old new = true) →
       exec (.controlWrite p src a 4 v) s = .next (Safety.written s p a ((pkgOf s p).wr a new))))

/-- A control write that breaks R33 (beyond control space, a page that is not there, a size or alignment that is not a word's or a
doubleword's, the closed debug boundary) changes nothing but the fault's count and information at the hub; endpoint B writes
nothing (R325), and a virtual function nothing outside its page (R326).
A control write is refused whole, with its reason recorded: every one in a sealed package (reason 1, R462), every one but
those R54 names on a page that is being struck (reason 3), one of a locked field (reason 2, R48), one of a quiesce-only field on a page that is not quiesced (reason 1, R54). -/
def Obligations.ControlWriteRefused : Prop :=
  (∀ (s : State) (p : Nat) (src : Src) (a size v : Nat), src ≠ .endpointB → srcReaches src a = true →
    faultReason (pkgOf s p) a size ≠ 0 →
    exec (.controlWrite p src a size v) s =
      .next { setPkg s p (ctlFault (pkgOf s p) src a (faultReason (pkgOf s p) a size)) with free := s.free + 1 }) ∧
  (∀ (s : State) (p a size v : Nat),
    exec (.controlWrite p .endpointB a size v) s = .next { setPkg s p (pkgOf s p) with free := s.free + 1 }) ∧
  (∀ (s : State) (p f a size v : Nat), srcReaches (.vf f) a = false →
    exec (.controlWrite p (.vf f) a size v) s = .next { setPkg s p (pkgOf s p) with free := s.free + 1 }) ∧
  (∀ (s : State) (p : Nat) (src : Src) (a v : Nat) (kd : PKind),
    src ≠ .endpointB → srcReaches src a = true → faultReason (pkgOf s p) a 4 = 0 →
    pageKind (pkgOf s p).hubL1 (clsOf a) (instOf a) = some kd →
    (sealedShut (pkgOf s p) = true →
      exec (.controlWrite p src a 4 v) s = .next (Safety.refused s p src a (v % 2 ^ 32) 1)) ∧
    (sealedShut (pkgOf s p) = false → strikingPage (pkgOf s p).base (pageOf a) = true →
      offOf a ∉ [Off.EVT_STAT, Off.EVT_EN, Off.EVT_ROUTE, Off.STRIKE_CTRL] →
      exec (.controlWrite p src a 4 v) s = .next (Safety.refused s p src a (v % 2 ^ 32) 3)) ∧
    (Safety.reaches s p src a kd = true → offOf a = Off.PITCH_OWNER →
      bitOf ((pkgOf s p).rd (pageOf a + Off.PAGE_CTRL)) 2 = true →
      exec (.controlWrite p src a 4 v) s = .next (Safety.refused s p src a (v % 2 ^ 32) 2)) ∧
    (Safety.reaches s p src a kd = true → kd = .tile0 → offOf a = Off.ME_MAP → quiesced (pkgOf s p) (pageOf a) = false →
      v % 2 ^ 32 ≠ fld ((pkgOf s p).rd a) 31 0 →
      exec (.controlWrite p src a 4 v) s = .next (Safety.refused s p src a (v % 2 ^ 32) 1)))

/-- The header's own registers, each written at a page the write reaches. PAGE_CTRL takes ENABLE and FREEZE and keeps LOCK once
it is set, and a change of ENABLE starts what the page's unit does then; while a clock mode change runs, a die page is not enabled
(reason 1, R40, R76). EVT_STAT clears where 1 is written, on a striking page too, and releases ERR_CAPT with the captured bit
(R46, R54); the page's events hold ERR_FATAL_N no longer (R447). EVT_FORCE sets the bits that the page defines, in rising order,
each as an event without capture, so that one that rises with its EVT_EN bit set sends its record (R43). Each is counted (R47).
Completes: PAGE_CTRL_WRITE, EVT_STAT_CLEAR, EVT_FORCE. -/
def Obligations.HeaderWrites : Prop :=
  (∀ (s : State) (p : Nat) (src : Src) (page v : Nat) (kd : PKind),
    Safety.reaches s p src (pageOf page + Off.PAGE_CTRL) kd = true → v < 2 ^ 32 →
    let a := pageOf page + Off.PAGE_CTRL
    let old := (pkgOf s p).rd a
    let q := (pkgOf s p).wr a (v % 4 + 4 * b2n (bitOf old 2 || bitOf v 2))
    let die := 0x10 ≤ clsOf page ∧ clsOf page ≤ 0x1F ∨ 0x20 ≤ clsOf page ∧ clsOf page ≤ 0x23
    (bitOf v 0 = bitOf old 0 → ((pkgOf s p).dies.changing = false ∨ bitOf v 0 = false) →
      exec (.pageCtrlWrite p src page v) s = .next (Safety.written s p a q)) ∧
    (bitOf v 0 ≠ bitOf old 0 → ((pkgOf s p).dies.changing = false ∨ bitOf v 0 = false ∨ ¬ die) →
      exec (.pageCtrlWrite p src page v) s =
        .next (Safety.written s p a (enableChanged s.free q (pageOf page) (bitOf v 0)))) ∧
    ((pkgOf s p).dies.changing = true → bitOf v 0 = true → die →
      exec (.pageCtrlWrite p src page v) s = .next (Safety.refused s p src a v 1))) ∧
  (∀ (s : State) (p : Nat) (src : Src) (page v : Nat) (kd : PKind),
    Safety.arrives s p src (pageOf page + Off.EVT_STAT) kd = true → v < 2 ^ 27 →
    let a := pageOf page + Off.EVT_STAT
    let c0 := (pkgOf s p).rd (pageOf page + Off.ERR_CAPT0)
    exec (.evtStatClear p src page v) s = .next (Safety.written s p a (clearEvt (pkgOf s p) (pageOf page) v)) ∧
    (clearEvt (pkgOf s p) (pageOf page) v).rd a = mergeBits ((pkgOf s p).rd a) 0 v % 2 ^ 32 ∧
    (clearEvt (pkgOf s p) (pageOf page) v).rd (pageOf page + Off.ERR_CAPT0) =
      (if bitOf c0 5 = true ∧ bitOf v (fld c0 4 0) = true then setBit c0 5 false % 2 ^ 32 else c0) ∧
    (∀ x, x ≠ a → x ≠ pageOf page + Off.ERR_CAPT0 → (clearEvt (pkgOf s p) (pageOf page) v).rd x = (pkgOf s p).rd x) ∧
    (∀ x, x ∈ (clearEvt (pkgOf s p) (pageOf page) v).base.pins.fatalBits ↔
      x ∈ (pkgOf s p).base.pins.fatalBits ∧ ¬ (x / 32 = pageOf page ∧ bitOf v (x % 32) = true))) ∧
  (∀ (s : State) (p : Nat) (src : Src) (page v : Nat) (kd : PKind),
    Safety.reaches s p src (pageOf page + Off.EVT_FORCE) kd = true → v < 2 ^ 32 →
    let q := (bitList (evtBits kd v) 27).foldl (fun q i => forceEvt q (pageOf page) i) (pkgOf s p)
    exec (.evtForce p src page v) s = .next (Safety.written s p (pageOf page + Off.EVT_FORCE) q) ∧
    (∀ i, i < 27 → bitOf (evtBits kd v) i = true → bitOf (q.rd (pageOf page + Off.EVT_STAT)) i = true) ∧
    q.mem = (pkgOf s p).mem ∧ q.tl = (pkgOf s p).tl ∧ q.fab = (pkgOf s p).fab ∧ q.pwr = (pkgOf s p).pwr)

/-- A packet of control space arrives and leaves the port. One of a job's pitch is not served: the page it names records
CROSS_PITCH with the packet's pitch and source (the hub's page where the access breaks R33), and the answer is CROSS_PITCH (R20);
but a write of STRIKE_CTRL is an invalid strike request, refused there with reason 4 and answered as refused (R49, R56). A read and
a write of pitch 0, as one of a connection that is committed and in order, are served by the control space they name: a read
answers the registers' value, a write what the page does with it. One of a management connection that is next in order is served
and answered, and the connection expects the one after it (R209, R210, R219). Completes: CONTROL_SPACE_PACKET. -/
def Obligations.ControlPackets : Prop :=
  ∀ (s : State) (p port : Nat) (k : Pkt), k.op = .rwrite ∨ k.op = .rread →
    let x := takeDelivered (pkgOf s p) port k
    let src := Src.fabric k.pitch k.srcRack k.srcSlot
    let addr := globalAddr x.base.rack x.base.pos 1 k.offset
    (k.space = 1 → k.pitch ≠ 0 → strikeByJob x k = false →
      ¬ (k.payload.length = 8 ∧ offOf (k.offset + 4) = Off.STRIKE_CTRL) →
      exec (.controlSpacePacket p port k) s = .next { setPkg s p
        (answerMgmt (crossPitch x (crossPage x k) k.pitch addr (some (k.srcRack, k.srcSlot))) port k 0x10 k.psn []) with
          free := s.free + 1 }) ∧
    (∀ kd, k.space = 1 → k.pitch ≠ 0 → strikeByJob x k = true → sealedShut x = false →
      pageKind x.hubL1 (clsOf k.offset) (instOf k.offset) = some kd →
      exec (.controlSpacePacket p port k) s = .next { setPkg s p
        (answerMgmt (refuseWrite x src (pageOf k.offset) Off.STRIKE_CTRL (ofLe k.payload % 2 ^ 32) 4) port k 0x19 k.psn []) with
          free := s.free + 1 }) ∧
    (k.space = 1 → k.pitch = 0 → k.mgmt = false → 
      exec (.controlSpacePacket p port k) s =
        .next { setPkg s p (requestIn (ctlServe s.free) x port k) with free := s.free + 1 }) ∧
    (k.mgmt = true → k.pitch = 0 → k.conn = k.srcRack * 64 + k.srcSlot →
      ((x.mg k.conn).genIn ≠ k.gen ∧ k.sync = true ∨ (x.mg k.conn).genIn = k.gen ∧ (x.mg k.conn).expectPsn = k.psn) →
      exec (.controlSpacePacket p port k) s = .next { setPkg s p
        (serveAndAnswer s.free (x.setMg k.conn { x.mg k.conn with
          genIn := k.gen, expectPsn := (k.psn + 1) % 2 ^ 24, oooAnswered := none }) port k) with free := s.free + 1 }) ∧
    (k.space = 1 → k.op = .rread → k.arg = 4 → faultReason x k.offset 4 = 0 →
      ctlServe s.free x k = (x, 0, le 4 (read4 s.free x src k.offset))) ∧
    (k.space = 1 → k.op = .rwrite →
      ctlServe s.free x k = ((csWrite s.free x src k.offset k.payload.length (ofLe k.payload)).1,
        answerStatus (csWrite s.free x src k.offset k.payload.length (ofLe k.payload)).2, []))

/-! ## Strikes and pitches -/

/-- Step 1 of a strike: STRIKING and FENCED read 1 on every page in reach, and the fence entries of the pitch absorb, with their
pitch, rack and slots kept (R273).
A released pitch leaves the package: it is not hosted, holds no fence entry, no range, no connection and no group, and may
not be created again until 2 ms and the greatest HOLD_US have passed (R263, R273, R280); other pitches keep what they hold.
A tile assigned to a pitch: every page of the tile and its peg page carry the pitch in PITCH_OWNER, and LOCK reads 1 (R47, R262);
no other register changes, and no field of the page but these. -/
def Obligations.FenceAndRelease : Prop :=
  (∀ (p : Package) (x : Strike),
    (∀ a ∈ struckPages p x, (fenceStep p x).rdF (a + Off.PAGE_STAT) 3 2 = 3) ∧
    (∀ f ∈ (fenceStep p x).hub.fences, strikesPitch p x f.pitch = true → f.absorb = true) ∧
    (fenceStep p x).hub.fences.map (fun f => (f.pitch, f.rack, f.slots)) =
      p.hub.fences.map (fun f => (f.pitch, f.rack, f.slots)) ∧
    (fenceStep p x).mem = p.mem ∧ (fenceStep p x).tl = p.tl ∧ (fenceStep p x).fab = p.fab) ∧
  (∀ (p : Package) (q : Nat),
    mfind q (releasePitch p q).hub.hosted = none ∧
    (∀ f ∈ (releasePitch p q).hub.fences, f.pitch ≠ q) ∧ (∀ r ∈ (releasePitch p q).hub.ranges, r.pitch ≠ q) ∧
    (∀ e ∈ (releasePitch p q).fab.conns, e.2.pitch ≠ q) ∧ (∀ e ∈ (releasePitch p q).fab.grps, e.2.pitch ≠ q) ∧
    p.base.gtime + 2000000 ≤ mget 0 (releasePitch p q).hub.quarantine q ∧
    (∀ port < 18, p.base.gtime + 2000000 + 1000 * p.rdF (portReg p.base port Off.PORT_HOLD) 16 0
      ≤ mget 0 (releasePitch p q).hub.quarantine q) ∧
    (∀ q', q' ≠ q → mfind q' (releasePitch p q).hub.hosted = mfind q' p.hub.hosted ∧
      (releasePitch p q).hub.ranges.filter (fun r => decide (r.pitch = q')) = p.hub.ranges.filter (fun r => decide (r.pitch = q')))) ∧
  (∀ (p : Package) (q t : Nat), q < 4096 → t < 16 →
    (∀ page ∈ (List.range 16).map (tilePage t) ++ [pegPage t],
      ownerOf (assignTile q p t).base page = q ∧ bitOf ((assignTile q p t).rd (page + Off.PAGE_CTRL)) 2 = true ∧
      (assignTile q p t).rdF (page + Off.PAGE_CTRL) 1 0 = p.rdF (page + Off.PAGE_CTRL) 1 0) ∧
    (∀ a, (∀ page ∈ (List.range 16).map (tilePage t) ++ [pegPage t], a ≠ page + Off.PITCH_OWNER ∧ a ≠ page + Off.PAGE_CTRL) →
      (assignTile q p t).rd a = p.rd a) ∧
    (assignTile q p t).mem = p.mem ∧ (assignTile q p t).hub = p.hub ∧ (assignTile q p t).tl = p.tl)

/-- The commands of a strike's steps. A write of GO that R56 accepts begins the strike, with GO and REACH on its page; one of a
source that is not of pitch 0, or at a page whose REACH has no target, is refused with reason 4. The drain step ends when nothing
is outstanding, or at its bound, which drops the charge, counts what it abandons and shows DRAIN_ABANDONED on the page that asked;
the absorb step ends in the release. Completes: STRIKE_CTRL_GO, STRIKE_DRAIN_DONE, STRIKE_DRAIN_ABANDON, STRIKE_ABSORB_DONE. -/
def Obligations.StrikeSteps : Prop :=
  (∀ (s : State) (p : Nat) (src : Src) (page v : Nat) (kd : PKind) (x : Strike),
    Safety.arrives s p src (pageOf page + Off.STRIKE_CTRL) kd = true → v < 2 ^ 32 → bitOf v 0 = true → fromPitch0 src = true →
    strikeTarget (pkgOf s p) (pageOf page) (fld v 3 1) (requesterOf src) = some x →
    (pageStrikes (pkgOf s p) (pageOf page)).all (strictlyWider x) = true →
    let a := pageOf page + Off.STRIKE_CTRL
    exec (.strikeCtrlGo p src page v) s =
      .next (Safety.written s p a (beginStrike (((pkgOf s p).wrF a 3 1 (fld v 3 1)).wrF a 0 0 1) x))) ∧
  (∀ (s : State) (p : Nat) (src : Src) (page v : Nat) (kd : PKind),
    Safety.arrives s p src (pageOf page + Off.STRIKE_CTRL) kd = true → v < 2 ^ 32 →
    (fromPitch0 src = false ∨
      bitOf v 0 = true ∧ strikeTarget (pkgOf s p) (pageOf page) (fld v 3 1) (requesterOf src) = none) →
    exec (.strikeCtrlGo p src page v) s = .next (Safety.refused s p src (pageOf page + Off.STRIKE_CTRL) v 4)) ∧
  (∀ (s : State) (p sid : Nat) (x : Strike), strikeOf (pkgOf s p) sid = some x → strikeLive x = true → x.step = 3 →
    (strikeOutstanding (pkgOf s p) x = 0 →
      exec (.strikeDrainDone p sid) s = .next (setPkg s p (setStrike (pkgOf s p) { x with step := 4 }))) ∧
    (strikeOutstanding (pkgOf s p) x ≠ 0 →
      exec (.strikeDrainDone p sid) s = .next (setPkg s p (pkgOf s p)) ∧
      let q := if x.go then (pkgOf s p).wrF (x.page + Off.STRIKE_CTRL) 4 4 1 else pkgOf s p
      let conns := (pkgOf s p).fab.conns.map fun e => (e.1, abandonConn (pkgOf s p) x e.2)
      exec (.strikeDrainAbandon p sid) s = .next (setPkg s p (setStrike { q with fab := { q.fab with conns := conns } }
        { x with step := 4, abandoned := true, nAbandoned := x.nAbandoned + strikeOutstanding (pkgOf s p) x })))) ∧
  (∀ (s : State) (p sid : Nat) (x : Strike), strikeOf (pkgOf s p) sid = some x → strikeLive x = true → x.step = 4 →
    exec (.strikeAbsorbDone p sid) s =
      .next { setPkg s p (releaseStrike s.free (pkgOf s p) x) with free := s.free + 1 })

/-- Span strikes. A message that no delivered packet carries, of a peer that has not sent it before: where the pitch is not hosted
the hub answers at once, and else it strikes the pitch for that peer (R276). An answer takes its peer off the list of the pitch's
span strike; the last answer to one whose own share is released completes it, and one to a late strike is recorded. Unanswered
messages are sent again while the peers are not late; 2 ms after the request the strike completes with LAST_RESULT 2 and
DRAIN_ABANDONED and its peers are late, are sent the message again for 1 s, and are then recorded (R277). The uncommitting SETUPs
that a Weir has not accepted are sent again (R278). Completes: SPAN_STRIKE_MESSAGE, SPAN_STRIKE_ANSWER, SPAN_STRIKE_RESEND,
SPAN_STRIKE_TIMEOUT, LATE_PEER_RESEND, SETUP_UNCOMMIT_RESEND. -/
def Obligations.SpanStrikes : Prop :=
  (∀ (s : State) (p rack slot pitch : Nat),
    spanPacketIn (pkgOf s p) 2 rack slot pitch = none →
    ((pkgOf s p).hub.strikes.any fun x => decide (x.answerTo = some (rack, slot) ∧ x.pitch = pitch)) = false →
    exec (.spanStrikeMessage p rack slot pitch) s =
      .next { setPkg s p (if (mfind pitch (pkgOf s p).hub.hosted).isNone
          then mgmtIssue (pkgOf s p) (rack * 64 + slot) (mgmtOp pitch false 3 0 (le 4 pitch))
          else beginStrike (pkgOf s p) { newStrike (pkgOf s p) 0 3 3 pitch 0 3 with answerTo := some (rack, slot) }) with
        free := s.free + 1 }) ∧
  (∀ (s : State) (p rack slot pitch : Nat) (x : Strike),
    spanPacketIn (pkgOf s p) 3 rack slot pitch = none → spanStrikes (pkgOf s p) pitch = [x] → (rack, slot) ∈ x.peers →
    let y := { x with peers := x.peers.filter fun e => decide (e ≠ (rack, slot)) }
    (x.late = false →
      exec (.spanStrikeAnswer p rack slot pitch) s =
        .next { setPkg s p (if y.peers.isEmpty ∧ x.released
            then completeStrike (dropStrike (pkgOf s p) x.sid) y (if x.abandoned then 2 else 1) x.abandoned
            else setStrike (pkgOf s p) y) with free := s.free + 1 }) ∧
    (x.late = true →
      let q := strikeRing (pkgOf s p) (strikePayload y 3 2 (le 1 rack ++ le 1 slot ++ zeros 2))
      exec (.spanStrikeAnswer p rack slot pitch) s =
        .next { setPkg s p (if y.peers.isEmpty then dropStrike q x.sid else setStrike q y) with free := s.free + 1 })) ∧
  (∀ (s : State) (p pitch : Nat) (x : Strike), spanStrikes (pkgOf s p) pitch = [x] →
    let resent := { x.peers.foldl (fun q e => mgmtIssue q (e.1 * 64 + e.2) (mgmtOp x.pitch false 2 0 (le 4 x.pitch)))
      (pkgOf s p) with mem := (pkgOf s p).mem }
    (x.late = false → exec (.spanStrikeResend p pitch) s = .next (setPkg s p resent)) ∧
    (x.late = false → x.released = true → x.peers ≠ [] → x.step ≠ Strike.joining →
      exec (.spanStrikeTimeout p pitch) s = .next (setPkg s p
        { completeStrike (setStrike (pkgOf s p) { x with late := true }) x 2 true with mem := (pkgOf s p).mem })) ∧
    (x.late = true → (pkgOf s p).base.gtime < x.t0 + 1002000000 →
      exec (.latePeerResend p pitch) s = .next (setPkg s p resent)) ∧
    (x.late = true → x.t0 + 1002000000 ≤ (pkgOf s p).base.gtime →
      exec (.latePeerResend p pitch) s = .next (setPkg s p
        { x.peers.foldl (fun q e => latePeer q x e) (dropStrike (pkgOf s p) x.sid) with mem := (pkgOf s p).mem }))) ∧
  (∀ (s : State) (p g : Nat),
    exec (.setupUncommitResend p g) s = .next (setPkg s p
      { ((pkgOf s p).grp g).setupOwed.foldl (fun q port => sendSetup q g port uncommitImage) (pkgOf s p) with
        mem := (pkgOf s p).mem }))

/-- Pitch commands that the hub takes, with no field out of range (R264, R265), after bring-up of a package that has not failed
(R315), while no strike covers the pitch, a tile or the function named (R279): each answers OK with its data and has its effect.
PITCH_CREATE of a pitch that is not hosted and not in quarantine (R280), for a function that is free, hosts the pitch on the
tiles chosen, which are assigned to it with the function's page, substituting spare engines under SUBSTITUTE (R286). ADD_TILES
gives a hosted pitch further free tiles. ADD_DRAM adds a range of whole granules that overlaps no other and no dead stack.
ADD_FENCE adds an entry, or widens the pitch's own for that rack (R266). STRIKE begins its strike, to be answered at completion.
QUERY changes nothing but its reply. A command the hub takes and does not carry out answers its status and changes no hosted
pitch, no fence entry and no range, and no memory (R265): one with a field out of range answers BAD_COMMAND; a pitch hosted
already, one still in quarantine (R280), a package not brought up (R315), a range that is not whole granules, a pitch that is
not hosted. A command that arrives while a STRIKE command runs waits in its place: nothing else changes (R264). Completes:
PITCH_CREATE, ADD_TILES, ADD_DRAM, ADD_FENCE, STRIKE, QUERY, PITCH_BAD_COMMAND. -/
def Obligations.PitchCommands : Prop :=
  (∀ (s : State) (p : Nat) (via : Via) (cmd : Bytes) (y : Package),
      takeCommand (pkgOf s p) via cmd = .ok y → badCommand cmd = false → pitchStriking y (cmdPitch cmd) = false →
      let answer := fun (q : Package) (data : Bytes) => setPkg s p { pitchReply q via cmd 0 data with mem := (pkgOf s p).mem }
      let q := cmdPitch cmd
      let tiles := cmdTiles cmd
      let vf := byteAt cmd 10
      (byteAt cmd 0 = 0x10 → broughtUp y = true → packageFailed y = false → unitStriking y tiles [vf] = false →
        hostedHere y q = false → mget 0 y.hub.quarantine q ≤ y.base.gtime → y.hub.hosted.length < 16 →
        ownerOf y.base (vfPage vf) = 0 → (∀ e ∈ y.hub.hosted, e.2 ≠ vf) →
        ∀ given, chooseTiles y (bitOf (byteAt cmd 1) 0) tiles tiles [] = .ok given →
        let u := assignPage q (given.foldl (assignTile q) y) (vfPage vf)
        let w := if bitOf (byteAt cmd 1) 0 then given.foldl substituteEngine u else u
        exec (.pitchCreate p via cmd) s = .next (answer { w with hub := { w.hub with hosted := mset w.hub.hosted q vf } } (le 2 (ofBits given)))) ∧
      (byteAt cmd 0 = 0x11 → broughtUp y = true → packageFailed y = false → unitStriking y tiles [] = false →
        hostedHere y q = true → (∀ t ∈ tiles, t < y.tiles ∧ hollowPage y.base (tilePage t 0) = false ∧ ownerOf y.base (tilePage t 0) = 0) →
        exec (.addTiles p via cmd) s = .next (answer (tiles.foldl (assignTile q) y) (le 2 (ofBits tiles)))) ∧
      (byteAt cmd 0 = 0x12 → broughtUp y = true → packageFailed y = false → hostedHere y q = true →
        fieldAt cmd 8 8 % 0x200000 = 0 → fieldAt cmd 16 8 % 0x200000 = 0 → fieldAt cmd 16 8 ≠ 0 →
        fieldAt cmd 8 8 + fieldAt cmd 16 8 ≤ 0x4800000000 →
        (∀ u < 8, stackDead y u = false ∨ overlap (fieldAt cmd 8 8) (fieldAt cmd 16 8) (u * stackSize) stackSize = false) →
        (∀ r ∈ y.hub.ranges, overlap (fieldAt cmd 8 8) (fieldAt cmd 16 8) r.start r.len = false) → y.hub.ranges.length < 256 →
        exec (.addDram p via cmd) s = .next (answer { y with hub := { y.hub with
          ranges := y.hub.ranges ++ [{ pitch := q, start := fieldAt cmd 8 8, len := fieldAt cmd 16 8 }] } } [])) ∧
      (byteAt cmd 0 = 0x13 → broughtUp y = true → hostedHere y q = true →
        let mine := fun (f : Fence) => f.pitch = q ∧ f.rack = byteAt cmd 8
        ((∀ f ∈ y.hub.fences, ¬ mine f) → y.hub.fences.length < 64 →
          exec (.addFence p via cmd) s = .next (answer { y with hub := { y.hub with fences := y.hub.fences ++
            [{ absorb := false, pitch := q, rack := byteAt cmd 8, slots := fieldAt cmd 16 8 }] } } [])) ∧
        ((∃ f ∈ y.hub.fences, mine f) →
          let widen := fun (f : Fence) =>
            if f.pitch = q ∧ f.rack = byteAt cmd 8 then { f with slots := f.slots ||| fieldAt cmd 16 8 } else f
          exec (.addFence p via cmd) s = .next (answer { y with hub := { y.hub with fences := y.hub.fences.map widen } } []))) ∧
      (byteAt cmd 0 = 0x14 → broughtUp y = true → (byteAt cmd 8 = 5 ∨ hostedHere y q = true) →
        exec (.strike p via cmd) s = .next (setPkg s p (beginStrike y
          { newStrike y (if via = .mailbox then pfPage else hubPage 0) (byteAt cmd 8) (byteAt cmd 8)
              (if byteAt cmd 8 = 5 then 0 else q) 0 (if via = .mailbox then 0 else 1) with replyTo := some (via, cmd) }))) ∧
      (byteAt cmd 0 = 0x15 → exec (.query p via cmd) s = .next (answer y (queryPitch y cmd).2.2))) ∧
  ((∀ (s : State) (p : Nat) (via : Via) (cmd : Bytes) (y : Package),
      takeCommand (pkgOf s p) via cmd = .ok y →
      let answer := fun (st : Nat) => setPkg s p { pitchReply y via cmd st [] with mem := (pkgOf s p).mem }
      (badCommand cmd = true → exec (.pitchBadCommand p via cmd) s = .next (answer 0x01)) ∧
      (badCommand cmd = false → broughtUp y = false →
        (byteAt cmd 0 = 0x10 → exec (.pitchCreate p via cmd) s = .next (answer 0x08)) ∧
        (byteAt cmd 0 = 0x11 → exec (.addTiles p via cmd) s = .next (answer 0x08)) ∧
        (byteAt cmd 0 = 0x12 → exec (.addDram p via cmd) s = .next (answer 0x08)) ∧
        (byteAt cmd 0 = 0x13 → exec (.addFence p via cmd) s = .next (answer 0x08))) ∧
      (badCommand cmd = false → broughtUp y = true → packageFailed y = false → pitchStriking y (cmdPitch cmd) = false →
        (byteAt cmd 0 = 0x10 → unitStriking y (cmdTiles cmd) [byteAt cmd 10] = false → hostedHere y (cmdPitch cmd) = true →
          exec (.pitchCreate p via cmd) s = .next (answer 0x02)) ∧
        (byteAt cmd 0 = 0x10 → unitStriking y (cmdTiles cmd) [byteAt cmd 10] = false → hostedHere y (cmdPitch cmd) = false →
          y.base.gtime < mget 0 y.hub.quarantine (cmdPitch cmd) → exec (.pitchCreate p via cmd) s = .next (answer 0x09)) ∧
        (byteAt cmd 0 = 0x12 → hostedHere y (cmdPitch cmd) = true →
          fieldAt cmd 8 8 % 0x200000 ≠ 0 ∨ fieldAt cmd 16 8 % 0x200000 ≠ 0 ∨ fieldAt cmd 16 8 = 0 →
          exec (.addDram p via cmd) s = .next (answer 0x07)) ∧
        (byteAt cmd 0 = 0x13 → hostedHere y (cmdPitch cmd) = false → exec (.addFence p via cmd) s = .next (answer 0x03)))) ∧
    (∀ (s : State) (p : Nat) (cmd : Bytes), byteAt cmd 0 = 0x15 → commandRuns (pkgOf s p) = true →
      (pkgOf s p).base.msp.inbox.take (mspMessage 0x83 cmd).length = mspMessage 0x83 cmd → (pkgOf s p).base.msp.inbox ≠ [] →
      exec (.query p .msp cmd) s = .next (setPkg s p (pkgOf s p))))

/-! ## Reset -/

/-- What an accepted reset leaves. The ember record counts it, saturating, and holds its cause and reach (R296, R297). Reach 2 or 3
clears the units, memory, every pitch, fence and strike, the MSP's registers and queues and time; reach 3 also the hub event ring,
which reach 2 keeps (R294). Reach 1 clears the units, memory and pitches, and leaves the MSP and time running (R294, R295, R434).
RESET_N. An accepted pulse is a reset of the package at the reach of R292, counted with cause 8, or 9 while a reset or kindling
runs; a reach-1 reset waits for the hub, whose acknowledgement applies it, or is applied as reach 2 with ESCALATED set (R293). With
the power-on source asserted there is no second reset. A Weir's reset is of reach 3 (R322). A glitch moves only the pin's own count
of GLITCH_CNT at a Weir, and raises GLITCH at a package (R291, R317). The pin's release ends the reset once nothing else holds
it. Completes: RESET_PULSE_ACCEPTED, HUB_RESET_ACK, RESET_ESCALATE, RESET_GLITCH, RESET_PIN_RELEASE. -/
def Obligations.Resets : Prop :=
  (∀ (b : Base) (cause reach : Nat), cause < 16 → reach < 4 →
    rdF (emberRecord b cause reach) (em Off.LAST_CAUSE) 3 0 = cause ∧ rdF (emberRecord b cause reach) (em Off.LAST_CAUSE) 5 4 = reach ∧
    rd (emberRecord b cause reach) (em Off.RESET_COUNT) = min 0xFFFFFFFF (rd b (em Off.RESET_COUNT) + 1)) ∧
  (∀ (p : Package) (reach : Nat), reach = 2 ∨ reach = 3 →
    let q := applyReset reach p
    q.base.kin.phase = .inReset reach ∧ q.mem = {} ∧ q.tl = {} ∧ q.fab = {} ∧ q.dies = {} ∧ q.hub.hosted = [] ∧ q.hub.fences = [] ∧
    q.hub.ranges = [] ∧ q.hub.strikes = [] ∧ q.base.msp = {} ∧ q.base.time.now = 0 ∧ q.host = {} ∧
    q.hub.ring = (if reach = 3 then [] else p.hub.ring)) ∧
  (∀ (p : Package),
    let q := applyReset 1 p
    q.base.kin.phase = .inReset 1 ∧ q.hub.hosted = [] ∧ q.hub.fences = [] ∧ q.hub.ranges = [] ∧
    q.hub.strikes = [] ∧ q.base.time = p.base.time ∧ q.dies = p.dies ∧ q.mem.cells = [] ∧ q.mem.dramClean = []) ∧
  (∀ w : Weir, (applyWeirReset w).base.kin.phase = .inReset 3 ∧ (applyWeirReset w).ctxs = [] ∧ (applyWeirReset w).base.ports = [] ∧
    (applyWeirReset w).base.msp = {} ∧ (∀ a, pageOf a = emberPage → rd (applyWeirReset w).base a = rd w.base a)) ∧
  (∀ (s : State) (k : Nat),
    let p := pkgOf s k
    let w := weirOf s k
    let low := fun (b : Base) => { b with kin := { b.kin with resetLow := true } }
    let cause := fun (b : Base) => if duringNow b = 1 then 9 else 8
    (p.base.kin.resetLow = false → p.base.pwr.asserted = false → resetReach p.base ≠ 1 →
      exec (.resetPulseAccepted (.pkg k) .resetN) s = .next (setPkg s k (applyReset (resetReach p.base)
        { p with base := emberRecord (low p.base) (cause p.base) (resetReach p.base) }))) ∧
    (p.base.kin.resetLow = false → p.base.pwr.asserted = false → resetReach p.base = 1 →
      let b := emberRecord (low p.base) (cause p.base) 1
      exec (.resetPulseAccepted (.pkg k) .resetN) s =
        .next (setPkg s k { p with base := { b with kin := { b.kin with pending1 := true } } })) ∧
    (p.base.kin.resetLow = false → p.base.pwr.asserted = true →
      exec (.resetPulseAccepted (.pkg k) .resetN) s = .next (setPkg s k { p with base := low p.base })) ∧
    (p.base.kin.pending1 = true →
      (∃ t, exec (.hubResetAck k) s = .next t ∧ (pkgOf t k).base.kin.pending1 = false ∧ (pkgOf t k).hub.hosted = [] ∧
        (pkgOf t k).base.kin.phase =
          (if p.base.kin.resetLow ∨ p.base.pwr.asserted then .inReset 1 else .bringup 2)) ∧
      (∃ t, exec (.resetEscalate k) s = .next t ∧ (pkgOf t k).base.kin.pending1 = false ∧ (pkgOf t k).mem = {} ∧
        (p.base.kin.resetLow = true → (pkgOf t k).base.kin.phase = .inReset 2))) ∧
    (∀ pin, ∃ t, exec (.resetGlitch (.pkg k) pin) s = .next t ∧ (pkgOf t k).mem = p.mem ∧ (pkgOf t k).base.kin = p.base.kin ∧
      bitOf ((pkgOf t k).rd (emberPage + Off.EVT_STAT)) 0 = true) ∧
    exec (.resetGlitch (.weir k) .resetN) s = .next (setWeir s k { w with base := bumpF w.base (em Off.GLITCH_CNT) 15 0 }) ∧
    exec (.resetGlitch (.weir k) .porstN) s = .next (setWeir s k { w with base := bumpF w.base (em Off.GLITCH_CNT) 31 16 }) ∧
    (w.base.kin.resetLow = false → w.base.pwr.asserted = false →
      exec (.resetPulseAccepted (.weir k) .resetN) s =
        .next (setWeir s k (applyWeirReset { w with base := emberRecord (low w.base) (cause w.base) 3 }))) ∧
    (p.base.kin.resetLow = true → p.base.pwr.asserted = false → p.base.kin.pending1 = false → p.base.kin.phase = .inReset 1 →
      ∃ t, exec (.resetPinRelease (.pkg k) .resetN) s = .next t ∧ (pkgOf t k).base.kin.resetLow = false ∧
        (pkgOf t k).base.kin.phase = .bringup 2 ∧ (pkgOf t k).mem = p.mem) ∧
    exec (.resetPinRelease (.pkg k) .porstN) s =
      .next (setPkg s k { p with base := { p.base with pwr := { p.base.pwr with porst := false } } }) ∧
    exec (.resetPinRelease (.weir k) .porstN) s =
      .next (setWeir s k { w with base := { w.base with pwr := { w.base.pwr with porst := false } } }))

/-- The power-on source. A condition that rises while the source is not asserted asserts it: an accepted reset of reach 3, with the
cause of the conditions that hold (R290, R297): undervoltage, a rail, an overvoltage, a thermal trip, which also drives THERMTRIP_N
(R367); an accepted PORST_N is a reset of its own even while the source is asserted, and releases THERMTRIP_N (R291). An ember cold start is a
power-on reset of cause 6 (R296). A Weir has the same sources, but for the overvoltage (R322, R347).
A condition that rises while the power-on source is asserted only holds it longer, and a condition that ends only stops
holding it: no reset, no register changes (R290, R347). Once none holds, POWER_ON_RELEASE releases the source, and where no pin or
waiting reset holds the element, kindling begins at phase 1 with its message queues empty, a package on to phase 2 (R301); a bad
fuse CRC holds the element there. Completes: INPUT_UNDERVOLTAGE, UNDERVOLTAGE_CLEAR, INPUT_OVERVOLTAGE, OVERVOLTAGE_CLEAR,
INRUSH_LIMIT_END, RAIL_OUT_OF_REGULATION, RAIL_REGULATED, THERMAL_TRIP, EMBER_COLD_START, POWER_ON_RELEASE. -/
def Obligations.PowerOn : Prop :=
  (∀ (s : State) (k : Nat),
    let p := pkgOf s k
    let go := fun (b : Base) (x : PowerIn) =>
      setPkg s k (applyReset 3 { p with base := emberRecord { b with pwr := { x with asserted := true } } (powerCause x) 3 })
    (p.base.pwr.asserted = false →
      exec (.inputUndervoltage (.pkg k)) s = .next (go p.base { p.base.pwr with undervoltage := true, inrush := true }) ∧
      exec (.inputOvervoltage (.pkg k)) s = .next (go p.base { p.base.pwr with overvoltage := true }) ∧
      exec (.railOutOfRegulation (.pkg k)) s = .next (go p.base { p.base.pwr with rail := true }) ∧
      exec (.thermalTrip (.pkg k)) s = .next (go { p.base with pins := { p.base.pins with thermtrip := true } } { p.base.pwr with trip := true })) ∧
    (p.base.pwr.porst = false →
      exec (.resetPulseAccepted (.pkg k) .porstN) s = .next (go { p.base with pins := { p.base.pins with thermtrip := false } } { p.base.pwr with porst := true, trip := false })) ∧
    exec (.emberColdStart (.pkg k)) s =
      .next (setPkg s k (applyReset 3 { p with base := emberRecord (coldBase p.base) 6 3 }))) ∧
  (∀ (s : State) (k : Nat),
    let w := weirOf s k
    let go := fun (b : Base) (x : PowerIn) =>
      setWeir s k (applyWeirReset { w with base := emberRecord { b with pwr := { x with asserted := true } } (powerCause x) 3 })
    (w.base.pwr.asserted = false →
      exec (.inputUndervoltage (.weir k)) s = .next (go w.base { w.base.pwr with undervoltage := true, inrush := true }) ∧
      exec (.railOutOfRegulation (.weir k)) s = .next (go w.base { w.base.pwr with rail := true }) ∧
      exec (.thermalTrip (.weir k)) s = .next (go { w.base with pins := { w.base.pins with thermtrip := true } } { w.base.pwr with trip := true })) ∧
    exec (.inputOvervoltage (.weir k)) s = .next (setWeir s k w) ∧
    (w.base.pwr.porst = false →
      exec (.resetPulseAccepted (.weir k) .porstN) s = .next (go { w.base with pins := { w.base.pins with thermtrip := false } } { w.base.pwr with porst := true, trip := false })) ∧
    exec (.emberColdStart (.weir k)) s = .next (setWeir s k (applyWeirReset { w with base := emberRecord (coldBase w.base) 6 3 }))) ∧
  (∀ (s : State) (k : Nat),
    let p := pkgOf s k
    let w := weirOf s k
    let pset := fun (x : PowerIn) => setPkg s k { p with base := { p.base with pwr := x } }
    let wset := fun (x : PowerIn) => setWeir s k { w with base := { w.base with pwr := x } }
    (p.base.pwr.asserted = true →
      exec (.inputUndervoltage (.pkg k)) s = .next (pset { p.base.pwr with undervoltage := true, inrush := true }) ∧
      exec (.railOutOfRegulation (.pkg k)) s = .next (pset { p.base.pwr with rail := true })) ∧
    exec (.undervoltageClear (.pkg k)) s = .next (pset { p.base.pwr with undervoltage := false }) ∧
    exec (.overvoltageClear (.pkg k)) s = .next (pset { p.base.pwr with overvoltage := false }) ∧
    exec (.railRegulated (.pkg k)) s = .next (pset { p.base.pwr with rail := false }) ∧
    exec (.inrushLimitEnd (.pkg k)) s = .next (pset { p.base.pwr with inrush := false }) ∧
    exec (.undervoltageClear (.weir k)) s = .next (wset { w.base.pwr with undervoltage := false }) ∧
    exec (.overvoltageClear (.weir k)) s = .next (wset { w.base.pwr with overvoltage := false }) ∧
    exec (.railRegulated (.weir k)) s = .next (wset { w.base.pwr with rail := false }) ∧
    exec (.inrushLimitEnd (.weir k)) s = .next (wset { w.base.pwr with inrush := false }) ∧
    (p.base.pwr = { inrush := p.base.pwr.inrush, asserted := true } → p.base.kin.resetLow = false → p.base.kin.pending1 = false →
      p.base.kin.phase = .inReset 3 → p.base.isWeir = false →
      ∃ t, exec (.powerOnRelease (.pkg k)) s = .next t ∧ (pkgOf t k).base.pwr.asserted = false ∧
        (pkgOf t k).base.kin.phase = (if p.base.kin.fuseBad then .kindleStuck else .kindling 2) ∧
        (pkgOf t k).base.msp.inbox = [] ∧ (pkgOf t k).base.msp.outbox = [] ∧ (pkgOf t k).base.kin.resetEnd = p.base.time.raw ∧
        (pkgOf t k).mem = p.mem ∧ (pkgOf t k).hub = p.hub) ∧
    (w.base.pwr = { inrush := w.base.pwr.inrush, asserted := true } → w.base.kin.resetLow = false → w.base.kin.pending1 = false →
      w.base.kin.phase = .inReset 3 → w.base.isWeir = true →
      ∃ t, exec (.powerOnRelease (.weir k)) s = .next t ∧ (weirOf t k).base.pwr.asserted = false ∧
        (weirOf t k).base.kin.phase = (if w.base.kin.fuseBad then .kindleStuck else .kindling 3)))

/-! ## Kindling, bring-up and the MSP slave -/

/-- Kindling's phases 2 to 4. Eight samples in one band's window put that band in force and lead to phase 3; a measurement
that is not unambiguous is repeated, and the fifth one gives band 15 (R298, R299). REFCLK ends the wait of phase 3 (R301). The hub
whose self-test passes is chosen and its image is requested; when the first candidate fails the other is tried, and with a forced hub, or
the second, kindling holds (R68). Completes: STRAP_MEASUREMENT, REFCLK_PRESENT, HUB_SELF_TEST_DONE. -/
def Obligations.KindlingPhases : Prop :=
  (∀ (s : State) (p : Nat) (l : List Nat), (pkgOf s p).base.kin.phase = .kindling 2 → l.length = 8 →
    let n := (pkgOf s p).rdF (kindlePage + Off.KINDLE_STAT) 5 3
    (∀ band, (∀ x ∈ l, bandOf x = some band) →
      ∃ t, exec (.strapMeasurement p l) s = .next t ∧ (pkgOf t p).base.kin.phase = .kindling 3 ∧ (pkgOf t p).band = band ∧
        (pkgOf t p).mem = (pkgOf s p).mem ∧ (pkgOf t p).hub = (pkgOf s p).hub) ∧
    (n < 4 → (¬ ∃ band, ∀ x ∈ l, bandOf x = some band) →
      ∃ t, exec (.strapMeasurement p l) s = .next t ∧ (pkgOf t p).base.kin.phase = .kindling 2 ∧
        (pkgOf t p).rdF (kindlePage + Off.KINDLE_STAT) 5 3 = n + 1 ∧ (pkgOf t p).band = (pkgOf s p).band) ∧
    (n = 4 → (¬ ∃ band, ∀ x ∈ l, bandOf x = some band) →
      ∃ t, exec (.strapMeasurement p l) s = .next t ∧ (pkgOf t p).base.kin.phase = .kindling 3 ∧ (pkgOf t p).band = 15 ∧
        (pkgOf t p).rdF (pg 3 0 + Off.STRAP_STAT) 14 14 = 1)) ∧
  (∀ (s : State) (k : Nat),
    (∃ t, exec (.refclkPresent (.pkg k)) s = .next t ∧ (pkgOf t k).base.kin.refclk = true ∧
      (pkgOf t k).base.kin.phase = (pkgOf s k).base.kin.phase) ∧
    (∃ t, exec (.refclkPresent (.weir k)) s = .next t ∧ (weirOf t k).base.kin.refclk = true)) ∧
  (∀ (s : State) (k hub : Nat), (pkgOf s k).base.kin.phase = .kindling 3 → (pkgOf s k).base.kin.refclk = true →
    hub = (bandHub (pkgOf s k).band).getD (pkgOf s k).base.kin.hubTried → hub < 2 →
    (∃ t, exec (.hubSelfTestDone (.pkg k) hub true) s = .next t ∧ (pkgOf t k).base.kin.phase = .kindling 4 ∧
      (pkgOf t k).base.pins.hb = true ∧ (pkgOf t k).base.kin.slot = bandSlot (pkgOf s k).band) ∧
    (bandHub (pkgOf s k).band = none → hub = 0 →
      ∃ t, exec (.hubSelfTestDone (.pkg k) hub false) s = .next t ∧ (pkgOf t k).base.kin.phase = .kindling 3 ∧
        (pkgOf t k).base.kin.hubTried = 1) ∧
    ((bandHub (pkgOf s k).band).isSome ∨ hub = 1 →
      ∃ t, exec (.hubSelfTestDone (.pkg k) hub false) s = .next t ∧ (pkgOf t k).base.kin.phase = .kindleStuck)) ∧
  (∀ (s : State) (k hub : Nat) (pass : Bool), (weirOf s k).base.kin.phase = .kindling 3 → (weirOf s k).base.kin.refclk = true →
    ∃ t, exec (.hubSelfTestDone (.weir k) hub pass) s = .next t ∧
      (weirOf t k).base.kin.phase = (if pass then .kindling 4 else .kindleStuck))

/-- The image and the blob. Where the image of a slot is not delivered in time the other slot is fetched, once, with the fallback
noted, and after both kindling holds in phase 4 until IMAGE_SLOT_RETRY tries the strap's slot again (R303). A delivered image whose
signature verifies runs and the blob is requested; a delivery of another length is a failed request, one that does not verify a
failed slot. A blob request is repeated, and after three in bench mode kindling ends on bench defaults (R300, R304). A valid blob
ends kindling: the package holds in a hold band, with HOLDING shown, and begins bring-up else (R305, R306). Completes:
IMAGE_REQUEST_TIMEOUT, IMAGE_SLOT_RETRY, BLOB_REQUEST_RETRY, BULK_DONE, BULK_UNAVAILABLE. -/
def Obligations.ImageAndBlob : Prop :=
  (∀ (s : State) (k : Nat), let b := (pkgOf s k).base
    (wantsImage b = true → b.kin.slotsFailed = 0 →
      ∃ t, exec (.imageRequestTimeout (.pkg k)) s = .next t ∧ (pkgOf t k).base.kin.slot = 1 - b.kin.slot ∧
        (pkgOf t k).base.kin.slotsFailed = 1 ∧ (pkgOf t k).base.kin.fallback = true ∧ (pkgOf t k).base.kin.imgTries = 1) ∧
    (wantsImage b = true → b.kin.slotsFailed = 1 →
      ∃ t, exec (.imageRequestTimeout (.pkg k)) s = .next t ∧ (pkgOf t k).base.kin.slotsFailed = 2 ∧
        (pkgOf t k).base.kin.phase = .kindling 4) ∧
    (b.kin.phase = .kindling 4 → b.kin.slotsFailed = 2 →
      ∃ t, exec (.imageSlotRetry (.pkg k)) s = .next t ∧ (pkgOf t k).base.kin.slotsFailed = 0 ∧
        (pkgOf t k).base.kin.slot = firstSlot b ∧ (pkgOf t k).base.kin.imgTries = 1) ∧
    (wantsImage b = true → b.msp.inbox = [] → ∀ n,
      (b.msp.bulkIn.length = n → b.kin.slotsFailed = 0 → isSealed (pkgOf s k) = false →
        ∃ t, exec (.bulkDone (.pkg k) 1 n) s = .next t ∧
          (pkgOf t k).base.kin.imgRunning = imgVerifies b.msp.bulkIn ∧ (pkgOf t k).base.kin.phase = .kindling 4 ∧
          (pkgOf t k).base.kin.slot = (if imgVerifies b.msp.bulkIn then b.kin.slot else 1 - b.kin.slot)) ∧
      (b.msp.bulkIn.length ≠ n → b.kin.imgTries < 3 →
        ∃ t, exec (.bulkDone (.pkg k) 1 n) s = .next t ∧ (pkgOf t k).base.kin.imgRunning = false ∧
          (pkgOf t k).base.kin.slot = b.kin.slot ∧ (pkgOf t k).base.kin.imgTries = b.kin.imgTries + 1)) ∧
    (wantsImage b = true → b.msp.inbox = [] → b.kin.imgTries < 3 →
      ∃ t, exec (.bulkUnavailable (.pkg k) 1) s = .next t ∧ (pkgOf t k).base.kin.slot = b.kin.slot ∧
        (pkgOf t k).base.kin.imgTries = b.kin.imgTries + 1) ∧
    (b.kin.phase = .kindling 4 → b.kin.imgRunning = true → b.isWeir = false →
      (((pkgOf s k).bench = false ∨ (pkgOf s k).rdF (kindlePage + Off.KINDLE_STAT) 23 16 < 3) →
        ∃ t, exec (.blobRequestRetry (.pkg k)) s = .next t ∧ (pkgOf t k).base.kin.phase = .kindling 4 ∧
          (pkgOf t k).rdF (kindlePage + Off.KINDLE_STAT) 23 16 =
            min 255 ((pkgOf s k).rdF (kindlePage + Off.KINDLE_STAT) 23 16 + 1)) ∧
      ((pkgOf s k).bench = true → 3 ≤ (pkgOf s k).rdF (kindlePage + Off.KINDLE_STAT) 23 16 →
        ∃ t, exec (.blobRequestRetry (.pkg k)) s = .next t ∧ (pkgOf t k).base.rack = 0 ∧ (pkgOf t k).base.pos = 0 ∧
          (pkgOf t k).base.kin.phase = (if bandHold (pkgOf s k).band then .held else .bringup 1))) ∧
    (∀ n l, wantsBlob b = true → b.msp.inbox = [] → b.msp.bulkIn.length = n →
      readBlob b.msp.bulkIn ((pkgOf s k).rd (pg 3 1 + Off.ID_SERIAL_LO)) (if (pkgOf s k).bench then [] else [1, 6]) = some l →
      exec (.bulkDone (.pkg k) 2 n) s =
        .next { setPkg s k (finishKindling s.free (loadBlob (pkgOf s k) l)) with free := s.free + 1 })) ∧
  (∀ (s : State) (k : Nat), let b := (weirOf s k).base
    (wantsImage b = true → b.kin.slotsFailed = 0 →
      ∃ t, exec (.imageRequestTimeout (.weir k)) s = .next t ∧ (weirOf t k).base.kin.slot = 1 - b.kin.slot) ∧
    (b.kin.phase = .kindling 4 → b.kin.slotsFailed = 2 →
      ∃ t, exec (.imageSlotRetry (.weir k)) s = .next t ∧ (weirOf t k).base.kin.slotsFailed = 0) ∧
    (b.kin.phase = .kindling 4 → b.kin.imgRunning = true →
      ∃ t, exec (.blobRequestRetry (.weir k)) s = .next t ∧ (weirOf t k).base.kin.phase = .kindling 4) ∧
    (wantsImage b = true → b.msp.inbox = [] → b.kin.slotsFailed = 0 → ∀ n, b.msp.bulkIn.length = n →
      ∃ t, exec (.bulkDone (.weir k) 1 n) s = .next t ∧ (weirOf t k).base.kin.imgRunning = imgVerifies b.msp.bulkIn) ∧
    (wantsImage b = true → b.msp.inbox = [] → b.kin.imgTries < 3 →
      ∃ t, exec (.bulkUnavailable (.weir k) 1) s = .next t ∧ (weirOf t k).base.kin.slot = b.kin.slot))

/-- The hold ends by a write of RELEASE from the physical function, or by MSP_CMD.RELEASE: HOLDING reads 0 and bring-up begins at
step 1 (R305).
Bring-up's steps end. Step 1: 48 trained links lead to step 2, a link that failed fails the package (R63, R306, R312, R314). Step 2: at
least one tile that passed leads to step 3, with as many logical tiles as passed, and none fails the package (R313). Step 3: the
stacks that trained read TRAINED, and ports are enabled in step 4 (R306, R307). Step 4, once every enabled port is settled, leads
through steps 5 and 6 to READY or DEGRADED (R306, R314), at a Weir likewise (R322). Completes: BRINGUP_RELEASE, MSP_RELEASE,
DIE_LINKS_TRAINED, TILE_TEST_DONE, DRAM_TRAINING_DONE, PORT_TRAINING_DONE. -/
def Obligations.BringupSteps : Prop :=
  (∀ (s : State) (p : Nat), (pkgOf s p).base.kin.phase = .held →
    (∃ t, exec (.mspRelease p) s = .next t ∧ (pkgOf t p).base.kin.phase = .bringup 1 ∧ (pkgOf t p).mem = (pkgOf s p).mem ∧
      (pkgOf t p).hub = (pkgOf s p).hub) ∧
    (Safety.reaches s p .pf (kindlePage + Off.BRINGUP_CTL) .kindle = true →
      ∃ t, exec (.bringupRelease p .pf) s = .next t ∧ (pkgOf t p).base.kin.phase = .bringup 1)) ∧
  (∀ (s : State) (p : Nat) (rs : List LinkResult), (pkgOf s p).base.kin.phase = .bringup 1 →
    ((∀ r ∈ rs, r.link < 48 → linkOk r = true) → (∀ n < 48, ∃ r ∈ rs, r.link = n) →
      ∃ t, exec (.dieLinksTrained p rs) s = .next t ∧ (pkgOf t p).base.kin.phase = .bringup 2 ∧ (pkgOf t p).mem = (pkgOf s p).mem) ∧
    ((∃ r ∈ rs, r.link < 48 ∧ linkOk r = false) →
      ∃ t, exec (.dieLinksTrained p rs) s = .next t ∧ (pkgOf t p).base.kin.phase = .failed)) ∧
  (∀ (s : State) (p : Nat) (rs : List TileResult), (pkgOf s p).base.kin.phase = .bringup 2 →
    (passingTiles (pkgOf s p) rs ≠ [] →
      ∃ t, exec (.tileTestDone p rs) s = .next t ∧ (pkgOf t p).base.kin.phase = .bringup 3 ∧
        (pkgOf t p).rd (hubPage 1 + Off.LTILE_COUNT) = (passingTiles (pkgOf s p) rs).length ∧
        (pkgOf t p).mem.cells = (pkgOf s p).mem.cells) ∧
    (passingTiles (pkgOf s p) rs = [] →
      ∃ t, exec (.tileTestDone p rs) s = .next t ∧ (pkgOf t p).base.kin.phase = .failed)) ∧
  (∀ (s : State) (p trained full : Nat), (pkgOf s p).base.kin.phase = .bringup 3 → (pkgOf s p).bench = false →
    ∃ t, exec (.dramTrainingDone p trained full) s = .next t ∧ (pkgOf t p).base.kin.phase = .bringup 4 ∧ t.free = s.free + 1) ∧
  (∀ (s : State) (k : Nat), (pkgOf s k).base.kin.phase = .bringup 4 → portsSettled (pkgOf s k).base = true →
    exec (.portTrainingDone (.pkg k)) s = .next { setPkg s k (finishBringup s.free (epoch0Tables
      (if anyPortFull (pkgOf s k).base then usedFull (pkgOf s k) else pkgOf s k))) with free := s.free + 1 }) ∧
  (∀ (s : State) (k : Nat), (weirOf s k).base.kin.phase = .bringup 4 → portsSettled (weirOf s k).base = true →
    ∃ t, exec (.portTrainingDone (.weir k)) s = .next t ∧ (weirOf t k).base.kin.phase = .running ∧
      rd (weirOf t k).base 0x10000 = 4)

/-- The MSP slave's registers, at a package: a read shifts out consecutive registers, the index rising modulo 64 (R405, R406); a
write of CS_ADDR or CS_DATA stores while no access runs (R409); BULK_RESET empties both bulk buffers and MSP_ERR_CLR the error
counts (R407). A raw write to the inbox or the bulk buffer adds what fits and counts the rest, a raw read takes words from the
outbox, and a raw command with a nonzero low field is counted in BAD_CMD (R405, R410). A transaction's end counts a partial word
(R412); a stopped clock abandons the transaction, and while the slave takes none every word reads as all ones (R402, R405, R412). No MSP row moves a byte of package memory. The same registers of a Weir's
slave (R323). The control-space window. A GO while BUSY gives RESULT 4; one without a running hub stays BUSY until CS_TIMEOUT
ends it with RESULT 3; a read answers with the register's value in CS_DATA and RESULT 0, a fault with RESULT 1; a write that is
taken gives RESULT 0 and one that is refused RESULT 2 with its reason (R409). Completes: MSP_REGISTER_READ, MSP_REGISTER_WRITE,
MSP_RAW_WRITE, MSP_RAW_READ, BULK_RESET, MSP_ERR_CLR, MSP_SELECT_END, MSP_EDGE_TIMEOUT, CS_GO, CS_TIMEOUT. -/
def Obligations.MspRegisters : Prop :=
  ((∀ (s : State) (k : Nat), let b := (pkgOf s k).base
      (mspTakes b = true →
        (∀ idx n, ∃ t, exec (.mspRegisterRead (.pkg k) idx n) s = .next t ∧
          (pkgOf t k).base.msp.lastRead = (List.range n).map (fun i => w32 (mspReg b ((idx + i) % 64))) ∧
          (pkgOf t k).base.regs = b.regs ∧ (pkgOf t k).mem = (pkgOf s k).mem) ∧
        (∀ v, b.msp.csBusy = false →
          (∃ t, exec (.mspRegisterWrite (.pkg k) 8 [v]) s = .next t ∧ (pkgOf t k).base.msp.csAddr = v ∧
            (pkgOf t k).base.regs = b.regs ∧ (pkgOf t k).mem = (pkgOf s k).mem) ∧
          (∃ t, exec (.mspRegisterWrite (.pkg k) 9 [v]) s = .next t ∧ (pkgOf t k).base.msp.csLo = v)) ∧
        (∀ ws, b.msp.inbox.length + ws.length ≤ 1024 →
          ∃ t, exec (.mspRawWrite (.pkg k) 0 ws) s = .next t ∧ (pkgOf t k).base.msp.inbox = b.msp.inbox ++ ws) ∧
        (∀ ws, b.msp.bulkIn.length + 4 * ws.length ≤ 2 ^ 22 →
          ∃ t, exec (.mspRawWrite (.pkg k) 32 ws) s = .next t ∧ (pkgOf t k).base.msp.bulkIn = b.msp.bulkIn ++ wireBytes ws) ∧
        (∀ ws cmd, cmd % 32 ≠ 0 →
          ∃ t, exec (.mspRawWrite (.pkg k) cmd ws) s = .next t ∧ (pkgOf t k).base.msp.inbox = b.msp.inbox ∧
            fld (pkgOf t k).base.msp.err.toNat 15 8 = min 255 (fld b.msp.err.toNat 15 8 + 1)) ∧
        (∀ n, n ≤ b.msp.outbox.length →
          ∃ t, exec (.mspRawRead (.pkg k) 0 n) s = .next t ∧ (pkgOf t k).base.msp.lastRead = b.msp.outbox.take n ∧
            (pkgOf t k).base.msp.outbox = b.msp.outbox.drop n)) ∧
      (mspTakes b = false → ∀ cmd n,
        (∃ t, exec (.mspRegisterRead (.pkg k) cmd n) s = .next t ∧ (pkgOf t k).base.msp.lastRead = List.replicate n (w32 0xFFFFFFFF)) ∧
        (∃ t, exec (.mspRawRead (.pkg k) cmd n) s = .next t ∧ (pkgOf t k).base.msp.lastRead = List.replicate n (w32 0xFFFFFFFF) ∧
          (pkgOf t k).base.msp.outbox = b.msp.outbox ∧ (pkgOf t k).base.msp.bulkOut = b.msp.bulkOut)) ∧
      (∃ t, exec (.bulkReset (.pkg k)) s = .next t ∧ (pkgOf t k).base.msp = { b.msp with bulkIn := [], bulkOut := [] } ∧
        (pkgOf t k).base.regs = b.regs) ∧
      (∃ t, exec (.mspErrClr (.pkg k)) s = .next t ∧ (pkgOf t k).base.msp = { b.msp with err := 0 } ∧
        (pkgOf t k).base.regs = b.regs) ∧
      (∀ bits, ∃ t, exec (.mspSelectEnd (.pkg k) bits) s = .next t ∧ (pkgOf t k).base.msp.txn = none ∧
        fld (pkgOf t k).base.msp.err.toNat 7 0 =
          (if b.msp.txn.isSome ∧ bits % 32 ≠ 0 then min 255 (fld b.msp.err.toNat 7 0 + 1) else fld b.msp.err.toNat 7 0)) ∧
      (∃ t, exec (.mspEdgeTimeout (.pkg k)) s = .next t ∧
        (pkgOf t k).base.msp = { b.msp with abandoned := b.msp.txn.isSome } ∧ (pkgOf t k).base.regs = b.regs)) ∧
    (∀ (s : State) (k : Nat), let b := (weirOf s k).base
      (mspTakes b = true →
        (∀ idx n, ∃ t, exec (.mspRegisterRead (.weir k) idx n) s = .next t ∧
          (weirOf t k).base.msp.lastRead = (List.range n).map (fun i => w32 (mspReg b ((idx + i) % 64)))) ∧
        (∀ v, b.msp.csBusy = false →
          ∃ t, exec (.mspRegisterWrite (.weir k) 8 [v]) s = .next t ∧ (weirOf t k).base.msp.csAddr = v) ∧
        (∀ ws, b.msp.inbox.length + ws.length ≤ 1024 →
          ∃ t, exec (.mspRawWrite (.weir k) 0 ws) s = .next t ∧ (weirOf t k).base.msp.inbox = b.msp.inbox ++ ws) ∧
        (∀ n, n ≤ b.msp.outbox.length →
          ∃ t, exec (.mspRawRead (.weir k) 0 n) s = .next t ∧ (weirOf t k).base.msp.lastRead = b.msp.outbox.take n)) ∧
      (∃ t, exec (.bulkReset (.weir k)) s = .next t ∧ (weirOf t k).base.msp = { b.msp with bulkIn := [], bulkOut := [] }) ∧
      (∃ t, exec (.mspErrClr (.weir k)) s = .next t ∧ (weirOf t k).base.msp = { b.msp with err := 0 }) ∧
      (∀ bits, ∃ t, exec (.mspSelectEnd (.weir k) bits) s = .next t ∧ (weirOf t k).base.msp.txn = none) ∧
      (∃ t, exec (.mspEdgeTimeout (.weir k)) s = .next t ∧ (weirOf t k).base.msp = { b.msp with abandoned := b.msp.txn.isSome }))) ∧
  ((∀ (s : State) (k ctl : Nat), bitOf ctl 0 = true → let p := pkgOf s k
      (p.base.msp.csBusy = true →
        ∃ t, exec (.csGo (.pkg k) ctl) s = .next t ∧ (pkgOf t k).base.msp = { p.base.msp with csResult := 4 } ∧
          (pkgOf t k).base.regs = p.base.regs ∧ (pkgOf t k).mem = p.mem) ∧
      (p.base.msp.csBusy = false → hubRuns p.base = false →
        ∃ t, exec (.csGo (.pkg k) ctl) s = .next t ∧ (pkgOf t k).base.msp = { p.base.msp with csBusy := true } ∧
          (pkgOf t k).base.regs = p.base.regs ∧ (pkgOf t k).mem = p.mem) ∧
      (p.base.msp.csBusy = false → hubRuns p.base = true → bitOf ctl 1 = false → bitOf ctl 2 = false →
        (faultReason p p.base.msp.csAddr.toNat 4 = 0 →
          ∃ t, exec (.csGo (.pkg k) ctl) s = .next t ∧
            (pkgOf t k).base.msp.csLo = w32 (read4 s.free p .cs p.base.msp.csAddr.toNat) ∧ (pkgOf t k).base.msp.csResult = 0 ∧
            (pkgOf t k).base.msp.csBusy = false ∧ (pkgOf t k).base.regs = p.base.regs ∧ (pkgOf t k).mem = p.mem) ∧
        (faultReason p p.base.msp.csAddr.toNat 4 ≠ 0 →
          ∃ t, exec (.csGo (.pkg k) ctl) s = .next t ∧ (pkgOf t k).base.msp.csResult = 1 ∧ (pkgOf t k).mem = p.mem)) ∧
      (p.base.msp.csBusy = false → hubRuns p.base = true → bitOf ctl 1 = true →
        ∀ q x, csWrite s.free p .cs p.base.msp.csAddr.toNat (if bitOf ctl 2 then 8 else 4) (csData p.base) = (q, x) →
        ∃ t, exec (.csGo (.pkg k) ctl) s = .next t ∧ (pkgOf t k).mem = q.mem ∧ (pkgOf t k).hub = q.hub ∧
          (pkgOf t k).base.regs = q.base.regs ∧ (pkgOf t k).base.msp.csBusy = false ∧
          (pkgOf t k).base.msp.csResult = (csResultOf x).1 ∧ (pkgOf t k).base.msp.csReason = (csResultOf x).2)) ∧
    (∀ (s : State) (k : Nat), (pkgOf s k).base.msp.csBusy = true →
      ∃ t, exec (.csTimeout (.pkg k)) s = .next t ∧
        (pkgOf t k).base.msp = { (pkgOf s k).base.msp with csBusy := false, csResult := 3, csReason := 0 }) ∧
    (∀ (s : State) (k ctl : Nat), bitOf ctl 0 = true → let w := weirOf s k
      (w.base.msp.csBusy = false → hubRuns w.base = true → bitOf ctl 1 = false → bitOf ctl 2 = false →
        ∀ v, weirRead w w.base.msp.csAddr.toNat 4 = some v →
        ∃ t, exec (.csGo (.weir k) ctl) s = .next t ∧ (weirOf t k).base.msp.csLo = w32 v ∧ (weirOf t k).base.msp.csResult = 0) ∧
      (w.base.msp.csBusy = true →
        (∃ t, exec (.csGo (.weir k) ctl) s = .next t ∧ (weirOf t k).base.msp.csResult = 4) ∧
        ∃ t, exec (.csTimeout (.weir k)) s = .next t ∧ (weirOf t k).base.msp.csResult = 3)))

/-! ## Die links, budgets, power and cooling of a package -/

/-- Die links. A flit whose slices all hold is taken, and the ring stop then passes on what it may; in its turn a flit of data
advances the expected SEQ, joins its VC's buffer and gives its credits, out of its turn it does none of it (R61, R62); a failed
slice discards the flit and asks for a replay (R61, R63). A replay request frees what it acknowledges and sends the rest again
in order (R62). A module that has retrained returns at both ends and is recorded; one that has not is fenced for the power epoch
(R63). What a port sends is split over its active modules, 64 bytes each, and every slice passes the check of the receiver
(R61). The rings. Between any two dies an in-package packet of any class has a route over die links that exist, from the port it
leaves by to the port at the link's other end: it begins at its source, ends at its destination and takes at most six hops (R65,
R157, R159). A packet between a link die and a memory die turns at the tile whose column and row the offset's bits [12:11]
choose (R159). A hop is of DL 1 exactly from the crossing of the link between positions 5 and 0 on, and a packet keeps its class
on every hop but for the column leg of a management packet from a memory die to a link die, which takes the response VCs (R153,
R156, R158). Completes: FLIT_RECEIVE, FLIT_REPLAY_REQUEST, MODULE_RETRAIN_DONE. -/
def Obligations.DieLinks : Prop :=
  ((∀ (s : State) (p d q : Nat) (f : Flit), let x := (pkgOf s p).link d q
      q < diePorts d → x.active ≠ [] → f.slices.length = x.active.length →
      ((∀ b ∈ f.slices, sliceOk b = true) →
        exec (.flitReceive p d q f) s = .next (setPkg s p
          (pump (ringArrive ((pkgOf s p).setLink d q (x.take (flitData f))) d q (fld (fieldAt (flitData f) 0 4) 19 17)) d))) ∧
      ((∃ b ∈ f.slices, sliceOk b = false) → (∀ e ∈ x.fails, e.1 + 1000000 ≤ (pkgOf s p).base.gtime) →
        ∃ t, exec (.flitReceive p d q f) s = .next t ∧ ((pkgOf t p).link d q).asked = true ∧
          ((pkgOf t p).link d q).rxSeq = x.rxSeq ∧ ((pkgOf t p).link d q).rxBuf = x.rxBuf ∧
          ((pkgOf t p).link d q).credits = x.credits ∧ (pkgOf t p).mem = (pkgOf s p).mem ∧ (pkgOf t p).base = (pkgOf s p).base)) ∧
    (∀ (x : DiePort) (data : Bytes), fld (fieldAt data 0 4) 23 20 = 1 → bitOf (fieldAt data 0 4) 16 = false →
      (fld (fieldAt data 0 4) 7 0 = x.rxSeq →
        let v := fld (fieldAt data 0 4) 19 17
        (x.take data).rxSeq = (x.rxSeq + 1) % 256 ∧ mget [] (x.take data).rxBuf v = mget [] x.rxBuf v ++ data.drop 4 ∧
        mget 0 (x.take data).credits v = mget 0 x.credits v + fld (fieldAt data 0 4) 31 24 ∧
        (∀ u, u ≠ v → mget [] (x.take data).rxBuf u = mget [] x.rxBuf u ∧ mget 0 (x.take data).credits u = mget 0 x.credits u) ∧
        (x.take data).replay = x.replay ∧ (x.take data).asked = false) ∧
      (fld (fieldAt data 0 4) 7 0 ≠ x.rxSeq → x.take data = x)) ∧
    (∀ (x : DiePort) (seq : Nat) (f : FlitItem),
      (x.slices seq f).length = x.active.length ∧ ∀ b ∈ x.slices seq f, sliceOk b = true) ∧
    (∀ (s : State) (p d q ack : Nat), q < diePorts d → let x := (pkgOf s p).link d q
      exec (.flitReplayRequest p d q ack) s = .next (setPkg s p
        { pump ((pkgOf s p).setLink d q (x.replayFrom (ack % 256))) d with mem := (pkgOf s p).mem }) ∧
      (x.active ≠ [] → (∀ e ∈ x.replay, e.2.data.length ≤ x.room) →
        (x.replayFrom (ack % 256)).replay.map (fun e => e.2) =
          (x.replay.filter fun e => serialGt 8 e.1 (ack % 256)).map (fun e => e.2) ∧
        (x.replayFrom (ack % 256)).sent.length =
          x.sent.length + (x.replay.filter fun e => serialGt 8 e.1 (ack % 256)).length)) ∧
    (∀ (s : State) (p d q m : Nat), ((pkgOf s p).link d q).retraining = some m → ((pkgOf s p).link d q).waiting = [] →
      (let y := bothEnds (pkgOf s p) d q (DiePort.restored m)
       exec (.moduleRetrainDone p d q m true) s =
         .next (setPkg s p (dieEvent (y.setLink d q { y.link d q with retraining := none }) d 3 q m))) ∧
      ∃ t, exec (.moduleRetrainDone p d q m false) s = .next t ∧
        (m < 4 → bitOf ((pkgOf t p).link d q).fenced m = true) ∧ ((pkgOf t p).link d q).retraining = none)) ∧
  ((∀ cls src dst off : Nat, cls < 4 → src < 20 → dst < 20 → src ≠ dst →
      let r := ringRoute cls src dst off
      (r.head?.map fun h => h.die) = some src ∧ (r.getLast?.map fun h => h.next) = some dst ∧ r.length ≤ 6 ∧
      (∀ i, i + 1 < r.length → (r[i]?.map fun h => h.next) = (r[i + 1]?.map fun h => h.die)) ∧
      (∀ h ∈ r, linkPeer h.die h.port = some (h.next, h.nextPort) ∧ h.port < diePorts h.die) ∧
      (∀ h ∈ r, h.vc / 2 = cls ∨ (cls = 3 ∧ 18 ≤ src ∧ 16 ≤ dst ∧ dst < 18 ∧ h.vc / 2 = 1))) ∧
    (∀ (cls g i n : Nat) (plus : Bool), i < 6 → n ≤ 3 → let w := ringWalk cls g plus false n i
      w.length = n ∧ ∀ j < n, (w[j]?.map fun h => h.vc % 2) = some (if plus then b2n (decide (5 ≤ i + j)) else b2n (decide (i ≤ j)))) ∧
    (∀ l m off : Nat, l = 16 ∨ l = 17 → m = 18 ∨ m = 19 →
      turnTile l m off % 4 = (if m = 19 then 2 else 0) + off / 2 ^ 11 % 2 ∧
      turnTile l m off / 4 = (if l = 16 then off / 2 ^ 12 % 2 else 3 - off / 2 ^ 12 % 2)))


/-- Budgets. A budget message that is newer, or the die's first, is applied, its budget capped at the die's maximum, and ends a
fallback and a brake's halving; any other is counted and ignored (R78, R80, R355). A report shows on the die's power page (R79,
R371). When messages stop the die enforces its fallback (R80); a die over its budget or at T_LIMIT slows by one step, up to
three, and says UNATTAINABLE when that is not enough, and one under both speeds up (R77, R80); a die's report carries the SEQ in force,
its mean and peak power, its temperature and those flags (R79). Each interval every die's budget and the SEQ show on its page (R352).
A die is silent once three reports in a row are missing, once until it reports again: a record names it and the count, a tile's die
becomes a hollow tile (R81, R285), another die puts the package out of service as a lost die link does (R64).
Completes: BUDGET_MESSAGE, DIE_REPORT, BUDGET_FALLBACK, DIE_POWER_SAMPLE, BUDGET_TICK, DIE_SILENT. -/
def Obligations.DieBudgets : Prop :=
  (∀ (s : State) (p d : Nat) (m : Bytes), d < 20 → byteAt m 0 = 1 → byteAt m 1 = d → let x := (pkgOf s p).budget d
    (x.seen = false ∨ serialGt 16 (fieldAt m 2 2) x.seq = true →
      exec (.budgetMessage p d m) s = .next (setPkg s p ((pkgOf s p).setBudget d { x with
        seen := true, seq := fieldAt m 2 2, budget := min (fieldAt m 4 2) (dieMax (pkgOf s p) d), fallback := fieldAt m 6 2,
        tLimit := fieldAt m 8 2, metronome := bitOf (byteAt m 10) 0, validity := byteAt m 11, inFallback := false,
        halved := false }))) ∧
    (x.seen = true → serialGt 16 (fieldAt m 2 2) x.seq = false →
      exec (.budgetMessage p d m) s = .next (setPkg s p ((pkgOf s p).setBudget d { x with ignored := x.ignored + 1 })))) ∧
  (∀ (s : State) (p : Nat) (r : Bytes), byteAt r 0 = 2 → byteAt r 1 < 20 → bitOf (byteAt r 12) 2 = false →
    ∃ t, exec (.dieReport p r) s = .next t ∧
      (pkgOf t p).rd (diePowerPage (byteAt r 1) + Off.DIE_POWER) = fieldAt r 4 4 ∧
      (pkgOf t p).rd (diePowerPage (byteAt r 1) + Off.DIE_THERMAL) = fieldAt r 8 4 ∧
      (pkgOf t p).rdF (diePowerPage (byteAt r 1) + Off.DIE_FLAGS) 7 0 = byteAt r 12 ∧
      (pkgOf t p).budget (byteAt r 1) = { (pkgOf s p).budget (byteAt r 1) with reported := true, missing := 0, silent := false } ∧
      (pkgOf t p).mem = (pkgOf s p).mem) ∧
  (∀ (p : Package) (d : Nat), d < 20 → let x := p.budget d
    let r := reportBytes p d
    r.length = 32 ∧ byteAt r 0 = 2 ∧ byteAt r 1 = d ∧ fieldAt r 2 2 = x.seq % 2 ^ 16 ∧
    fieldAt r 4 2 = x.sum / max 1 x.samples % 2 ^ 16 ∧ fieldAt r 6 2 = x.peak % 2 ^ 16 ∧ fieldAt r 8 2 = x.temp % 2 ^ 16 ∧
    bitOf (byteAt r 12) 0 = x.unattainable ∧ bitOf (byteAt r 12) 1 = x.inFallback ∧ bitOf (byteAt r 12) 2 = false ∧
    bitOf (byteAt r 12) 3 = metronome p ∧ bitOf (byteAt r 12) 4 = x.limited) ∧
  (∀ (s : State) (p d : Nat), let x := (pkgOf s p).budget d
    (x.seen = true →
      exec (.budgetFallback p d) s = .next (setPkg s p ((pkgOf s p).setBudget d { x with inFallback := true })) ∧
      enforced d { x with inFallback := true } = (if x.halved then x.fallback / 2 else x.fallback)) ∧
    (d < 20 → ∀ power temp,
      let hot := x.seen && decide (x.tLimit ≤ temp)
      let y := { countSample (metronome (pkgOf s p)) power temp x with
        held := if enforced d x < power ∨ hot = true then min 3 (x.held + 1) else x.held - 1
        unattainable := decide (enforced d x < power ∧ x.held = 3), limited := hot }
      (x.samples < 99 → exec (.diePowerSample p d power temp) s = .next (setPkg s p ((pkgOf s p).setBudget d y))) ∧
      (99 ≤ x.samples → d ≠ hubDieId (pkgOf s p) →
        ∃ t, exec (.diePowerSample p d power temp) s = .next t ∧
          (pkgOf t p).budget d = { y with samples := 0, sum := 0, peak := 0, slow := 0 } ∧ (pkgOf t p).mem = (pkgOf s p).mem ∧
          (pkgOf t p).base = (pkgOf s p).base))) ∧
  (∀ (s : State) (p : Nat),
    ∃ t, exec (.budgetTick p) s = .next t ∧ (pkgOf t p).pwr.budgetSeq = (pkgOf s p).pwr.budgetSeq + 1 ∧
      (∀ d < 20, ((pkgOf t p).budget d).reported = false ∧
        (pkgOf t p).rdF (diePowerPage d + Off.DIE_BUDGET) 15 0 = nth 0 (dieBudgets (pkgOf s p)) d % 2 ^ 16) ∧
      (pkgOf t p).mem = (pkgOf s p).mem ∧ (pkgOf t p).hub = (pkgOf s p).hub) ∧
  (∀ (s : State) (p d : Nat), 3 ≤ ((pkgOf s p).budget d).missing → ((pkgOf s p).budget d).silent = false →
    let x := (pkgOf s p).setBudget d { (pkgOf s p).budget d with silent := true }
    let y := (ringAppend x 1 2 (diePowerPage d / 0x1000) (le 1 d ++ le 1 ((pkgOf s p).budget d).missing)).1
    (∀ t', d < 16 → tileOfDie (pkgOf s p) d = some t' → hollowPage (pkgOf s p).base (tilePage t' 0) = false →
      exec (.dieSilent p d) s = .next (setPkg s p (hollowTile y t'))) ∧
    (d < 16 → tileOfDie (pkgOf s p) d = none → exec (.dieSilent p d) s = .next (setPkg s p y)) ∧
    (16 ≤ d → d < 20 → exec (.dieSilent p d) s = .next (setPkg s p (dieLinkDown y (pg (d + 0x10) 0) 0)))) ∧
  (∀ (s : State) (p d : Nat), ((pkgOf s p).budget d).missing < 3 → exec (.dieSilent p d) s = .next (setPkg s p (pkgOf s p)))

/-- CLK_MODE. A write that changes the mode, with every die page quiesced, starts a mode change, during which the dies' pages are not
enabled; MODE_CHANGE_DONE ends it (R76). RELEARN starts learning: the estimates stand at the fused values, LEARNING reads 1 and
no sample is counted (R358). Completes: CLK_MODE_WRITE, MODE_CHANGE_DONE, RELEARN. -/
def Obligations.ClockModeAndLearning : Prop :=
  (∀ (s : State) (p : Nat) (src : Src) (v : Nat),
    Safety.reaches s p src (powerPage + Off.PWR_CTL) .power = true → v < 2 →
    v ≠ (pkgOf s p).rdF (powerPage + Off.PWR_CTL) 0 0 →
    (allDiesQuiesced (pkgOf s p) = true →
      ∃ t, exec (.clkModeWrite p src v) s = .next t ∧ (pkgOf t p).dies.changing = true ∧
        (pkgOf t p).rdF (powerPage + Off.PWR_CTL) 0 0 = v ∧ (pkgOf t p).mem = (pkgOf s p).mem) ∧
    (allDiesQuiesced (pkgOf s p) = false →
      exec (.clkModeWrite p src v) s = .next (Safety.refused s p src (powerPage + Off.PWR_CTL) v 1))) ∧
  (∀ (s : State) (p : Nat),
    exec (.modeChangeDone p) s =
      .next (setPkg s p { pkgOf s p with dies := { (pkgOf s p).dies with changing := false } })) ∧
  (∀ (s : State) (p : Nat) (src : Src),
    Safety.reaches s p src (powerPage + Off.PWR_CTL) .power = true →
    ∃ t, exec (.relearn p src (256 + (pkgOf s p).rdF (powerPage + Off.PWR_CTL) 0 0)) s = .next t ∧
      learning (pkgOf t p) = true ∧ (pkgOf t p).pwr.rDie = fuseDie (pkgOf s p) ∧
      (pkgOf t p).pwr.rStack = fuseStack (pkgOf s p) ∧ (pkgOf t p).rdF (pw Off.FANTAIL_STAT) 31 16 = 0)

/-- If T_IN has not been written for 1 s, the fantail uses 40 °C for T_IN and for the forecast at any time ahead, and raises
INLET_STALE; at the next write it uses the value written. Completes: INLET_STALE, T_IN_WRITE. -/
def Obligations.InletStale : Prop :=
  ∀ (s : State) (p : Nat),
    ((pkgOf s p).pwr.tInStale = false →
      ∃ t, exec (.inletStale p) s = .next t ∧ inletT (pkgOf t p) = 8 * 40 ∧ (∀ ahead, forecast (pkgOf t p) ahead = 8 * 40) ∧
        (pkgOf t p).rdF (pw Off.T_IN) 31 16 = 8 * 40 ∧ bitOf ((pkgOf t p).rd (powerPage + Off.EVT_STAT)) 6 = true) ∧
    (Safety.reaches s p .cs (pw Off.T_IN) .power = true → ∀ temp < 2 ^ 16,
      ∃ t, exec (.tInWrite p temp) s = .next t ∧ (pkgOf t p).pwr.tInStale = false ∧ inletT (pkgOf t p) = temp)

/-- The effective cap is the least of its terms, and half of that while the package is braked; LIMITER names every term that equals it (R351, R355). P_IN is the mean of the
last millisecond's samples (R348). The fantail's sample sets the thermal caps, which are kept, from the forecast two seconds ahead, and
moves no byte of memory (R356, R357).
A thermal cap that stays below 400 W makes the package critical: CRITICAL reads 1, it is counted, the event is raised with both
caps, the effective cap is computed at once, and the hub strikes every hosted pitch (R353, R365); with none hosted, memory is as
before. Both caps back at 400 W clear it (R366). Completes: CAP_EVALUATION, INPUT_POWER_SAMPLE, FANTAIL_SAMPLE, THERMAL_CRITICAL,
CRITICAL_CLEAR. -/
def Obligations.PowerCap : Prop :=
  (∀ (s : State) (p : Nat),
    (∃ t, exec (.capEvaluation p) s = .next t ∧
      let terms := (capTerms (pkgOf s p)).map fun e => e.2
      let least := leastOf 1600 terms
      (pkgOf t p).rdF (pw Off.CAP_EFF) 10 0 = (if braked (pkgOf s p) then least / 2 else least) ∧
      (∀ e ∈ capTerms (pkgOf s p), bitOf ((pkgOf t p).rd (pw Off.CAP_EFF)) e.1 = true ↔
        e.2 = (if braked (pkgOf s p) then least / 2 else least)) ∧
      (pkgOf t p).mem = (pkgOf s p).mem) ∧
    (∀ power, ∃ t, exec (.inputPowerSample p power) s = .next t ∧
      (pkgOf t p).pwr.pWindow = (power :: (pkgOf s p).pwr.pWindow).take 1000 ∧
      (pkgOf t p).rdF (pw Off.P_IN) 15 0 = min 0xFFFF (meanOf ((power :: (pkgOf s p).pwr.pWindow).take 1000)) ∧
      (pkgOf t p).mem = (pkgOf s p).mem ∧ (pkgOf t p).hub = (pkgOf s p).hub) ∧
    (∃ t, exec (.fantailSample p) s = .next t ∧
      (pkgOf t p).pwr.samples = (meanPin (pkgOf s p) :: (pkgOf s p).pwr.samples).take 100 ∧
      ((pkgOf t p).pwr.criticalSince.isSome ↔ (pkgOf t p).pwr.capDie < 400 ∨ (pkgOf t p).pwr.capStack < 400) ∧
      ((pkgOf t p).pwr.okSince.isSome ↔ 400 ≤ (pkgOf t p).pwr.capDie ∧ 400 ≤ (pkgOf t p).pwr.capStack) ∧
      (pkgOf t p).mem = (pkgOf s p).mem)) ∧
  (∀ (s : State) (p : Nat),
    ((pkgOf s p).pwr.criticalSince.isSome → bitOf ((pkgOf s p).rd (pw Off.THERMAL_STAT)) 1 = false →
      let x := ((pkgOf s p).wrF (pw Off.THERMAL_STAT) 1 1 1).count (pw Off.CRITICAL_CNT)
      let y := capEvaluate (raise x powerPage 3
        { c2 := x.pwr.capDie % 2 ^ 11 + x.pwr.capStack % 2 ^ 11 * 2 ^ 16, c3 := x.rdF (pw Off.T_IN) 31 16 })
      exec (.thermalCritical p) s = .next (setPkg s p ((y.hub.hosted.map fun e => e.1).foldl (fun z q => hubStrike z 2 3 q) y))) ∧
    ((pkgOf s p).pwr.criticalSince.isSome → bitOf ((pkgOf s p).rd (pw Off.THERMAL_STAT)) 1 = false → (pkgOf s p).hub.hosted = [] →
      ∃ t, exec (.thermalCritical p) s = .next t ∧ bitOf ((pkgOf t p).rd (pw Off.THERMAL_STAT)) 1 = true ∧
        bitOf ((pkgOf t p).rd (powerPage + Off.EVT_STAT)) 3 = true ∧ (pkgOf t p).mem = (pkgOf s p).mem) ∧
    ((pkgOf s p).pwr.okSince.isSome →
      exec (.criticalClear p) s = .next (setPkg s p ((pkgOf s p).wrF (pw Off.THERMAL_STAT) 1 1 0))))

/-- BRAKE_N. When it goes low every die halves what it enforces, BRAKED reads 1 and CAP_EFF is computed at once with the brake term (R353,
R355); a package in reset ignores it. When it goes high BRAKED reads 0, and the dies halve until their next budget message.
Load notices. A write of LOAD_NOTICE3 arms the notice the registers hold, in place of the one held; one whose AT is less than
10 ms ahead takes effect at once and raises NOTICE_LATE (R361, R362). In force, a notice lifts the slew term; its expiry ends it, unless its duration is
0 (R361, R362). Completes: BRAKE_ASSERT, BRAKE_RELEASE, LOAD_NOTICE_ARM, NOTICE_IN_FORCE, NOTICE_EXPIRE. -/
def Obligations.BrakeAndNotices : Prop :=
  (∀ (s : State) (p : Nat),
    ((pkgOf s p).inReset = false → (pkgOf s p).base.pins.brake = false →
      ∃ t, exec (.brakeAssert p) s = .next t ∧ (∀ d < 20, ((pkgOf t p).budget d).halved = true) ∧
        braked (pkgOf t p) = true ∧ bitOf ((pkgOf t p).rd (powerPage + Off.EVT_STAT)) 2 = true ∧
        (pkgOf t p).mem = (pkgOf s p).mem) ∧
    ((pkgOf s p).inReset = true →
      ∃ t, exec (.brakeAssert p) s = .next t ∧ pkgOf t p = pkgOf s p) ∧
    (∃ t, exec (.brakeRelease p) s = .next t ∧ braked (pkgOf t p) = false ∧ (pkgOf t p).base.pins.brake = false ∧
      (pkgOf t p).dies = (pkgOf s p).dies ∧ (pkgOf t p).mem = (pkgOf s p).mem)) ∧
  (∀ (s : State) (p : Nat) (src : Src) (v : Nat),
    Safety.reaches s p src (pw (Off.LOAD_NOTICE + 12)) .power = true → v < 2 ^ 16 →
    let at' := (pkgOf s p).rd (pw Off.LOAD_NOTICE) + (pkgOf s p).rd (pw (Off.LOAD_NOTICE + 4)) * 2 ^ 32
    ∃ t n, exec (.loadNoticeArm p src v) s = .next t ∧ (pkgOf t p).pwr.notice = some n ∧ n.atNs = at' ∧ n.durMs = v ∧
      n.inForce = decide (at' < (pkgOf s p).base.gtime + 10000000) ∧
      (n.inForce = true → bitOf ((pkgOf t p).rd (powerPage + Off.EVT_STAT)) 7 = true) ∧ (pkgOf t p).mem = (pkgOf s p).mem) ∧
  (∀ (s : State) (p : Nat) (n : Notice), (pkgOf s p).pwr.notice = some n →
    (n.inForce = false → n.power ≠ 0 →
      ∃ t, exec (.noticeInForce p) s = .next t ∧ slewApplies (pkgOf t p) = false ∧
        (pkgOf t p).rdF (pw Off.NOTICE_GRANT) 16 16 = 1 ∧ (pkgOf t p).mem = (pkgOf s p).mem) ∧
    (n.inForce = true → n.durMs ≠ 0 →
      ∃ t, exec (.noticeExpire p) s = .next t ∧ (pkgOf t p).pwr.notice = none ∧
        (pkgOf t p).rdF (pw Off.NOTICE_GRANT) 16 16 = 0 ∧ (pkgOf t p).mem = (pkgOf s p).mem) ∧
    (n.durMs = 0 → exec (.noticeExpire p) s = .next (setPkg s p (pkgOf s p))))

/-! ## Memory, tiles, hoppers and pegs -/

/-- The interleaved alias. Granule g of 2 KiB, below 150,994,944, lies on the stack that the fold of its ten 3-bit fields names
(ILV_HASH 0), or its low bits (1), at granule g / 8 of that stack. Every eight consecutive granules put exactly one granule on
each stack, at the same offset within each, and the mapping reaches each exposed byte exactly once; 0x3_4800 reaches
0x002D_0000_6800 under the fold. -/
def Obligations.InterleaveOnce : Prop :=
  (∀ (hash x : Nat), hash < 2 → x < 0x4800000000 →
    let g := x / 2 ^ 11
    let f : Nat → Nat := fun i => g % 2 ^ 28 / 8 ^ i % 8
    let fold := f 0 ^^^ f 1 ^^^ f 2 ^^^ f 3 ^^^ f 4 ^^^ f 5 ^^^ f 6 ^^^ f 7 ^^^ f 8 ^^^ f 9
    g < 150994944 ∧
    ilvToExposed hash x = (if hash = 1 then g % 8 else fold) * 0x900000000 + g / 8 * 0x800 + x % 0x800 ∧
    ilvToExposed hash x < 0x4800000000) ∧
  (∀ (hash k : Nat), hash < 2 → k < 18874368 → ∀ u < 8, ∃ j < 8,
    ilvStack hash (8 * k + j) = u ∧ ∀ i < 8, ilvStack hash (8 * k + i) = u → i = j) ∧
  (∀ (hash x y : Nat), hash < 2 → x < 0x4800000000 → y < 0x4800000000 → ilvToExposed hash x = ilvToExposed hash y → x = y) ∧
  (∀ (hash c : Nat), hash < 2 → c < 0x4800000000 → ∃ x < 0x4800000000, ilvToExposed hash x = c) ∧
  ilvToExposed 0 0x34800 = 0x2D00006800

/-- A write to memory inside one region (the operation every engine and every remote write goes through). Memory keeps its
canonical form; each byte of the write whose unit is neither hollow nor uncorrectable takes its value, whether its granule was
scrubbed or not (R27, R283); every other byte of package memory reads as before. Where no byte meets a hollow unit or an
uncorrectable word or sector, the write ends OK. -/
def Obligations.MemoryWrites : Prop :=
  ∀ (p : Package) (die off : Nat) (b : List (Option Byte)), inRegion p off b.length = true →
    let q := (writeMem p die off b).1
    (memWf p.mem.cells = true → memWf q.mem.cells = true) ∧
    (∀ i < b.length, ∀ x, nth none b i = some x → deadAt p (canon p (off + i)) = false →
      (unscrubbed p (canon p (off + i)) = true ∨ unitBad p (canon p (off + i)) = false) →
      byteValue q (canon p (off + i)) = x) ∧
    (∀ c, (regionOf p c = some .dram ∨ ∃ t, regionOf p c = some (.sram t)) →
      (∀ i < b.length, nth none b i ≠ none → canon p (off + i) ≠ c) → byteValue q c = byteValue p c) ∧
    ((∀ c ∈ canonRange p off b.length, deadAt p c = false ∧ unitBad p c = false) → (writeMem p die off b).2 = 0)

/-- A write of DRAM that covers only part of a sector whose read is uncorrectable writes nothing to that sector and ends
DATA_UNCORRECTABLE, where no stack it reaches is hollow or offline or fails at it; the sectors of the same write that it may write
are written normally. -/
def Obligations.PartialSectorWrites : Prop :=
  ∀ (p : Package) (die off : Nat) (b : Bytes), inRegion p off b.length = true →
    (∀ c ∈ canonRange p off b.length, c < dramSize ∧ deadAt p c = false) →
    let cs := canonRange p off b.length
    let lost := fun (c : Nat) => !unscrubbed p c && p.mem.dramBad.contains (c / 32) &&
      !((List.range 32).all fun i => cs.contains (c / 32 * 32 + i))
    (∀ c, c < dramSize → (∃ d ∈ cs, d / 32 = c / 32 ∧ lost d = true) →
      byteValue (writeBytes p die off b).1 c = byteValue p c) ∧
    ((∃ c ∈ cs, lost c = true) → (∀ c ∈ cs, deadAt (writeBytes p die off b).1 c = false) →
      (writeBytes p die off b).2 = St.dataUncorrectable) ∧
    (∀ i < b.length, lost (canon p (off + i)) = false →
      byteValue (writeBytes p die off b).1 (canon p (off + i)) = nth 0 b i)

/-- A read of any byte in an unscrubbed granule returns zero, whatever alias names it; where all bytes of a read are unscrubbed
the package stays as it is: no bank and no stack is touched, and no ECC event arises. A byte of a hollow or offline stack is
decided first, whether it was so before or the read itself made the stack fail: the read ends HOLLOW_UNIT. -/
def Obligations.UnscrubbedReads : Prop :=
  ∀ (p : Package) (die off len : Nat),
    let q := (readMem p die off len).1
    (∀ i < len, unscrubbed p (canon p (off + i)) = true → deadAt q (canon p (off + i)) = false →
      nth none (readMem p die off len).2.2 i = some 0) ∧
    (∀ i < len, deadAt q (canon p (off + i)) = true →
      (readMem p die off len).2.1 = St.hollowUnit ∧ nth none (readMem p die off len).2.2 i = none) ∧
    ((∀ c ∈ canonRange p off len, unscrubbed p c = true ∧ deadAt p c = false) →
      readMem p die off len = (p, 0, List.replicate len (some 0)))

/-- Number formats: in every format of R105, the bits of every value that is not a NaN convert back to themselves without
saturation, and every NaN converts to the canonical one; an integer beyond the limits saturates. -/
def Obligations.FormatsRoundTrip : Prop :=
  (∀ (code v : Nat) (f : FloatFmt), floatOf code = some f → v < 2 ^ fmtBits code →
    (decodeElem code v ≠ .nan → encodeElem code (decodeElem code v) = (v, false)) ∧
    (decodeElem code v = .nan → encodeElem code (decodeElem code v) = (f.nan, false)) ∧
    decodeElem code f.nan = .nan) ∧
  (∀ (code v : Nat), code = 8 ∨ code = 10 → v < 2 ^ fmtBits code → encodeElem code (decodeElem code v) = (v, false)) ∧
  (∀ (code : Nat) (i : Int), code = 8 ∨ code = 10 →
    let n := fmtBits code
    ((2 ^ (n - 1) : Int) ≤ i → encodeElem code (ofInt i 0) = (2 ^ (n - 1) - 1, true)) ∧
    (i < -(2 ^ (n - 1) : Int) → encodeElem code (ofInt i 0) = (2 ^ (n - 1), true))) ∧
  (∀ l l' : List Val, l.Perm l' → sumExact l = sumExact l')

/-- COPY and FILL. COPY with served ranges: no byte outside the destination changes, and each byte of it holds its old value or
its source's; with no hollow unit and no withheld line in either range the destination holds exactly the source and the
descriptor ends OK. FILL writes its eight-byte pattern from DST on, its first bytes last. No peg and no other package changes.
VECTOR, each of its ten sub-operations. Z lies in the tile; no byte outside it changes. With every operand readable and the tile
not hollow, the descriptor ends OK and each element of Z whose value is computed (one rounding to FP32, then one to FMT_Z;
CONVERT rounds once) holds that value; with an operand withheld or hollow it ends with that status. Completes: COPY, FILL,
VECTOR_ADD, VECTOR_MUL, AXPY, VECTOR_MAX, VECTOR_MIN, EXP, RECIP, RSQRT, CONVERT, SCALE. -/
def Obligations.CopyFillVector : Prop :=
  (∀ (s : State) (k : Nat) (r : HopRef) (idx : Nat) (e : HopEntry),
      let p := pkgOf s k
      let src := fieldAt e.bytes 16 8
      let dst := fieldAt e.bytes 24 8
      let n := fieldAt e.bytes 32 4
      let frame := fun (t : State) =>
        (∀ c, (regionOf p c = some .dram ∨ ∃ t, regionOf p c = some (.sram t)) → c ∉ canonRange p dst n →
          byteValue (pkgOf t k) c = byteValue p c) ∧
        (pkgOf t k).tl.pegs = p.tl.pegs ∧ (∀ j ≠ k, mfind j t.pkgs = mfind j s.pkgs)
      inRegion p dst n = true →
      (issuedEntry p r idx 0x01 = some e → copyReady p e = true → inRegion p src n = true →
        ∃ t, exec (.copy k r idx) s = .next t ∧ frame t ∧
          (∀ i < n, byteValue (pkgOf t k) (canon p (dst + i)) = byteValue p (canon p (dst + i)) ∨
            byteRead p (canon p (src + i)) = some (byteValue (pkgOf t k) (canon p (dst + i)))) ∧
          ((∀ c ∈ canonRange p src n ++ canonRange p dst n, deadAt p c = false ∧ badAt p c = false ∧ unitBad p c = false) →
            (∀ i < n, byteValue (pkgOf t k) (canon p (dst + i)) = byteValue p (canon p (src + i))) ∧
            (pkgOf t k).hop r = (finishEntry p r idx 0 false).hop r) ∧
          (∀ st, (readMem p (p.dieOfTile (tileOfHop p r)) src n).2.1 = st → st ≠ 0 →
            (pkgOf t k).hop r = (finishEntry p r idx st false).hop r)) ∧
      (issuedEntry p r idx 0x02 = some e → memReady p dst n = true →
        ∃ t, exec (.fill k r idx) s = .next t ∧ frame t ∧
          ((∀ c ∈ canonRange p dst n, deadAt p c = false ∧ unitBad p c = false) →
            (∀ i < n, byteValue (pkgOf t k) (canon p (dst + i)) = nth 0 e.bytes (16 + i % 8)) ∧
            (pkgOf t k).hop r = (finishEntry p r idx 0 false).hop r))) ∧
  (∀ (s : State) (k : Nat) (r : HopRef) (idx : Nat) (e : HopEntry),
      let p := pkgOf s k
      let v := vecOf e.bytes
      let h := tileOfHop p r
      let z := sramBase h + v.z
      let es := fmtBits v.fz / 8
      let done := fun (t : State) =>
        (pkgOf t k).tl.pegs = p.tl.pegs ∧
        (∀ c, (regionOf p c = some .dram ∨ ∃ t, regionOf p c = some (.sram t)) → (c < z ∨ z + v.n * es ≤ c) →
          byteValue (pkgOf t k) c = byteValue p c) ∧
        (readStatus p (vecReads h v) = 0 → (∀ j < v.n * es, deadAt p (z + j) = false ∧ unitBad p (z + j) = false) →
          (∃ sat, (pkgOf t k).hop r = (finishEntry p r idx 0 sat).hop r) ∧
          (∀ i < v.n, ∀ y, vecElem p h v i = some y →
            (List.range es).map (fun j => byteValue (pkgOf t k) (z + i * es + j)) = le es (encodeElem v.fz y).1)) ∧
        (∀ st, readStatus p (vecReads h v) = st → st ≠ 0 →
          ∃ sat, (pkgOf t k).hop r = (finishEntry p r idx st sat).hop r)
      issuedEntry p r idx 0x20 = some e → sramReady r p e = true → h < 16 → v.z + v.n * es ≤ sramSize →
      (v.sub = 0 → ∃ t, exec (.vectorAdd k r idx) s = .next t ∧ done t) ∧
      (v.sub = 1 → ∃ t, exec (.vectorMul k r idx) s = .next t ∧ done t) ∧
      (v.sub = 2 → ∃ t, exec (.axpy k r idx) s = .next t ∧ done t) ∧
      (v.sub = 3 → ∃ t, exec (.vectorMax k r idx) s = .next t ∧ done t) ∧
      (v.sub = 4 → ∃ t, exec (.vectorMin k r idx) s = .next t ∧ done t) ∧
      (v.sub = 5 → ∃ t, exec (.expCmd k r idx) s = .next t ∧ done t) ∧
      (v.sub = 6 → ∃ t, exec (.recip k r idx) s = .next t ∧ done t) ∧
      (v.sub = 7 → ∃ t, exec (.rsqrt k r idx) s = .next t ∧ done t) ∧
      (v.sub = 8 → ∃ t, exec (.convert k r idx) s = .next t ∧ done t) ∧
      (v.sub = 9 → ∃ t, exec (.scale k r idx) s = .next t ∧ done t))


/-- MATMUL and a failing matrix engine. A MATMUL whose D rows lie in its tile changes no byte outside them; with every operand
readable and the tile not hollow it ends, and each element of D whose value is computed holds that value converted to FMT_D.
One whose mask names a hollow engine ends HOLLOW_UNIT with nothing written. A failing engine is fenced, its logical numbers are hollow,
and every MATMUL that ran on it ends HOLLOW_UNIT. A NOP ends OK. Completes: MATMUL, NOP, ENGINE_FAILED. -/
def Obligations.Matmul : Prop :=
  ∀ (s : State) (k : Nat) (r : HopRef) (idx : Nat) (e : HopEntry),
    let p := pkgOf s k
    let x := matOf e.bytes
    let h := tileOfHop p r
    let d := fun m => sramBase h + x.d + m * x.sd
    let es := fmtBits x.fd / 8
    (issuedEntry p r idx 0x10 = some e → sramReady r p e = true → h < 16 → x.d + (x.m - 1) * x.sd + x.n * es ≤ sramSize →
      x.n * es ≤ x.sd → maskHollow p h x.mask = false →
      ∃ t, exec (.matmul k r idx) s = .next t ∧ (pkgOf t k).tl.pegs = p.tl.pegs ∧
        (∀ c, (regionOf p c = some .dram ∨ ∃ t, regionOf p c = some (.sram t)) →
          (∀ m < x.m, c < d m ∨ d m + x.n * es ≤ c) → byteValue (pkgOf t k) c = byteValue p c) ∧
        (readStatus p (matReads h x) = 0 → (∀ m < x.m, ∀ j < x.n * es, deadAt p (d m + j) = false ∧ unitBad p (d m + j) = false) →
          (∃ sat, (pkgOf t k).hop r = (finishEntry p r idx 0 sat).hop r) ∧
          (∀ m < x.m, ∀ i < x.n, ∀ v sat, matElem p h x m i = some (v, sat) →
            (List.range es).map (fun j => byteValue (pkgOf t k) (d m + i * es + j)) = le es (encodeElem x.fd v).1)) ∧
        (∀ st, readStatus p (matReads h x) = st → st ≠ 0 →
          ∃ sat, (pkgOf t k).hop r = (finishEntry p r idx st sat).hop r)) ∧
    (issuedEntry p r idx 0x10 = some e → sramReady r p e = true → maskHollow p h x.mask = true →
      exec (.matmul k r idx) s = .next { setPkg s k (finishEntry p r idx St.hollowUnit false) with free := s.free + 1 }) ∧
    (issuedEntry p r idx 0x00 = some e →
      exec (.nop k r idx) s = .next (setPkg s k { finishEntry p r idx 0 false with mem := p.mem })) ∧
    (∀ tile < 16, ∀ phys < 9, ∃ t, exec (.engineFailed k tile phys) s = .next t ∧
      mget 0 (pkgOf t k).tl.fencedEngines tile = mget 0 p.tl.fencedEngines tile ||| 2 ^ phys ∧
      (pkgOf t k).rdF (tilePage tile 0 + Off.ME_HOLLOW) 7 0 =
        p.rdF (tilePage tile 0 + Off.ME_HOLLOW) 7 0 ||| ofBits (logicalOf p tile phys) ∧
      (∀ r' ∈ hopsOn p tile, ∀ y ∈ p.hop r', y.stage = .issued → dOp y.bytes = 0x10 →
        (∃ i ∈ logicalOf p tile phys, bitOf (matOf y.bytes).mask i = true) →
        ∃ z ∈ (pkgOf t k).hop r', z.idx = y.idx ∧ z.stage = .finished ∧ z.status = St.hollowUnit))

/-- ATTEND. No byte outside O and STATS changes. The blocks are used in ascending order: a faulty first block-table entry ends it with
the entry's status, and so does any later stop, with the block reached shown in ATT_STAT. Where nothing stops it, it has used every
entry of the table; with the tile not hollow it then ends OK, and row r of O holds each accumulator divided by the row's sum, converted
to FMT_O. Completes: ATTEND. -/
def Obligations.Attend : Prop :=
  ∀ (s : State) (k : Nat) (r : HopRef) (idx : Nat) (e : HopEntry),
    let p := pkgOf s k
    let x := attOf e.bytes
    let h := tileOfHop p r
    let b := sramBase h
    let es := fmtBits x.fo / 8
    let w := attRun p h (pitchOfHop p r) x
    let entry := fun (i : Nat) => ofLe ((canonRange p (x.bt + 8 * i) 8).map (byteValue p))
    issuedEntry p r idx 0x30 = some e → attendReady r p e = true → h < 16 →
    (x.fo = 0 ∨ x.fo = 1 ∨ x.fo = 2) → x.o + x.nq * x.dim * es ≤ sramSize → x.stats + 8 * x.nq ≤ sramSize →
    (x.useStats = true → x.o + x.nq * x.dim * es ≤ x.stats ∨ x.stats + 8 * x.nq ≤ x.o) →
    ∃ t, exec (.attend k r idx) s = .next t ∧ (pkgOf t k).tl.pegs = p.tl.pegs ∧
      (∀ c, (regionOf p c = some .dram ∨ ∃ t, regionOf p c = some (.sram t)) →
        (c < b + x.o ∨ b + x.o + x.nq * x.dim * es ≤ c) →
        (x.useStats = false ∨ c < b + x.stats ∨ b + x.stats + 8 * x.nq ≤ c) → byteValue (pkgOf t k) c = byteValue p c) ∧
      (readStatus p (rowBytes (b + x.q) 1 0 (fmtLen x.fq (x.nq * x.dim))) = 0 → readStatus p (canonRange p x.bt 8) = 0 →
        entryFault p (pitchOfHop p r) x (entry 0) ≠ 0 →
        (pkgOf t k).hop r = (finishEntry p r idx (entryFault p (pitchOfHop p r) x (entry 0)) false).hop r) ∧
      (w.status ≠ 0 → (pkgOf t k).hop r = (finishEntry p r idx w.status false).hop r) ∧
      (w.status = 0 → w.blocks = (List.range (attBlocks x)).map entry ∧
        ((∀ j < sramSize, deadAt p (b + j) = false ∧ unitBad p (b + j) = false) →
          (pkgOf t k).hop r = (finishEntry p r idx 0 false).hop r ∧
          ((∀ q < x.nq, ∃ y, attRow w.pkg h x q w.blocks = some y ∧ y.acc.length = x.dim) →
            ∀ q < x.nq, ∀ y, attRow w.pkg h x q w.blocks = some y → ∀ d < x.dim,
              (List.range es).map (fun j => byteValue (pkgOf t k) (b + x.o + (q * x.dim + d) * es + j)) =
                le es (encodeElem x.fo (divFp32 (nth .nan y.acc d) y.l)).1)))

/-- Hoppers. HOP_TAIL takes a value within the ring's bounds and else keeps its own with HOP_OVERRUN raised, through the page or a
core's doorbell (R89). HOP_CFG's RUN and RESUME take effect, a resumed hopper is no longer halted and goes on. A running hopper with
a posted descriptor and a free descriptor place for it fetches it; its head issues when decoded, its ORDER holds and its engine takes
the hopper in turn; the finished descriptor completes; a head that
waits longer than the limit leaves its peg and ends WAIT_TIMEOUT, and the hopper halts (R91, R93).
A finished descriptor completes (the row), and what completion does: with status OK it bumps its peg, where the peg may still be
bumped, and no other peg's counter changes; with any other status no peg changes and the hopper halts with the status shown; a
bump that finds its peg gone from the pitch ends CROSS_PITCH. Completes: HOP_TAIL_WRITE, HOP_RUN, HOP_RESUME, DESCRIPTOR_FETCH,
DESCRIPTOR_ISSUE, DESCRIPTOR_COMPLETE, WAIT_TIMEOUT. -/
def Obligations.Hoppers : Prop :=
  (∀ (s : State) (k t h v : Nat), t < 16 → h < 4 → v < 2 ^ 32 →
    let p := pkgOf s k
    let r := HopRef.tile t h
    let reg := fun (off : Nat) => p.rd (hopReg t h off)
    let accepted := (v + 2 ^ 32 - reg Off.HOP_DONE % 2 ^ 32) % 2 ^ 32 ≤ 2 ^ p.rdF (hopReg t h Off.HOP_CFG) 3 0 ∧
      (v + 2 ^ 32 - reg Off.HOP_TAIL % 2 ^ 32) % 2 ^ 32 < 2 ^ 31
    let posted := if accepted then p.wr (hopReg t h Off.HOP_TAIL) v
      else raise p (tilePage t 1) (4 + h) { c2 := v, c3 := reg Off.HOP_DONE }
    (∀ src, Safety.reaches s k src (hopReg t h Off.HOP_TAIL) .tile1 = true →
      exec (.hopTailWrite k (.page src) t h v) s = .next (Safety.written s k (hopReg t h Off.HOP_TAIL) posted)) ∧
    (∀ c, coreActive p t c = true → strikingPage p.base (tilePage t 1) = false →
      exec (.hopTailWrite k (.core c) t h v) s = .next (setPkg s k { posted with mem := p.mem })) ∧
    (∀ src, Safety.reaches s k src (hopReg t h Off.HOP_CFG) .tile1 = true →
      ringSize 6 12 (v % 16) = fld (reg Off.HOP_CFG) 3 0 ∨ quiesced p (tilePage t 1) = true →
      let q := p.wr (hopReg t h Off.HOP_CFG) (setFld (setFld (reg Off.HOP_CFG) 3 0 (ringSize 6 12 (v % 16))) 8 8 (fld v 8 8))
      (bitOf v 9 = false →
        exec (.hopRun k src t h v) s = .next (Safety.written s k (hopReg t h Off.HOP_CFG) q) ∧
        exec (.hopResume k src t h v) s = .next (Safety.written s k (hopReg t h Off.HOP_CFG) q)) ∧
      (bitOf v 9 = true →
        exec (.hopResume k src t h v) s = .next (Safety.written s k (hopReg t h Off.HOP_CFG)
          (headStep (q.wrF (tilePage t 1 + Off.HOP_STAT + 0x20 * h) 0 0 0) r)))) ∧
    (bitOf (reg Off.HOP_CFG) 8 = true → hopHalted p r = false → reg Off.HOP_HEAD ≠ reg Off.HOP_TAIL →
      enabledPage p.base (tilePage t 1) = true → strikingPage p.base (tilePage t 1) = false → placeFor p r = true →
      let slot := hopSlot p t h (reg Off.HOP_HEAD)
      memReady p (sramBase t + slot) 64 = true →
      (slot + 64 ≤ sramSize → (∀ c ∈ canonRange p (sramBase t + slot) 64, deadAt p c = false ∧ badAt p c = false) →
        let q := (takePlace p r).wr (hopReg t h Off.HOP_HEAD) ((reg Off.HOP_HEAD + 1) % 2 ^ 32)
        exec (.descriptorFetch k r) s = .next (setPkg s k (headStep (q.setHop r (q.hop r ++
          [{ idx := reg Off.HOP_HEAD,
             bytes := (List.range 64).map fun i => byteValue p (sramBase t + slot + i) }])) r))) ∧
      (sramSize < slot + 64 → (∀ e ∈ p.hop r, e.idx ≠ reg Off.HOP_HEAD) → ∃ u, exec (.descriptorFetch k r) s = .next u ∧ hopHalted (pkgOf u k) r = true ∧
        (pkgOf u k).mem = p.mem ∧ (pkgOf u k).tl.pegs = p.tl.pegs)) ∧
    (∀ e x, headEntry p r = some e → hopHalted p r = false → e.stage = .decoded → engineOf (dOp e.bytes) = some x →
      (dOrder e.bytes = false ∨ (p.hop r).head?.map (·.idx) = some e.idx) →
      (∀ a, issuePage t x = some a → enabledPage p.base a = true ∧ strikingPage p.base a = false) →
      (∀ n, engineNum t e.bytes = some n → engineTakes p n r = true) → hollowPage p.base (tilePage t 0) = false →
      exec (.descriptorIssue k r) s =
        .next (setPkg s k (headStep ((takeEngine p (engineNum t e.bytes) r).setHop r
          (setEntry (p.hop r) e.idx fun y => { y with stage := .issued })) r))) ∧
    (∀ e, headEntry p r = some e → e.stage = .waiting → p.rdF (hopReg t h Off.HOP_WAIT_LIMIT) 23 0 ≠ 0 →
      e.waitStart + 1000 * p.rdF (hopReg t h Off.HOP_WAIT_LIMIT) 23 0 < p.base.gtime →
      ∃ u, exec (.waitTimeout k r) s = .next u ∧ hopHalted (pkgOf u k) r = true ∧
        (pkgOf u k).rdF (tilePage t 1 + Off.HOP_STAT + 0x20 * h) 15 8 = St.waitTimeout ∧
        (∀ n, ∀ w ∈ ((pkgOf u k).peg n).waiters, ∀ y, w ≠ .hopper r y))) ∧
  (∀ (s : State) (k : Nat) (r : HopRef) (idx : Nat) (e : HopEntry),
    ((pkgOf s k).hop r).find? (fun y => decide (y.idx = idx ∧ y.stage = .finished)) = some e →
    exec (.descriptorComplete k r idx) s =
      .next (setPkg s k (completeEntry (pkgOf s k) r idx e.status 0 e.saturated))) ∧
  (∀ (p : Package) (t h idx st det : Nat) (sat : Bool) (e : HopEntry), t < 16 → h < 4 → st < 256 →
    let r := HopRef.tile t h
    let n := dBumpPeg e.bytes
    (p.hop r).find? (fun y => decide (y.idx = idx)) = some e →
    let q := completeCore p r idx st det sat
    (st ≠ 0 → hopHalted q r = true ∧ q.rdF (tilePage t 1 + Off.HOP_STAT + 0x20 * h) 15 8 = st ∧ q.tl.pegs = p.tl.pegs) ∧
    (st = 0 → dBump e.bytes = true → pegExists p n = true → hollowPage p.base (tilePage (n / 512) 0) = false →
      (pegFor p (pitchOfHop p r) n = true →
        (q.peg n).counter = (p.peg n).counter + w32 (dBumpAdd e.bytes) ∧ (∀ m ≠ n, q.peg m = p.peg m) ∧
        hopHalted q r = hopHalted p r) ∧
      (pegFor p (pitchOfHop p r) n = false → hopHalted q r = true ∧ q.tl.pegs = p.tl.pegs ∧
        q.rdF (tilePage t 1 + Off.HOP_STAT + 0x20 * h) 15 8 = St.crossPitch)))

/-- ADD adds its value to COUNTER modulo 2^32. Its wrap raises no event and sets no flag: an ADD leaves exactly what the SET of the
sum leaves, whether the sum wraps or not. -/
def Obligations.PegAddWraps : Prop :=
  ∀ (p : Package) (n v : Nat),
    ((pegApply p n (.add v)).peg n).counter.toNat = ((p.peg n).counter.toNat + v) % 2 ^ 32 ∧
    pegApply p n (.add v) = pegApply p n (.set (((p.peg n).counter.toNat + v) % 2 ^ 32))

/-- An operation on a peg leaves every other peg as it is; a waiter stays on the list, in order, exactly while the wait-until-at-least
test fails against its value, and a hopper whose waiter leaves no longer waits (R135, R142). SET and SET_TARGET write their word.
The commands that reach pegs. A local PEG descriptor applies its operation where the peg exists, is not on a hollow tile and is
its pitch's, and else ends CROSS_PITCH or HOLLOW_UNIT with every peg as it was (R139, R148, R150). A running core's store to the slot
of a peg committed to its tile's owner applies the operation, or arms the core's one wait; to any other peg it is a store access
fault (R140, R141). PEG_ALLOC stages its fields until it is committed, and keeps its commit while a waiter is on the list (R148).
Completes: PEG_ADD, PEG_SET, SET_TARGET, CORE_PEG_SET, CORE_PEG_SET_TARGET, CORE_PEG_ADD, CORE_WAIT_ARM, PEG_ALLOC_WRITE. -/
def Obligations.PegOperations : Prop :=
  (∀ (p : Package) (n : Nat) (op : PegOp),
    let x := p.peg n
    let y := (pegApply p n op).peg n
    (y.counter = match op with
      | .add v => x.counter + BitVec.ofNat 32 v
      | .set v => BitVec.ofNat 32 v
      | .setTarget _ => x.counter) ∧
    (y.target = match op with
      | .setTarget v => BitVec.ofNat 32 v
      | _ => x.target) ∧
    (y.waiters = x.waiters.filter fun w => decide (2 ^ 31 ≤ (y.counter - BitVec.ofNat 32 w.value).toNat)) ∧
    (∀ m ≠ n, (pegApply p n op).peg m = p.peg m) ∧ (pegApply p n op).mem = p.mem ∧
    (∀ t < 16, ∀ h < 4, ∀ v, Waiter.hopper (.tile t h) v ∈ x.waiters → Waiter.hopper (.tile t h) v ∉ y.waiters →
      bitOf ((pegApply p n op).rd (tilePage t 1 + Off.HOP_STAT + 0x20 * h)) 1 = false)) ∧
  (∀ (s : State) (k : Nat) (r : HopRef) (idx : Nat) (e : HopEntry), issuedEntry (pkgOf s k) r idx 0x60 = some e →
    let p := pkgOf s k
    let n := fieldAt e.bytes 18 2 % 8192
    let v := fieldAt e.bytes 20 4
    let ends := fun (q : Package) (st : Nat) => setPkg s k { finishEntry q r idx st false with mem := p.mem }
    let mine := pegExists p n = true ∧ hollowPage p.base (tilePage (n / 512) 0) = false ∧ pegFor p (pitchOfHop p r) n = true
    let st := if pegExists p n = true ∧ hollowPage p.base (tilePage (n / 512) 0) = true then St.hollowUnit else St.crossPitch
    (byteAt e.bytes 16 = 0 →
      (mine → exec (.pegAdd k r idx) s = .next (ends (pegApply p n (.add v)) 0)) ∧
      (¬ mine → exec (.pegAdd k r idx) s = .next (ends p st))) ∧
    (byteAt e.bytes 16 = 1 →
      (mine → exec (.pegSet k r idx) s = .next (ends (pegApply p n (.set v)) 0)) ∧
      (¬ mine → exec (.pegSet k r idx) s = .next (ends p st))) ∧
    (byteAt e.bytes 16 = 2 →
      (mine → exec (.setTarget k r idx) s = .next (ends (pegApply p n (.setTarget v)) 0)) ∧
      (¬ mine → exec (.setTarget k r idx) s = .next (ends p st)))) ∧
  (∀ (s : State) (k t c n v : Nat), coreActive (pkgOf s k) t c = true → n < 512 →
    let p := pkgOf s k
    let a := p.rd (pegAllocReg (512 * t + n))
    (bitOf a 16 = true → fld a 11 0 = ownerOf p.base (tilePage t 0) →
      exec (.corePegSet k t c n v) s = .next (setPkg s k { pegApply p (512 * t + n) (.set v) with mem := p.mem }) ∧
      exec (.corePegSetTarget k t c n v) s = .next (setPkg s k { pegApply p (512 * t + n) (.setTarget v) with mem := p.mem }) ∧
      exec (.corePegAdd k t c n v) s = .next (setPkg s k { pegApply p (512 * t + n) (.add v) with mem := p.mem }) ∧
      (∃ u, exec (.coreWaitArm k t c n v) s = .next u ∧
        let ok := decide (((p.peg (512 * t + n)).counter - BitVec.ofNat 32 v).toNat < 2 ^ 31)
        ((pkgOf u k).core t c).armed = some (n, v, ok) ∧
        ((pkgOf u k).peg (512 * t + n)).counter = (p.peg (512 * t + n)).counter ∧
        (ok = false → ((pkgOf u k).peg (512 * t + n)).waiters.getLast? = some (.core (2 * t + c) v)))) ∧
    (bitOf a 16 = false ∨ fld a 11 0 ≠ ownerOf p.base (tilePage t 0) →
      exec (.corePegSet k t c n v) s =
        .next (setPkg s k { trapCore p t c 7 (p.core t c).pc (0x2000000 + 16 * n) with mem := p.mem }) ∧
      exec (.coreWaitArm k t c n v) s =
        .next (setPkg s k { trapCore p t c 7 (p.core t c).pc (0x2000000 + 16 * n + 12) with mem := p.mem }))) ∧
  (∀ (s : State) (k : Nat) (src : Src) (n v : Nat), n < 8192 → v < 2 ^ 32 →
    let p := pkgOf s k
    let a := pegAllocReg n
    let new := v % 2 ^ 13 + (if bitOf v 16 then 2 ^ 16 else 0)
    Safety.reaches s k src a .pegs = true →
    (bitOf (p.rd a) 16 = false ∨ bitOf v 16 = false ∧ (p.peg n).waiters = [] →
      exec (.pegAllocWrite k src n v) s = .next (Safety.written s k a (p.wr a new))) ∧
    (bitOf (p.rd a) 16 = true → bitOf v 16 = false → (p.peg n).waiters ≠ [] →
      exec (.pegAllocWrite k src n v) s = .next (Safety.refused s k src a v 1)) ∧
    (bitOf (p.rd a) 16 = true → bitOf v 16 = true → new ≠ p.rd a →
      exec (.pegAllocWrite k src n v) s = .next (Safety.refused s k src a v 5)))

/-- Cores. CORE_CTRL.RUN 1 on an enabled page starts a held core at RESET_PC with its instruction cache invalid; 0 holds it. A running
core's trap enters the handler that mtvec names; with mtvec 0 it halts the core, which shows FAULTED and the cause, and raises
CORE_FAULT (R88). Completes: CORE_RUN, CORE_TRAP. -/
def Obligations.Cores : Prop :=
  (∀ (s : State) (k : Nat) (src : Src) (t c v : Nat), t < 16 → c < 2 → v < 2 ^ 32 →
    let p := pkgOf s k
    let a := coreReg t c Off.CORE_CTRL
    let q := p.wrF a 0 0 (v % 2)
    Safety.reaches s k src a .tile2 = true →
    (bitOf v 0 = true → (p.core t c).held = true → enabledPage p.base (tilePage t 2) = true →
      exec (.coreRun k src t c v) s = .next (Safety.written s k a
        ((q.setCore t c (let x := p.core t c
            { x with held := false, pc := 0x80000000 + p.rd (coreReg t c Off.RESET_PC) / 4 * 4, icache := [] })).wrF
          (tilePage t 2 + Off.CORE_STAT + 0x10 * c) 2 0 1))) ∧
    (bitOf v 0 = false → bitOf (p.rd a) 0 = true → ∃ u, exec (.coreRun k src t c v) s = .next u ∧
      ((pkgOf u k).core t c).held = true ∧ (pkgOf u k).rdF (tilePage t 2 + Off.CORE_STAT + 0x10 * c) 2 0 = 0 ∧
      (pkgOf u k).mem = p.mem ∧ (pkgOf u k).tl.hops = p.tl.hops)) ∧
  (∀ (s : State) (k t c cause pc tval : Nat), t < 16 → c < 2 →
    coreActive (pkgOf s k) t c = true ∨ coreRuns (pkgOf s k) t c = true ∧ 2 ^ 63 ≤ cause →
    let p := pkgOf s k
    ∃ u, exec (.coreTrap k t c cause pc tval) s = .next u ∧ (pkgOf u k).mem = p.mem ∧ (pkgOf u k).tl.hops = p.tl.hops ∧
      ((p.core t c).mtvec ≠ 0 → coreRuns (pkgOf u k) t c = true ∧ ((pkgOf u k).core t c).mepc = pc ∧
        ((pkgOf u k).core t c).mcause = cause ∧ ((pkgOf u k).core t c).mtval = tval ∧
        ((p.core t c).mtvec % 4 = 0 → ((pkgOf u k).core t c).pc = (p.core t c).mtvec)) ∧
      ((p.core t c).mtvec = 0 → coreRuns (pkgOf u k) t c = false ∧
        (pkgOf u k).rdF (tilePage t 2 + Off.CORE_STAT + 0x10 * c) 1 1 = 1 ∧
        (pkgOf u k).rdF (tilePage t 2 + Off.CORE_STAT + 0x10 * c) 15 8 = cause % 256 ∧
        (pkgOf u k).rd (coreReg t c Off.FAULT_PC) = pc % 2 ^ 32 ∧
        bitOf ((pkgOf u k).rd (tilePage t 2 + Off.EVT_STAT)) c = true))

/-- Requests to a tile's SRAM and to the stacks. A read with no error gives the bytes' values; a write stores its bytes, and no other
byte changes. A request waits whole where its one piece does: at a stack that does not serve, at a tile whose line repair runs, and, for
a write, at an unscrubbed granule until it is zeroed (R117, R118, R283, R465). A core's access goes by core address: one to its peg
window that is no aligned word traps with an access fault, as does one beyond its map; a misaligned one traps as misaligned; scratch is
the core's own; a doorbell reads as HOP_DONE (R86, R140). Completes: SRAM_ACCESS, MEMORY_REQUEST. -/
def Obligations.MemoryRequests : Prop :=
  (∀ (s : State) (k t die off : Nat) (op : MemOp),
    let p := pkgOf s k
    let a := sramBase t + off
    let n := opLen op
    t < 16 → t < p.tiles → 0 < n → off + n ≤ sramSize →
    (∀ b, op = .write b → waitAt p a op = none → off / 0x10000 = (off + n - 1) / 0x10000 →
      (∀ c ∈ canonRange p a n, deadAt p c = false ∧ unitBad p c = false) →
      ∃ u, exec (.sramAccess k t (.tileEngine die) off op []) s = .next u ∧ (pkgOf u k).mem.lastStatus = 0 ∧
        (∀ i < n, byteValue (pkgOf u k) (a + i) = nth 0 b i) ∧
        (∀ c, (regionOf p c = some .dram ∨ ∃ t, regionOf p c = some (.sram t)) → (c < a ∨ a + n ≤ c) →
          byteValue (pkgOf u k) c = byteValue p c)) ∧
    (op = .read n → memReady p a n = true → (∀ c ∈ canonRange p a n, deadAt p c = false ∧ badAt p c = false) →
      ∃ u, exec (.sramAccess k t (.tileEngine die) off op []) s = .next u ∧ (pkgOf u k).mem.lastStatus = 0 ∧
        (pkgOf u k).mem.lastRead = (List.range n).map (fun i => byteValue p (a + i)) ∧ (pkgOf u k).mem.cells = p.mem.cells) ∧
    (∀ w, waitAt p a op = some w → off / 0x10000 = (off + n - 1) / 0x10000 →
      ∃ u x, exec (.sramAccess k t (.tileEngine die) off op []) s = .next u ∧ x.off = a ∧ x.op = opPart op 0 n ∧
        (pkgOf u k).mem.cells = p.mem.cells ∧
        (w = .tile t → (pkgOf u k).mem.sramWait = p.mem.sramWait ++ [(t, x)]) ∧
        (∀ g, w = .granule t g → (pkgOf u k).mem.zeroWait = p.mem.zeroWait ++ [(t, g, x)]))) ∧
  (∀ (s : State) (k c a n : Nat) (b : Bytes), coreActive (pkgOf s k) (c / 2) (c % 2) = true → (n = 1 ∨ n = 2 ∨ n = 4 ∨ n = 8) →
    let p := pkgOf s k
    let traps := fun (cause : Nat) =>
      { setPkg s k (trapCore p (c / 2) (c % 2) cause (p.core (c / 2) (c % 2)).pc a) with free := s.free + 1 }
    (pegWindow a = true → (n ≠ 4 ∨ a % 4 ≠ 0) →
      exec (.sramAccess k (c / 2) (.core c) a (.read n) []) s = .next (traps 5) ∧
      (b.length = n → exec (.sramAccess k (c / 2) (.core c) a (.write b) []) s = .next (traps 7))) ∧
    (pegWindow a = false → a % n ≠ 0 →
      exec (.sramAccess k (c / 2) (.core c) a (.read n) []) s = .next (traps 4) ∧
      (b.length = n → exec (.sramAccess k (c / 2) (.core c) a (.write b) []) s = .next (traps 6))) ∧
    (a % n = 0 → 0x80000000 + sramSize ≤ a →
      exec (.sramAccess k (c / 2) (.core c) a (.read n) []) s = .next (traps 5) ∧
      (b.length = n → exec (.sramAccess k (c / 2) (.core c) a (.write b) []) s = .next (traps 7))) ∧
    (a % n = 0 → a < 0x10000 →
      exec (.sramAccess k (c / 2) (.core c) a (.read n) []) s = .next { setPkg s k { p with mem := { p.mem with
        lastRead := memRead (p.core (c / 2) (c % 2)).scratch a n, lastStatus := 0 } } with free := s.free + 1 }) ∧
    (∀ h < 4, n = 8 → a = 0x01000000 + 8 * h →
      ∃ u, exec (.sramAccess k (c / 2) (.core c) a (.read n) []) s = .next u ∧
        (pkgOf u k).mem.lastRead = le 8 (p.rd (hopReg (c / 2) h Off.HOP_DONE)))) ∧
  (∀ (s : State) (k die off : Nat) (op : MemOp),
    let p := pkgOf s k
    let n := opLen op
    inRegion p off n = true → regionOf p off = some .dram ∨ regionOf p off = some .ilv → pieceUnit off - off % pieceUnit off ≥ n →
    (waitAt p off op = none →
      (∀ c ∈ canonRange p off n, deadAt p c = false ∧ badAt p c = false ∧ unitBad p c = false) →
      ∃ u, exec (.memoryRequest k (.linkDie die) off op []) s = .next u ∧ (pkgOf u k).mem.lastStatus = 0 ∧
        (op = .read n → (pkgOf u k).mem.lastRead = (List.range n).map (fun i => byteValue p (canon p (off + i))) ∧
          (pkgOf u k).mem.cells = p.mem.cells) ∧
        (∀ b, op = .write b → (∀ i < n, byteValue (pkgOf u k) (canon p (off + i)) = nth 0 b i) ∧
          (∀ c, (regionOf p c = some .dram ∨ ∃ t, regionOf p c = some (.sram t)) → c ∉ canonRange p off n →
            byteValue (pkgOf u k) c = byteValue p c))) ∧
    (∀ w, waitAt p off op = some (.stack w) →
      ∃ u x, exec (.memoryRequest k (.linkDie die) off op []) s = .next u ∧ x.off = off ∧ x.op = opPart op 0 n ∧
        (pkgOf u k).mem.cells = p.mem.cells ∧ ((pkgOf u k).stack w).waiting = (p.stack w).waiting ++ [x]))

/-- Stacks, scrubbing and repair. Temperature: HOT from 85 °C, raised once, until below 82 °C (R123). A stack that loses training
serves nothing and its requests wait; retrained it serves again; the third failed attempt makes it hollow (R122). Patrol visits the
granules in order and wraps with PATROL_DONE (R121). The scrubber zeroes its next granule, which from then on reads as
zero and is not marked (R284). MEM_CFG takes stacks offline (R129). REPAIR_ADD starts a repair or answers at once; the repaired line
reads as zero and one spare less is free (R311, R321). Completes: STACK_TEMP_SAMPLE, STACK_TRAINING_LOST, STACK_RETRAIN_DONE,
PATROL_STEP, SCRUB_GRANULE_DONE, GRANULE_ZERO_DONE, MEM_CFG_WRITE, REPAIR_ADD, REPAIR_DONE. -/
def Obligations.StacksAndRepair : Prop :=
  (∀ (s : State) (k u v : Nat), u < 8 →
    let p := pkgOf s k
    let stat := stackPage u + Off.STACK_STAT
    (∃ t, exec (.stackTempSample k u (some v)) s = .next t ∧ (pkgOf t k).rdF stat 15 8 = min v 254 ∧
      (85 ≤ v → bitOf ((pkgOf t k).rd stat) 3 = true ∧
        (bitOf (p.rd stat) 3 = false → bitOf ((pkgOf t k).rd (stackPage u + Off.EVT_STAT)) 3 = true)) ∧
      (v < 82 → bitOf ((pkgOf t k).rd stat) 3 = false) ∧
      (82 ≤ v → v < 85 → bitOf ((pkgOf t k).rd stat) 3 = bitOf (p.rd stat) 3)) ∧
    (bitOf (p.rd stat) 1 = false →
      exec (.stackTrainingLost k u) s =
        .next (setPkg s k ((p.wrF stat 0 0 0).setStack u { p.stack u with retries := 0 })) ∧
      (bitOf (p.rd stat) 0 = false →
        (∃ t, exec (.stackRetrainDone k u true) s = .next t ∧ ((p.stack u).waiting = [] → bitOf ((pkgOf t k).rd stat) 0 = true)) ∧
        ((p.stack u).retries + 1 < 3 → exec (.stackRetrainDone k u false) s =
          .next { setPkg s k (p.setStack u { p.stack u with retries := (p.stack u).retries + 1 }) with free := s.free + 1 }) ∧
        (3 ≤ (p.stack u).retries + 1 → ∃ t, exec (.stackRetrainDone k u false) s = .next t ∧
          ((p.stack u).waiting = [] → bitOf ((pkgOf t k).rd stat) 1 = true))) ∧
      (bitOf (p.rd stat) 0 = true → bitOf (p.rd stat) 2 = false → p.rdF (pg (0x22 + u / 4) 0 + Off.PATROL_CFG) 7 0 ≠ 0 →
        let g := p.rdF (stackPage u + Off.PATROL_POS) 14 0
        unscrubbed p (u * stackSize + g * 0x200000) = true → g < 18432 →
        exec (.patrolStep k u []) s = .next { setPkg s k
          (let q := p.wrF (stackPage u + Off.PATROL_POS) 14 0 ((g + 1) % 18432)
           if g = 18431 then raise q (stackPage u) 4 {} else q) with free := s.free + 1 }))) ∧
  (∀ (s : State) (k unit g : Nat), unit < 24 →
    let p := pkgOf s k
    let first := if unit < 16 then sramBase unit + g * 0x10000 else (unit - 16) * stackSize + g * 0x200000
    let len := if unit < 16 then 0x10000 else 0x200000
    let n := if unit < 16 then 20480 else 18432
    let here := if unit < 16 then p.rd (tilePage unit 4 + Off.SCRUB_NEXT) else (p.stack (unit - 16)).scrubPos
    scrubRuns p unit = true → here = g → g < n → unscrubbed p first = true →
    ∃ t, exec (.scrubGranuleDone k unit) s = .next t ∧
      (∀ c, first ≤ c → c < first + len → unscrubbed (pkgOf t k) c = false ∧ byteValue (pkgOf t k) c = 0) ∧
      (∀ c, (regionOf p c = some .dram ∨ ∃ t, regionOf p c = some (.sram t)) → byteValue (pkgOf t k) c = byteValue p c) ∧
      (memWf p.mem.cells = true → memWf (pkgOf t k).mem.cells = true)) ∧
  (∀ (s : State) (k unit g : Nat) (x : Piece),
    let p := pkgOf s k
    let c := if unit < 16 then sramBase unit + g * 0x10000 else (unit - 16) * stackSize + g * 0x200000
    p.mem.zeroWait = [(unit, g, x)] → unscrubbed p c = true →
    exec (.granuleZeroDone k unit g) s = .next { setPkg s k (pieceIn s.free
      (zeroGranule { p with mem := { p.mem with zeroWait := [] } } c) x) with free := s.free + 1 }) ∧
  (∀ (s : State) (k : Nat) (src : Src) (m v : Nat), m < 2 → v < 64 →
    let p := pkgOf s k
    let a := pg (0x22 + m) 0 + Off.MEM_CFG
    Safety.reaches s k src a .mem0 = true → quiesced p (pg 0x22 0) = true → quiesced p (pg 0x23 0) = true →
    ∃ t, exec (.memCfgWrite k src m v) s = .next t ∧ (pkgOf t k).rdF a 3 0 = v % 16 ∧
      (m = 0 → v < 32 → (pkgOf t k).ilvHash = v / 16) ∧
      (∀ i < 4, bitOf ((pkgOf t k).rd (stackPage (4 * m + i) + Off.STACK_STAT)) 2 = bitOf v i)) ∧
  (∀ (s : State) (k : Nat) (src : Src) (tile bank row : Nat), tile < 16 → bank < 80 → row < 2 ^ 18 →
    let p := pkgOf s k
    let a := tilePage tile 3 + Off.REPAIR_ADD
    Safety.reaches s k src a .tile3 = true → quiesced p (tilePage tile 3) = true →
    p.mem.repaired.contains (tile, row * 80 + bank) = false → 0 < spares p tile bank →
    ∃ t, exec (.repairAdd k src tile (bank + row * 256)) s = .next t ∧
      mfind tile (pkgOf t k).mem.repairing = some (bank, row) ∧ (pkgOf t k).mem.cells = p.mem.cells) ∧
  (∀ (s : State) (k tile bank row : Nat), tile < 16 → bank < 80 → mfind tile (pkgOf s k).mem.repairing = some (bank, row) →
    (∀ w ∈ (pkgOf s k).mem.sramWait, w.1 ≠ tile) →
    let line := sramBase tile + 64 * (row * 80 + bank)
    ∃ t, exec (.repairDone k tile) s = .next t ∧ mfind tile (pkgOf t k).mem.repairing = none ∧
      (∀ c, line ≤ c → c < line + 64 → memByte (pkgOf t k).mem.cells c = 0) ∧
      (∀ c, c < line ∨ line + 64 ≤ c → memByte (pkgOf t k).mem.cells c = memByte (pkgOf s k).mem.cells c) ∧
      spares (pkgOf t k) tile bank = spares (pkgOf s k) tile bank - 1 ∧
      (pkgOf t k).rdF (tilePage tile 3 + Off.REPAIR_LAST) 2 0 = 1)

/-! ## Ports, packets and time -/

/-- Training (R187–R194). Each phase passes into the next; Identify passes on three valid blocks that show the right wiring, and
on wrong wiring the port enters WIRING_FAULT; Verify ends in ACTIVE where EXPECT is valid and matches the partner, else in
UP_UNATTESTED. A phase that times out on the fast path at Equalize or Verify falls back to a full Equalize in the same attempt;
any other failed attempt is counted and the next one starts at Detect, or after the third the port is PARKED; a parked port
tries again where the limit on training ports allows, else it waits. Identity blocks count toward Identify. An up-port's module
(R194, R204). Its state is read into OPTICS; a module that reports alarms has them logged; its absence or loss of signal takes
an ACTIVE port into HOLD under cause 1. Completes: TRAIN_PHASE_PASS, TRAIN_PHASE_TIMEOUT, PARTNER_RESTART, TRAIN_PARK_RETRY,
WIRING_FAULT_IDENTITY, IDENTITY_BLOCK, OPTICS_READY_TIMEOUT, EXPECT_WRITE, OPTICS_POLL. -/
def Obligations.Training : Prop :=
  (∀ (s : State) (e : Elem) (q : Nat), q < Safety.ports e →
      let b := baseOf s e
      let x := b.port q
      let stat := portReg b q Off.PORT_STAT
      let n := rdF b stat 5 4
      let goes := fun (t : State) (v : Nat) => ((baseOf t e).port q).phase = v ∧ (x.holdStart = none → portState (baseOf t e) q = v)
      let again := fun (t : State) => ((baseOf t e).port q).phase = 1 ∧ rdF (baseOf t e) stat 5 4 = n + 1 ∧
        rd (baseOf t e) (portReg b q Off.TRAIN_FAIL_CNT) = satAdd 0xFFFFFFFF (rd b (portReg b q Off.TRAIN_FAIL_CNT)) 1
      (x.phase = 1 → moduleReady b q = true → ∃ t, exec (.trainPhasePass e q) s = .next t ∧ goes t 2 ∧
        ((baseOf t e).port q).idSent.length = 20) ∧
      (x.phase = 2 → 3 ≤ x.ids → wiringOk b q = true → ∃ t, exec (.trainPhasePass e q) s = .next t ∧ goes t 3) ∧
      (x.phase = 3 → ∃ t, exec (.trainPhasePass e q) s = .next t ∧ goes t 4) ∧
      (x.phase = 4 → ∃ t, exec (.trainPhasePass e q) s = .next t ∧ goes t 5) ∧
      (x.phase = 2 → 3 ≤ x.ids → wiringOk b q = false → x.holdStart = none →
        ∃ t, exec (.trainPhasePass e q) s = .next t ∧ portState (baseOf t e) q = 10) ∧
      (x.phase = 5 → x.holdStart = none → ∃ t, exec (.trainPhasePass e q) s = .next t ∧ ((baseOf t e).port q).phase = 0 ∧
        portState (baseOf t e) q = if expectValid b q && expectMatches b q then 7 else 6) ∧
      (x.phase = 3 ∨ x.phase = 5 → rdF b stat 6 6 = 1 → x.fellBack = false →
        ∃ t, exec (.trainPhaseTimeout e q) s = .next t ∧ ((baseOf t e).port q).phase = 3 ∧
          ((baseOf t e).port q).fellBack = true ∧ rdF (baseOf t e) stat 5 4 = n) ∧
      (x.phase = 1 ∨ x.phase = 2 ∨ x.phase = 4 ∨ rdF b stat 6 6 = 0 ∧ x.phase ≠ 0 → x.parkedRetry = false → n < 3 →
        ∃ t, exec (.trainPhaseTimeout e q) s = .next t ∧ again t) ∧
      (x.phase = 1 ∨ x.phase = 2 ∨ x.phase = 4 ∨ rdF b stat 6 6 = 0 ∧ x.phase ≠ 0 → x.parkedRetry = true ∨ 3 ≤ n →
        ∃ t, exec (.trainPhaseTimeout e q) s = .next t ∧ ((baseOf t e).port q).phase = 0 ∧ ((baseOf t e).port q).parked = true ∧
          (x.holdStart = none → portState (baseOf t e) q = 9)) ∧
      (2 ≤ x.phase → x.parkedRetry = false → n < 3 → ∃ t, exec (.partnerRestart e q) s = .next t ∧ again t) ∧
      (x.parked = true → x.phase = 0 → x.waitTrain = false → portEnabled b q = true →
        ∃ t, exec (.trainParkRetry e q) s = .next t ∧ ((baseOf t e).port q).parkedRetry = true ∧
          (trainingNow b < trainLimit b → ((baseOf t e).port q).phase = 1 ∧ rdF (baseOf t e) stat 5 4 = 1) ∧
          (trainLimit b ≤ trainingNow b → ((baseOf t e).port q).phase = 0 ∧ ((baseOf t e).port q).waitTrain = true)) ∧
      (portState b q = 10 → ∃ t, exec (.wiringFaultIdentity e q) s = .next t ∧
        ((baseOf t e).port q).idSent = identityBlock b q ∧ portState (baseOf t e) q = 10) ∧
      (∀ block : Bytes, x.phase = 2 → block.length = 20 →
        (fieldAt block 16 4 = crc32 (block.take 16) → ∃ t, exec (.identityBlock e q block) s = .next t ∧
          ((baseOf t e).port q).ids = x.ids + 1 ∧
          ∀ i < 5, rd (baseOf t e) (portReg b q Off.PARTNER_ID + 4 * i) = fieldAt block (4 * i) 4) ∧
        (fieldAt block 16 4 ≠ crc32 (block.take 16) → ∃ t, exec (.identityBlock e q block) s = .next t ∧
          ((baseOf t e).port q).ids = 0 ∧
          ∀ i < 5, rd (baseOf t e) (portReg b q Off.PARTNER_ID + 4 * i) = rd b (portReg b q Off.PARTNER_ID + 4 * i))) ∧
      (∀ w, e = .weir w → x.phase = 1 → moduleReady b q = false → x.parkedRetry = false → n < 3 →
        ∃ t, exec (.opticsReadyTimeout w q) s = .next t ∧ again t) ∧
      (∀ (serial partner : Nat) (src : Src), portState b q = 6 → serial < 2 ^ 64 → partner < 256 →
        partnerSerial b q = serial → partnerPort b q = partner →
        (∀ w, e = .weir w → b.isWeir = true) →
        (∀ k, e = .pkg k → b.isWeir = false ∧ ∀ off ∈ [Off.EXPECT_SERIAL_LO, Off.EXPECT_SERIAL_HI, Off.EXPECT_CTL],
          Safety.reaches s k src (portPage q + off) .port = true) →
        ∃ t, exec (.expectWrite e src q serial partner true) s = .next t ∧ portState (baseOf t e) q = 7)) ∧
  (∀ (s : State) (w q temp state : Nat) (present ready los : Bool), 64 ≤ q → q < 72 →
      let alarms := state / 16
      let v := (if present then 1 else 0) + (if ready then 2 else 0) + state % 16 * 16 + temp % 256 * 256
      ∃ t, exec (.opticsPoll w q temp state present ready los) s = .next t ∧ (weirOf t w).rd (0x20000 + 0x80 * q + 0x70) = v ∧
        (present = true → los = false → alarms = 0 → t = setWeir s w ((weirOf s w).wr (0x20000 + 0x80 * q + 0x70) v)) ∧
        (present = true → los = false → alarms ≠ 0 → t = setWeir s w
          (weirEvent ((weirOf s w).wr (0x20000 + 0x80 * q + 0x70) v) q 12 0 alarms 0)) ∧
        (present = false ∨ los = true → (weirOf s w).base.isWeir = true → portState (weirOf s w).base q = 7 →
          portState (weirOf t w).base q = 8 ∧ rdF (weirOf t w).base (portReg (weirOf s w).base q Off.PORT_STAT) 15 12 = 1))


/-- Ports up and down (R186, R195–R199). An ACTIVE port that loses signal or lock enters HOLD and keeps the frames of its replay buffer
and its queue; relocked in time with the same partner it is ACTIVE again with its frames; after a failed relock it trains. When a hold
expires, and at a down notice, the port keeps no packet. ENABLE starts training; a disabled port drains first where it carries packets;
when all is acknowledged it sends its down notice, kept for replay, and enters DISABLED. Completes: PORT_SIGNAL_LOSS, PORT_LOCK_LOSS,
PORT_RELOCK, RELOCK_TIMEOUT, DOWN_NOTICE, LINK_HOLD_EXPIRE, WEIR_HOLD_EXPIRE, PORT_DISABLE_DRAINED, PORT_ENABLE, PORT_DISABLE. -/
def Obligations.PortsUpAndDown : Prop :=
  ∀ (s : State) (e : Elem) (q : Nat), q < Safety.ports e →
    let b := baseOf s e
    let x := b.port q
    let stat := portReg b q Off.PORT_STAT
    let holds := fun (t : State) (cause : Nat) =>
      portState (baseOf t e) q = 8 ∧ rdF (baseOf t e) stat 15 12 = cause ∧
      ((baseOf t e).port q).holdStart = some b.gtime ∧
      ((baseOf t e).port q).replay = x.replay.map (fun f => { f with resent := 0 }) ∧
      ((baseOf t e).port q).part = x.part ∧ ((baseOf t e).port q).queue = x.queue
    let trains := fun (t : State) => ((baseOf t e).port q).phase = 1 ∨ ((baseOf t e).port q).waitTrain = true
    let empty := fun (t : State) => ((baseOf t e).port q).replay = [] ∧ ((baseOf t e).port q).part = [] ∧
      ((baseOf t e).port q).queue = []
    (portState b q = 7 → ∃ t, exec (.portSignalLoss e q false) s = .next t ∧ holds t 1) ∧
    (portState b q = 7 → ∃ t, exec (.portLockLoss e q) s = .next t ∧ holds t 2) ∧
    (x.relocking = true → x.holdStart ≠ none → ∃ t, exec (.portRelock e q true) s = .next t ∧
      portState (baseOf t e) q = 7 ∧ ((baseOf t e).port q).holdStart = none ∧
      x.replay <+: ((baseOf t e).port q).replay) ∧
    (x.relocking = true → ∃ t, exec (.relockTimeout e q) s = .next t ∧ ((baseOf t e).port q).relocking = false ∧ trains t) ∧
    (portState b q = 7 → ∃ t, exec (.downNotice e q) s = .next t ∧ empty t ∧ rdF (baseOf t e) stat 15 12 = 5 ∧
      (x.draining = false → trains t) ∧ (x.draining = true → ((baseOf t e).port q).draining = false)) ∧
    (∀ k, e = .pkg k → x.holdStart ≠ none → x.phase ≤ 5 → ∃ t, exec (.linkHoldExpire k q) s = .next t ∧ empty t ∧
      ((baseOf t e).port q).holdStart = none ∧ portState (baseOf t e) q ≠ 8) ∧
    (∀ w, e = .weir w → x.holdStart ≠ none → x.phase ≤ 5 → ∃ t, exec (.weirHoldExpire w q) s = .next t ∧ empty t ∧
      ((baseOf t e).port q).holdStart = none ∧ portState (baseOf t e) q ≠ 8) ∧
    (portState b q = 7 → x.draining = true → x.queue = [] → x.part = [] → x.replay = [] →
      ∃ t, exec (.portDisableDrained e q) s = .next t ∧ portState (baseOf t e) q = 0 ∧
        ((baseOf t e).port q).draining = false ∧ rdF (baseOf t e) stat 15 12 = 6 ∧
        ((baseOf t e).port q).replay = [{ seq := x.txSeq, item := .down }] ∧
        ((baseOf t e).port q).sent = (x.onWire x.txSeq 0 5 0 0 0x3FF []).sent) ∧
    ((∀ k, e = .pkg k → Safety.reaches s k .cs (portPage q + Off.PAGE_CTRL) .port = true ∧
        (pkgOf s k).dies.changing = false ∧ b.isWeir = false) →
      (∀ w, e = .weir w → b.isWeir = true) →
      (x.draining = false → portState b q ≠ 7 → x.phase = 0 → x.waitTrain = false → portEnabled b q = false →
        ∃ t, exec (.portEnable e q) s = .next t ∧ trains t) ∧
      (portEnabled b q = true → ∃ t, exec (.portDisable e q) s = .next t ∧
        (portState b q = 7 ∨ portState b q = 8 → ((baseOf t e).port q).draining = true ∧
          portState (baseOf t e) q = portState b q) ∧
        (portState b q ≠ 7 → portState b q ≠ 8 → portState (baseOf t e) q = 0 ∧ ((baseOf t e).port q).phase = 0)))

/-- Frames at an ACTIVE port. A codeword with no error that carries a good data frame in order: its SEQ expected next moves on,
the packet bytes it carries on and those that begin in it join their VC, and a frame that acknowledges it leaves; one out of
order, or one that fails its CRC, changes neither, and the failed one asks for a replay (R184, R185). More than 15 symbols in
error are counted as an uncorrectable codeword (R183, R186). A replay request drops what its ACK acknowledges, is counted, and
every kept frame leaves again. Packets at an ingress. A parsed packet of a sealed epoch is accepted at a package and counted in
flight; a poisoned one is counted and goes no further (R169, R176, R177). A Weir forwards a packet on its route, answers one
that has none, and keeps the collective packets it consumes (R164, R178, R245). Completes: FRAME_RECEIVE, FRAME_REPLAY_REQUEST,
PACKET_INGRESS, WEIR_FORWARD. -/
def Obligations.FramesAndPackets : Prop :=
  (∀ (s : State) (e : Elem) (q : Nat), q < Safety.ports e → portState (baseOf s e) q = 7 →
      let b := baseOf s e
      let x := b.port q
      (∀ f : Frame, f.type = 1 → f.errors = 0 →
        ∃ t, exec (.frameReceive e q f) s = .next t ∧
          let y := (baseOf t e).port q
          let old := mget [] x.rx f.vc
          (frameOk f = true → f.seq = x.rxSeq →
            y.rxSeq = (x.rxSeq + 1) % 256 ∧ x.sent.length < y.sent.length ∧
            mget [] y.rx f.vc =
              old ++ carriesOn (beginsLast 1024 old) f.firstOff f.data ++ (beginsIn f.firstOff f.data).flatten ∧
            ∀ v ≠ f.vc, mget [] y.rx v = mget [] x.rx v) ∧
          (frameOk f = false ∨ f.seq ≠ x.rxSeq → y.rxSeq = x.rxSeq ∧ y.rx = x.rx) ∧
          (frameOk f = false → y.asked = true)) ∧
      (∀ f : Frame, 15 < f.errors → ∃ t, exec (.frameReceive e q f) s = .next t ∧
        ((baseOf t e).port q).rxSeq = x.rxSeq ∧ ((baseOf t e).port q).rx = x.rx ∧
        rd (baseOf t e) (portReg b q Off.UNCORR_CW) = satAdd 0xFFFFFFFF (rd b (portReg b q Off.UNCORR_CW)) 1) ∧
      (∀ (l r : List KeptFrame) (ack : Nat) (f : KeptFrame), x.replay = l ++ f :: r → f.seq = ack → ack ∉ l.map (·.seq) →
        ∃ t, exec (.frameReplayRequest e q ack) s = .next t ∧
          (r.map fun g => (g.seq, g.item)) <+: (((baseOf t e).port q).replay.map fun g => (g.seq, g.item)) ∧
          x.sent.length + r.length ≤ ((baseOf t e).port q).sent.length ∧
          rd (baseOf t e) (portReg b q Off.REPLAY_CNT) = satAdd 0xFFFFFFFF (rd b (portReg b q Off.REPLAY_CNT)) 1)) ∧
  ((∀ (s : State) (k q len : Nat) (bytes : Bytes) (x : Pkt),
      let p := pkgOf s k
      let page := linkPage (q / 9) 1
      let b := discardRx (takeRx p.base q bytes).1 (takeRx p.base q bytes).2 bytes
      (parsePacket b len bytes = .ok x → epochOpen b x.epoch = false →
        exec (.packetIngress k q len bytes) s = .next (setPkg s k { p with
          base := inflightAdd b x.epoch, fab := { p.fab with delivered := p.fab.delivered ++ [(q, x)] } })) ∧
      (∀ reason route, parsePacket b len bytes = .poison reason x route → q < 18 →
        ∃ t, exec (.packetIngress k q len bytes) s = .next t ∧ (pkgOf t k).fab = p.fab ∧
          bitOf ((pkgOf t k).rd (page + Off.EVT_STAT)) 1 = true)) ∧
    (∀ (s : State) (w q len : Nat) (bytes : Bytes) (k : Pkt), q < 72 →
      let x := (weirOf s w).mapBase fun b => discardRx (takeRx b q bytes).1 (takeRx b q bytes).2 bytes
      (parsePacket x.base len bytes = .ok k → epochOpen x.base k.epoch = false →
        (weirConsumes x q k = false →
          (∀ y out k', weirPlace x k = (y, some (out, k')) →
            ∃ t, exec (.weirForward w q len bytes) s = .next t ∧ weirOf t w = weirSend y out k') ∧
          (∀ y, weirPlace x k = (y, none) →
            ∃ t, exec (.weirForward w q len bytes) s = .next t ∧ weirOf t w = weirNoRoute y q k)) ∧
        (weirConsumes x q k = true → 6 < k.hops →
          ∃ t, exec (.weirForward w q len bytes) s = .next t ∧ weirOf t w = weirNoRoute x q k) ∧
        (weirConsumes x q k = true → k.hops ≤ 6 → cType k = 0 ∨ cType k = 2 ∨ cType k = 4 ∨ cType k = 6 →
          ∃ t, exec (.weirForward w q len bytes) s = .next t ∧
            weirOf t w = { x with taken := x.taken ++ [(q, k)], base := inflightAdd x.base k.epoch })) ∧
      (∀ reason route, parsePacket x.base len bytes = .poison reason k route →
        ∃ t, exec (.weirForward w q len bytes) s = .next t ∧ (weirOf t w).base.ports = x.base.ports ∧
          (weirOf t w).rd (0x12004 + 0x10 * q) = satAdd 0xFFFFFFFF (x.rd (0x12004 + 0x10 * q)) 1)))


/-- Global time (R435–R440). A timing frame of the source port locks the package and corrects it by the frame's time plus the flight
time: up to 1,000 ns it slews, beyond that it steps forward, or runs at half rate. A reply in Verify gives the flight time. At a
TIMESYNC edge a Weir loads the seconds written before, or corrects to the nearest whole second, and is LOCKED; an unlocked package
does the same. A package that loses its source takes another ACTIVE port, or is no longer LOCKED. The rack's time master steps at
its first lock before any plane is enabled, and slews after it. A 32-bit fragment extends to the time it was taken from (R433).
Completes: TIMING_FRAME, TIME_UNLOCK, PACKAGE_TIMESYNC_EDGE,
TIMESYNC_EDGE, WEIR_SECONDS_WRITE, TIMING_FRAME_SEND, WEIR_TIME_UNLOCKED, PTP_SYNC, PTP_LOCK_LOSS. -/
def Obligations.GlobalTime : Prop :=
  (∀ (s : State) (k q tSend tRecv : Nat),
    let p := pkgOf s k
    let time := p.base.time
    let o : Int := (tSend : Int) + (p.base.port q).flight - p.base.gtime
    (sourcePort p.base = some q → time.half = 0 → ∃ t, exec (.timingFrame k q tSend tRecv false) s = .next t ∧
      bitOf ((pkgOf t k).rd (hubPage 3 + Off.TIME_STAT)) 0 = true ∧
      (pkgOf t k).rdF (hubPage 3 + Off.TIME_STAT) 12 8 = q ∧
      (-1000 ≤ o → o ≤ 1000 → (pkgOf t k).base.time.now = time.now ∧ (pkgOf t k).base.time.slew = o) ∧
      (1000 < o → (pkgOf t k).base.time.now = (time.now + o.toNat) % 2 ^ 64 ∧ (pkgOf t k).base.time.slew = 0) ∧
      (o < -1000 → (pkgOf t k).base.time.now = time.now ∧ (pkgOf t k).base.time.half = (-o).toNat) ∧
      (o < -1000 ∨ 1000 < o → (pkgOf t k).rd (hubPage 3 + Off.TIME_STEPS) =
        satAdd 0xFFFFFFFF (p.rd (hubPage 3 + Off.TIME_STEPS)) 1)) ∧
    (∀ t1, (p.base.port q).phase = 5 → (p.base.port q).timingT1 = some t1 →
      ∃ t, exec (.timingFrame k q tSend tRecv true) s = .next t ∧
        ((pkgOf t k).base.port q).flight =
          (((p.base.gtime : Int) - t1 - ((tSend : Int) - tRecv)) / 2).toNat ∧
        ((pkgOf t k).base.port q).timingT1 = none ∧ (pkgOf t k).base.regs = p.base.regs)) ∧
  (∀ (s : State) (k : Nat),
    let p := pkgOf s k
    let last := p.rdF (hubPage 3 + Off.TIME_STAT) 12 8
    let locked := bitOf (p.rd (hubPage 3 + Off.TIME_STAT)) 0
    (sourcePort p.base = none ∨ sourcePort p.base = some last → locked = true → ∃ t, exec (.timeUnlock k) s = .next t ∧
      bitOf ((pkgOf t k).rd (hubPage 3 + Off.TIME_STAT)) 0 = false ∧
      bitOf ((pkgOf t k).rd (hubPage 3 + Off.EVT_STAT)) 1 = true) ∧
    (∀ q, sourcePort p.base = some q → q ≠ last → ∃ t, exec (.timeUnlock k) s = .next t ∧
      (pkgOf t k).rdF (hubPage 3 + Off.TIME_STAT) 12 8 = q ∧
      bitOf ((pkgOf t k).rd (hubPage 3 + Off.TIME_STAT)) 0 = locked) ∧
    (∃ t, exec (.packageTimesyncEdge k) s = .next t ∧
      (locked = true → t = setPkg s k p) ∧
      (locked = false → p.base.time.half = 0 →
        let o : Int := ((p.base.gtime + 500000000) / 1000000000 * 1000000000 : Nat) - (p.base.gtime : Int)
        (-1000 ≤ o → o ≤ 1000 → (pkgOf t k).base.time.slew = o ∧ (pkgOf t k).base.time.now = p.base.time.now) ∧
        (1000 < o → (pkgOf t k).base.time.now = (p.base.time.now + o.toNat) % 2 ^ 64)))) ∧
  (∀ (s : State) (w v : Nat),
    let x := weirOf s w
    (∃ t, exec (.timesyncEdge w) s = .next t ∧ bitOf ((weirOf t w).rd 0x5000C) 0 = true ∧
      (∀ v, x.base.time.secondsArmed = some v → (weirOf t w).base.time.now = v * 1000000000 % 2 ^ 64 ∧
        (weirOf t w).base.time.secondsArmed = none) ∧
      (x.base.time.secondsArmed = none → x.base.time.half = 0 →
        let o : Int := ((x.base.gtime + 500000000) / 1000000000 * 1000000000 : Nat) - (x.base.gtime : Int)
        (-1000 ≤ o ∧ o ≤ 1000 → (weirOf t w).base.time.slew = o ∧ (weirOf t w).base.time.now = x.base.time.now))) ∧
    (v < 2 ^ 32 → exec (.weirSecondsWrite w v) s = .next (setWeir s w
      (x.mapBase fun b => { b with time := { b.time with secondsArmed := some v } }))) ∧
    (let f : TimingFrame := { tSend := x.base.gtime, tRecv := 0, reply := false, locked := bitOf (x.rd 0x5000C) 0 }
     ∃ t, exec (.timingFrameSend w) s = .next t ∧
      ∀ q, (weirOf t w).base.port q =
        if q < 64 ∧ portState x.base q = 7 then (x.base.port q).sendTiming f else x.base.port q) ∧
    exec (.weirTimeUnlocked w) s = .next (setWeir s w (x.mapBase fun b => wrF b 0x5000C 0 0 0))) ∧
  (∀ (s : State) (rack : Nat) (o : Int),
    let r := rcOf s rack
    (∃ t, exec (.ptpSync rack o) s = .next t ∧ (rcOf t rack).ptpLocked = true ∧ (rcOf t rack).firstLock = true ∧
      (r.firstLock = false → r.planesEnabled = false → (rcOf t rack).time.now = ((r.time.now : Int) + o).toNat % 2 ^ 64) ∧
      (r.firstLock = true ∨ r.planesEnabled = true → (rcOf t rack).time = { r.time with slew := o })) ∧
    (r.ptpLocked = true → ∃ t, exec (.ptpLockLoss rack) s = .next t ∧ (rcOf t rack).ptpLocked = false ∧
      (rcOf t rack).time = { r.time with slew := 0 })) ∧
  (∀ g e : Nat, e < g + 2 ^ 31 → g < e + 2 ^ 31 → extendTime g (e % 2 ^ 32) = e)

/-! ## Remote access and collectives -/

/-- At the source of a connection. RWRITE, RREAD and REMOTE_BUMP queue an operation on their connection; one that is broken ends
CONN_BROKEN, an ordered one whose port is neither ACTIVE nor in HOLD ends with the port-loss status (R195, R226). The next packet
leaves in the connection's turn under its PSN within the window and is kept until acknowledged; a full window begins a stall. An
acknowledgement releases its PSN and every older one; a read request stays until its data are in (R216). The retry timer resends, or
breaks the connection at its limit. CONN_CTL commits a context and keeps its fields while it is committed; a stalled pitch is reported
once. Completes: RWRITE, RREAD, REMOTE_BUMP, RMA_PACKET_SEND, RESPONSE_PACKET, ACK_TIMER, RETRY_TIMEOUT, CONN_CTL_WRITE,
PITCH_STALLED. -/
def Obligations.RemoteSource : Prop :=
  (∀ (s : State) (n : Nat) (r : HopRef) (idx : Nat) (e : HopEntry),
    let p := pkgOf s n
    let c := connOf e.bytes
    let x := p.conn c
    let st := portState p.base (connPlane c x)
    let ends := fun (v : Nat) => { setPkg s n (finishEntry p r idx v false) with free := s.free }
    let joins := setPkg s n (p.setConn c { x with queue := x.queue ++ [newOp r e] })
    let lost := x.ordered = true ∧ isLoopback p x = false ∧ st ≠ 7 ∧ st ≠ 8
    enabledPage p.base (linkPage (c / 2048) 2) = true →
    (issuedEntry p r idx 0x40 = some e →
      (x.broken = true → exec (.rwrite n r idx) s = .next (ends St.connBroken)) ∧
      (x.broken = false → lost → exec (.rwrite n r idx) s = .next (ends St.portLoss)) ∧
      (x.broken = false → ¬ lost → exec (.rwrite n r idx) s = .next joins)) ∧
    (issuedEntry p r idx 0x41 = some e →
      (x.broken = true → exec (.rread n r idx) s = .next (ends St.connBroken)) ∧
      (x.broken = false → lost → exec (.rread n r idx) s = .next (ends St.portLoss)) ∧
      (x.broken = false → ¬ lost → exec (.rread n r idx) s = .next joins)) ∧
    (issuedEntry p r idx 0x60 = some e → byteAt e.bytes 16 = 3 →
      (x.broken = true → exec (.remoteBump n r idx) s = .next (ends St.connBroken)) ∧
      (x.broken = false → lost → exec (.remoteBump n r idx) s = .next (ends St.portLoss)) ∧
      (x.broken = false → ¬ lost → exec (.remoteBump n r idx) s = .next joins))) ∧
  (∀ (s : State) (n c : Nat) (o : ConnOp), c < 4096 →
    let p := pkgOf s n
    let x := p.conn c
    let k := requestPkt p c x o
    let data : Bytes := if o.op = .rwrite then Safety.bytesAt p (o.loc + o.sent) (nextLen o) else []
    nextOp x = some o →
    (x.window * 4096 < outstanding x.unacked + chargeOf k →
      exec (.rmaPacketSend n c) s = .next (setPkg s n (stallBegin p x.pitch c 2))) ∧
    (outstanding x.unacked + chargeOf k ≤ x.window * 4096 → (o.op = .rread → tagFor p c = true) →
      pathOf p c x k = .loop ∨ (∃ q, pathOf p c x k = .port q) → sendTurn p c = true →
      (o.op = .rwrite → ∀ b ∈ canonRange p (o.loc + o.sent) (nextLen o), deadAt p b = false ∧ badAt p b = false) →
      ∃ t, exec (.rmaPacketSend n c) s = .next t ∧ ((pkgOf t n).conn c).psn = (x.psn + 1) % 2 ^ 24 ∧
        ((pkgOf t n).conn c).unacked = x.unacked ++ [{ k with payload := data }] ∧
        (pkgOf t n).mem.cells = p.mem.cells)) ∧
  (∀ (s : State) (n q : Nat) (k : Pkt), k.op = .response → k.mgmt = false → k.payload = [] → k.status = 0 →
    let p := pkgOf s n
    let x := p.conn k.conn
    (x.commit = true → x.target = false → x.pitch = k.pitch → x.broken = false →
      ∃ t, exec (.responsePacket n q k) s = .next t ∧ (pkgOf t n).mem = p.mem ∧
        ((pkgOf t n).conn k.conn).unacked =
          x.unacked.filter (fun j => decide (j.psn ≠ k.psn) && !serialGt 24 k.psn j.psn) ∧
        ((pkgOf t n).conn k.conn).reading = x.reading) ∧
    (x.commit = false ∨ x.target = true ∨ x.pitch ≠ k.pitch →
      ∃ t, exec (.responsePacket n q k) s = .next t ∧ (pkgOf t n).mem = p.mem ∧ (pkgOf t n).fab.conns = p.fab.conns ∧
        (pkgOf t n).tl = p.tl)) ∧
  (∀ (s : State) (n c : Nat), c < 4096 →
    let p := pkgOf s n
    let x := p.conn c
    let limit := p.rdF (linkPage (c / 2048) 2 + Off.RMA_RETRY) 19 16
    let route := routeEntry p p.epoch (x.peerRack * 64 + x.peerSlot)
    (x.toAck ≠ 0 → ∃ t, exec (.ackTimer n c) s = .next t ∧ ((pkgOf t n).conn c).toAck = 0 ∧
      ((pkgOf t n).conn c).lastAcked = (expectOf p x + 2 ^ 24 - 1) % 2 ^ 24) ∧
    (x.unacked ≠ [] → x.retries + 1 ≤ limit →
      isLoopback p x = true ∨ bitOf route 18 = true ∧ (x.ordered = true → bitOf route (connPlane c x) = true) →
      ∃ t, exec (.retryTimeout n c) s = .next t ∧ ((pkgOf t n).conn c).retries = x.retries + 1 ∧
        ((pkgOf t n).conn c).unacked = x.unacked ∧ ((pkgOf t n).conn c).broken = x.broken) ∧
    (x.unacked ≠ [] → limit < x.retries + 1 → ∃ t, exec (.retryTimeout n c) s = .next t ∧
      ((pkgOf t n).conn c).broken = true ∧ ((pkgOf t n).conn c).unacked = [] ∧ ((pkgOf t n).conn c).queue = [])) ∧
  (∀ (s : State) (n : Nat) (src : Src) (d v : Nat), d < 2 → v < 2 ^ 32 →
    let p := pkgOf s n
    let a := linkPage d 3 + Off.CONN_CTL
    let c := 2048 * d + mget 0 p.fab.connSel (4 * d + copyOf src)
    let x := p.conn c
    let y := { x with pitch := v % 4096, target := bitOf v 12, ordered := bitOf v 13 }
    let traffic := ¬(x.queue = [] ∧ x.unacked = [] ∧ x.reading = [] ∧ x.toAck = 0)
    Safety.reaches s n src a .conn = true →
    (x.commit = false → bitOf v 16 = true → ∃ t, exec (.connCtlWrite n src d v) s = .next t ∧
      ((pkgOf t n).conn c).commit = true ∧ ((pkgOf t n).conn c).pitch = v % 4096 ∧ ((pkgOf t n).conn c).broken = false ∧
      ((pkgOf t n).conn c).window = p.rdF (linkPage (c / 2048) 2 + Off.RMA_WIN) 6 0 ∧
      ((pkgOf t n).conn c).psn = x.psn ∧ ((pkgOf t n).conn c).unacked = []) ∧
    (x.commit = true → bitOf v 16 = true → y ≠ x →
      exec (.connCtlWrite n src d v) s = .next (Safety.refused s n src a v 5)) ∧
    (x.commit = true → bitOf v 16 = false → traffic →
      exec (.connCtlWrite n src d v) s = .next (Safety.refused s n src a v 1)) ∧
    (x.commit = true → bitOf v 16 = false → ¬ traffic → ∃ t, exec (.connCtlWrite n src d v) s = .next t ∧
      ((pkgOf t n).conn c).commit = false)) ∧
  (∀ (s : State) (n pitch t0 c bound : Nat),
    let p := pkgOf s n
    let limit := p.rdF (linkPage 0 2 + Off.STALL_LIMIT) 23 0
    mfind pitch p.fab.stalls = some (t0, c, bound, false) → limit ≠ 0 → t0 + limit * 1000000 ≤ p.base.gtime →
    ∃ t, exec (.pitchStalled n pitch) s = .next t ∧ mfind pitch (pkgOf t n).fab.stalls = some (t0, c, bound, true) ∧
      bitOf ((pkgOf t n).rd (linkPage 0 2 + Off.EVT_STAT)) 0 = true)

/-- At the target of a connection. A request to a context that is absent, or of another pitch or peer, moves no byte and no peg; so does
one that is not in turn: a duplicate, or beyond what the connection applies now. One of another pitch or peer consumes its PSN where it
is in turn (R217). The next one in turn, whose source is fenced in, whose bytes its pitch owns, which no strike absorbs and no hollow
unit or bad word meets, takes effect: an RWRITE's bytes are written and no other byte changes, then its bump is applied; an RREAD moves
no byte here; a standalone bump adds to its peg; an ordered connection's EXPECT_PSN moves on by one (R144, R217–R220). Completes:
RWRITE_PACKET, RREAD_PACKET, PEG_PACKET. -/
def Obligations.RemoteTarget : Prop :=
  ∀ (s : State) (n q : Nat) (k : Pkt), k.mgmt = false → k.conn < 4096 → k.space = 0 →
    let p := pkgOf s n
    let x := p.conn k.conn
    let len := if k.op = .rread then k.arg else k.payload.length
    let same := fun (t : State) => (pkgOf t n).mem.cells = p.mem.cells ∧ (pkgOf t n).tl.pegs = p.tl.pegs
    let absent := x.commit = false ∨ x.target = false ∧ isLoopback p x = false
    let other := x.commit = true ∧ x.target = true ∧ ¬(x.pitch = k.pitch ∧ x.peerRack = k.srcRack ∧ x.peerSlot = k.srcSlot)
    let mine := x.commit = true ∧ x.target = true ∧ x.pitch = k.pitch ∧ x.peerRack = k.srcRack ∧ x.peerSlot = k.srcSlot
    let late := mine ∧ inTurn p x k.psn = false
    let now := mine ∧ inTurn p x k.psn = true ∧ fenceOk p k = true ∧ strikeAbsorbs p k.pitch (requestTiles p k len) = none
    let clear := inRegion p k.offset len = true ∧ firstForeign p k.pitch k.offset len = none ∧
      ∀ c ∈ canonRange p k.offset len, deadAt p c = false ∧ unitBad p c = false ∧ badAt p c = false
    let ignored := fun (t : State) => same t ∧ (pkgOf t n).fab.conns = p.fab.conns ∧
      bitOf ((pkgOf t n).rd (linkPage (k.conn / 2048) 2 + Off.EVT_STAT)) 2 = true
    let crossed := fun (t : State) => same t ∧ (inTurn p x k.psn = false → (pkgOf t n).fab.conns = p.fab.conns) ∧
      (x.ordered = true → inTurn p x k.psn = true → ((pkgOf t n).conn k.conn).psn = (x.psn + 1) % 2 ^ 24)
    let next := fun (t : State) => x.ordered = true → ((pkgOf t n).conn k.conn).psn = (x.psn + 1) % 2 ^ 24
    let bumps := fun (t : State) (v : Nat) =>
      pegExists p k.bumpPeg = true → hollowPage p.base (tilePage (k.bumpPeg / 512) 0) = false → pegFor p k.pitch k.bumpPeg = true →
        ((pkgOf t n).peg k.bumpPeg).counter = (p.peg k.bumpPeg).counter + w32 v ∧
        ∀ m ≠ k.bumpPeg, (pkgOf t n).peg m = p.peg m
    requestReady p q k = true →
    (k.op = .rwrite →
      (absent → ∃ t, exec (.rwritePacket n q k) s = .next t ∧ ignored t) ∧
      (other → ∃ t, exec (.rwritePacket n q k) s = .next t ∧ crossed t) ∧
      (late → ∃ t, exec (.rwritePacket n q k) s = .next t ∧ same t ∧ ((pkgOf t n).conn k.conn).psn = x.psn) ∧
      (now → clear → ∃ t, exec (.rwritePacket n q k) s = .next t ∧ next t ∧
        (∀ i < len, byteValue (pkgOf t n) (canon p (k.offset + i)) = nth 0 k.payload i) ∧
        (∀ c, (regionOf p c = some .dram ∨ ∃ t, regionOf p c = some (.sram t)) → c ∉ canonRange p k.offset len →
          byteValue (pkgOf t n) c = byteValue p c) ∧
        (k.bump = true → ¬(x.ordered = true ∧ x.reject ≠ 0 ∧ k.last = true) →
          bumps t (if x.ordered then k.arg else k.payload.length)) ∧
        (k.bump = false → (pkgOf t n).tl.pegs = p.tl.pegs))) ∧
    (k.op = .rread →
      (absent → ∃ t, exec (.rreadPacket n q k) s = .next t ∧ ignored t) ∧
      (other → ∃ t, exec (.rreadPacket n q k) s = .next t ∧ crossed t) ∧
      (late → ∃ t, exec (.rreadPacket n q k) s = .next t ∧ same t ∧ ((pkgOf t n).conn k.conn).psn = x.psn) ∧
      (now → clear → ∃ t, exec (.rreadPacket n q k) s = .next t ∧ next t ∧ same t)) ∧
    (k.op = .peg →
      (absent → ∃ t, exec (.pegPacket n q k) s = .next t ∧ ignored t) ∧
      (other → ∃ t, exec (.pegPacket n q k) s = .next t ∧ crossed t) ∧
      (late → ∃ t, exec (.pegPacket n q k) s = .next t ∧ same t ∧ ((pkgOf t n).conn k.conn).psn = x.psn) ∧
      (now → ∃ t, exec (.pegPacket n q k) s = .next t ∧ next t ∧ (pkgOf t n).mem.cells = p.mem.cells ∧
        (¬(x.ordered = true ∧ x.reject ≠ 0 ∧ k.last = true) → bumps t k.arg)))

/-- A COLL of each operation starts on an idle group under its sequence number, or joins the queue; a queued one starts when the
group is free, and ends GROUP_BROKEN on a broken group (R240, R242). A running collective at a member. A barrier's ARRIVE leaves
when the ordered writes before it are acknowledged. GO ends a barrier, or begins the data phase; DATA leave under 32
outstanding; a RESULT's bytes are written where its block belongs and nowhere else. BREAK, REJECT and the member's deadline end
the collective. GRP_CTL commits a group; PUSH sends its definition and waits for every answer, or fails (R236–R256). Completes:
ALL_REDUCE, REDUCE_SCATTER, ALL_GATHER, BROADCAST, BARRIER, ALL_TO_ALL, REDUCE_SCATTERV, ALL_GATHERV, ALL_TO_ALLV,
COLL_NEXT_SEQUENCE, BARRIER_ARRIVE, COLL_DATA_SEND, MEMBER_DEADLINE, GO, REJECT, BREAK, RESULT, GRP_CTL_WRITE, PUSH,
PUSH_TIMEOUT, SETUP_ANSWER. -/
def Obligations.MemberCollectives : Prop :=
  ((∀ (s : State) (n : Nat) (r : HopRef) (idx : Nat) (e : HopEntry),
      let p := pkgOf s n
      let col := colOf e.bytes
      let g := col.g
      let x := p.grp g
      let idle := x.run = none ∧ x.queue = [] ∧ x.broken = false ∧ enabledPage p.base (linkPage (g / 1024) 4) = true ∧
        (col.op = 6 ∨ col.op = 8 → readStatus p (canonRange p col.counts (4 * grpSize x)) = 0)
      let begun := fun (t : State) => ∃ u, ((pkgOf t n).grp g).run = some u ∧ u.ref = r ∧ u.idx = idx ∧ u.seq = x.seq ∧
        ((pkgOf t n).grp g).queue = [] ∧ (pkgOf t n).mem.cells = p.mem.cells
      let after := x.queue.contains (r, idx) = false ∧ (∀ u, x.run = some u → ¬(u.ref = r ∧ u.idx = idx)) ∧
        (x.run ≠ none ∨ x.queue ≠ [])
      let joined := setPkg s n (p.setGrp g { x with queue := x.queue ++ [(r, idx)] })
      issuedEntry p r idx 0x50 = some e → (p.hop r).find? (fun y => decide (y.idx = idx)) = some e →
      (col.op = 0 →
        (idle → ∃ t, exec (.allReduce n r idx) s = .next t ∧ begun t) ∧ (after → exec (.allReduce n r idx) s = .next joined)) ∧
      (col.op = 1 →
        (idle → ∃ t, exec (.reduceScatter n r idx) s = .next t ∧ begun t) ∧ (after → exec (.reduceScatter n r idx) s = .next joined)) ∧
      (col.op = 2 →
        (idle → ∃ t, exec (.allGather n r idx) s = .next t ∧ begun t) ∧ (after → exec (.allGather n r idx) s = .next joined)) ∧
      (col.op = 3 →
        (idle → ∃ t, exec (.broadcast n r idx) s = .next t ∧ begun t) ∧ (after → exec (.broadcast n r idx) s = .next joined)) ∧
      (col.op = 4 →
        (idle → ∃ t, exec (.barrier n r idx) s = .next t ∧ begun t) ∧ (after → exec (.barrier n r idx) s = .next joined)) ∧
      (col.op = 5 →
        (idle → ∃ t, exec (.allToAll n r idx) s = .next t ∧ begun t) ∧ (after → exec (.allToAll n r idx) s = .next joined)) ∧
      (col.op = 6 →
        (idle → ∃ t, exec (.reduceScatterv n r idx) s = .next t ∧ begun t) ∧ (after → exec (.reduceScatterv n r idx) s = .next joined)) ∧
      (col.op = 7 →
        (idle → ∃ t, exec (.allGatherv n r idx) s = .next t ∧ begun t) ∧ (after → exec (.allGatherv n r idx) s = .next joined)) ∧
      (col.op = 8 →
        (idle → ∃ t, exec (.allToAllv n r idx) s = .next t ∧ begun t) ∧ (after → exec (.allToAllv n r idx) s = .next joined))) ∧
    (∀ (s : State) (n g : Nat) (r : HopRef) (idx : Nat) (rest : List (HopRef × Nat)),
      let p := pkgOf s n
      let x := p.grp g
      x.run = none → x.queue = (r, idx) :: rest → enabledPage p.base (linkPage (g / 1024) 4) = true →
      let c := runCol p { ref := r, idx := idx, seq := x.seq }
      (x.broken = true → c.useMap = false → ∃ t, exec (.collNextSequence n g) s = .next t ∧ ((pkgOf t n).grp g).run = none ∧
        ((pkgOf t n).grp g).seq = x.seq ∧ (pkgOf t n).hop r = (finishEntry p r idx St.groupBroken false).hop r) ∧
      (x.broken = false → c.op ≠ 6 → c.op ≠ 8 → ∃ t u, exec (.collNextSequence n g) s = .next t ∧
        ((pkgOf t n).grp g).run = some u ∧ u.ref = r ∧ u.idx = idx ∧ u.seq = x.seq ∧ ((pkgOf t n).grp g).queue = rest))) ∧
  ((∀ (s : State) (n g : Nat) (u : CollRun),
      let p := pkgOf s n
      let x := p.grp g
      let c := runCol p u
      x.run = some u →
      (c.op = 4 → u.arrived = false → (∀ w ∈ u.barrierWaits, w ∉ orderedPending p x.pitch) →
        portOpen p.base ((grpPlanes g x).headD (9 * (g / 1024))) = true →
        ∃ t v, exec (.barrierArrive n g) s = .next t ∧ ((pkgOf t n).grp g).run = some v ∧ v.arrived = true ∧ v.t0 = p.base.gtime) ∧
      (∀ q, u.phase = 2 → q ∈ grpPlanes g x → q ∈ u.lastOwed → mget 0 u.outstanding q < 32 → portOpen p.base q = true →
        let mine := u.toSend.filter fun y => decide (pieceIndex (grpPlanes g x).length y.1 y.2.1 =
          (grpPlanes g x).findIdx fun l => decide (l = q))
        1 < mine.length →
        (∀ y ∈ mine, y.2.2 ≠ 0 ∧ memReady p (pieceSource c u (grpSize x) (ownRank p x) y.1 y.2.1) y.2.2 = true ∧
          ∀ a ∈ canonRange p (pieceSource c u (grpSize x) (ownRank p x) y.1 y.2.1) y.2.2, deadAt p a = false ∧ badAt p a = false) →
        ∃ t v, exec (.collDataSend n g q) s = .next t ∧ ((pkgOf t n).grp g).run = some v ∧
          mget 0 v.outstanding q = mget 0 u.outstanding q + 1 ∧ v.toSend = u.toSend.filter fun y => y ≠ mine.headD (0, 0, 0)) ∧
      (u.arrived = true → c.useMap = false → ∃ t, exec (.memberDeadline n g) s = .next t ∧ ((pkgOf t n).grp g).run = none ∧
        ((pkgOf t n).grp g).broken = true ∧ ((pkgOf t n).grp g).missing = 0 ∧ ((pkgOf t n).grp g).seq = x.seq ∧
        (pkgOf t n).hop u.ref = (finishEntry p u.ref u.idx St.groupBroken u.saturated).hop u.ref) ∧
      (∀ k : Pkt, k.op = .coll → k.conn = g → k.pitch = x.pitch → x.commit = true → strikeAbsorbs p k.pitch [] = none →
        k.psn = u.seq →
        (cType k = 1 → u.phase = 1 → u.arrived = true → u.reduced = false → cReduced k = false →
          (c.op = 4 → c.bpegValid = false → ∃ t, exec (.go n k) s = .next t ∧ ((pkgOf t n).grp g).run = none ∧
            ((pkgOf t n).grp g).seq = (x.seq + 1) % 2 ^ 16 ∧
            (pkgOf t n).hop u.ref = (finishEntry p u.ref u.idx 0 u.saturated).hop u.ref) ∧
          (c.op = 0 ∨ c.op = 1 ∨ c.op = 2 ∨ c.op = 5 → grpPlanes g x ≠ [] → ∃ t v, exec (.go n k) s = .next t ∧
            ((pkgOf t n).grp g).run = some v ∧ v.phase = 2 ∧ v.lastOwed = grpPlanes g x ∧ v.seq = u.seq)) ∧
        (cType k = 5 → cWord k < 256 → ∃ t, exec (.reject n k) s = .next t ∧ ((pkgOf t n).grp g).run = none ∧
          ((pkgOf t n).grp g).seq = x.seq ∧
          (pkgOf t n).hop u.ref = (finishEntry p u.ref u.idx (cWord k) u.saturated).hop u.ref) ∧
        (cType k = 4 → x.broken = false → x.seq = u.seq → cHalf k ≠ St.countMismatch → c.useMap = false →
          ∃ t, exec (.breakCmd (.pkg n) k) s = .next t ∧ ((pkgOf t n).grp g).run = none ∧
            ((pkgOf t n).grp g).broken = true ∧ ((pkgOf t n).grp g).missing = ofLe (k.payload.take 128)) ∧
        (cType k = 3 → u.phase = 2 → ∀ b, (expectBlocks c u (grpSize x) (ownRank p x)).find? (fun b => decide (b.1 = cRank k)) = some b →
          let a := b.2.1 + cWord k
          (cRank k, cWord k, k.payload.length) ∈ u.expect → (cRank k, cWord k) ∉ u.got →
          inRegion p a k.payload.length = true → memReady p a k.payload.length = true →
          (∀ y ∈ canonRange p a k.payload.length, deadAt p y = false ∧ unitBad p y = false) →
          ∃ t, exec (.result n k) s = .next t ∧
            (∀ i < k.payload.length, byteValue (pkgOf t n) (canon p (a + i)) = nth 0 k.payload i) ∧
            (∀ y, (regionOf p y = some .dram ∨ ∃ t, regionOf p y = some (.sram t)) → y ∉ canonRange p a k.payload.length →
              byteValue (pkgOf t n) y = byteValue p y) ∧
            (u.toSend ≠ [] → ∃ v, ((pkgOf t n).grp g).run = some v ∧ v.got = u.got ++ [(cRank k, cWord k)])))) ∧
    (∀ (s : State) (n : Nat) (src : Src) (d v : Nat), d < 2 → v < 2 ^ 32 →
      let p := pkgOf s n
      let g := 1024 * d + mget 0 p.fab.grpSel (4 * d + copyOf src)
      let x := p.grp g
      let a := linkPage d 4 + Off.GRP_CTL
      let y := { x with pitch := v % 4096, countsFirst := bitOf v 18, drop := bitOf v 19 }
      (Safety.reaches s n src a .grp = true →
        (x.commit = false → bitOf v 16 = true → exec (.grpCtlWrite n src d v) s = .next (Safety.written s n a
          (p.setGrp g { y with commit := true, broken := false, brokenSeq := none, lastDone := none, dropped := 0, oldMembers :=
            (if copyOf src = 2 then x.members else x.oldMembers) }))) ∧
        (x.commit = true → bitOf v 16 = true → y ≠ x → exec (.grpCtlWrite n src d v) s = .next (Safety.refused s n src a v 5)) ∧
        (x.commit = true → bitOf v 16 = false → x.run ≠ none ∨ x.queue ≠ [] →
          exec (.grpCtlWrite n src d v) s = .next (Safety.refused s n src a v 1))) ∧
      (Safety.reaches s n src (linkPage d 4 + Off.GRP_CMD) .grp = true → v % 4 = 1 → x.commit = true → x.busy = false →
        ∃ t, exec (.push n src d v) s = .next t ∧ ((pkgOf t n).grp g).busy = true ∧ ((pkgOf t n).grp g).failed = false ∧
          ((pkgOf t n).grp g).pushWait = (grpPlanes g x).map (fun q => 1024 + q) ++ ownRackMembers p x.members ∧
          ∀ i ∈ ownRackMembers p x.members, (p.mg i).queue <+: ((pkgOf t n).mg i).queue ∧
            ((pkgOf t n).mg i).queue ≠ (p.mg i).queue)) ∧
    (∀ (s : State) (n g : Nat) (k : Pkt), g < 2048 →
      let x := (pkgOf s n).grp g
      (x.pushWait ≠ [] → ∃ t, exec (.pushTimeout n g) s = .next t ∧ ((pkgOf t n).grp g).busy = false ∧
        ((pkgOf t n).grp g).failed = true ∧ ((pkgOf t n).grp g).pushWait = []) ∧
      (k.op = .coll → cType k = 6 → k.conn = g → sameImage k.payload (pushImage (pkgOf s n) g k.plane) = true →
        x.pushWait = [1024 + k.plane] → ∃ t, exec (.setupAnswer n k) s = .next t ∧ ((pkgOf t n).grp g).busy = false ∧
          ((pkgOf t n).grp g).failed = x.failed ∧ ((pkgOf t n).grp g).pushWait = [])))


/-- Groups and collectives in a Weir. SETUP on a down-port with pitch 0 defines a context; any other is discarded. ARRIVE of a member is
collected by the root on its lead plane, and when nobody is missing the root sends GO; one of a non-member is rejected. DATA of a
reduction wait for the rack's other members. At the arrival deadline the context breaks, or under DROP goes on without the missing
ranks; at the data deadline, and at a BREAK, it breaks. Reduction combines neighbours in rank order, an odd last one carried up, and
an INT32 sum saturates (R237, R243–R254). Completes: SETUP, ARRIVE, DATA, BREAK, ARRIVAL_DEADLINE, DATA_DEADLINE. -/
def Obligations.WeirCollectives : Prop :=
  (∀ (s : State) (w q : Nat) (k : Pkt), k.op = .coll → cType k = 6 →
    let x := weirOf s w
    let g := k.conn
    (64 ≤ q ∨ k.pitch ≠ 0 → ∃ t, exec (.setup w q k) s = .next t ∧ (weirOf t w).ctxs = x.ctxs ∧
      (weirOf t w).rd 0x3000C = satAdd 0xFFFFFFFF (x.rd 0x3000C) 1) ∧
    (q < 64 → k.pitch = 0 → wCommit x g = false → g < 2048 → ∃ t, exec (.setup w q k) s = .next t ∧
      (weirOf t w).ctx g = {} ∧ wCommit (weirOf t w) g = bitOf (fieldAt k.payload 0 4) 16 ∧ wBroken (weirOf t w) g = false ∧
      wSeq (weirOf t w) g = fieldAt k.payload 8 2 ∧ wPhase (weirOf t w) g = 0 ∧
      wSlotMap (weirOf t w) g = fieldAt k.payload 16 4 + fieldAt k.payload 20 4 * 2 ^ 32 ∧
      wSize (weirOf t w) g = fld (fieldAt k.payload 24 4) 26 16)) ∧
  (∀ (s : State) (w q : Nat) (k : Pkt), k.op = .coll → k.conn < 2048 →
    let x := weirOf s w
    let g := k.conn
    let c := x.ctx g
    weirConsumes x q k = true → wCommit x g = true → wBroken x g = false →
    (cType k = 0 → senderOk x g q k = false → ∃ t, exec (.arrive w q k) s = .next t ∧ (weirOf t w).ctxs = x.ctxs ∧
      (weirOf t w).rd 0x30004 = satAdd 0xFFFFFFFF (x.rd 0x30004) 1) ∧
    (cType k = 0 → senderOk x g q k = true → wRoot x g = true → wLead x g = true → bitOf c.dropped (cRank k) = false →
      k.psn = wSeq x g → wPhase x g ≤ 1 → c.goSent = false → arrivalsOf c (cRank k) = [] → isVariable (cOp k) = false →
      ((∃ r ∈ liveRanks x g, r ≠ cRank k ∧ arrivalsOf c r = []) → ∃ t, exec (.arrive w q k) s = .next t ∧
        ((weirOf t w).ctx g).arrivals = c.arrivals ++ [k] ∧ wPhase (weirOf t w) g = 1 ∧ ((weirOf t w).ctx g).goSent = false) ∧
      (cRank k ∈ liveRanks x g → (∀ r ∈ liveRanks x g, r ≠ cRank k → arrivalsOf c r ≠ []) → cOp k = 0 ∨ cOp k = 1 ∨ cOp k = 2 ∨ cOp k = 5 →
        (∀ j ∈ c.arrivals, cOp j = cOp k ∧ cFmt j = cFmt k ∧ cRedop j = cRedop k ∧ cWord j = cWord k) →
        ∃ t, exec (.arrive w q k) s = .next t ∧ ((weirOf t w).ctx g).goSent = true ∧ wPhase (weirOf t w) g = 2)) ∧
    (cType k = 2 → senderOk x g q k = true → k.psn = wSeq x g → q < 64 → cOp k = 0 ∨ cOp k = 1 → k.payload ≠ [] →
      (∃ y ∈ liveSlots x g, y ≠ q ∧ ∀ e ∈ c.inputs, ¬(e.1 = cHalf k ∧ e.2.1 = cWord k ∧ e.2.2.1 = y)) →
      ∃ t, exec (.data w q k) s = .next t ∧ ((weirOf t w).ctx g).inputs = c.inputs ++ [(cHalf k, cWord k, q, canonPkt k)] ∧
        wPhase (weirOf t w) g = 2 ∧ wSeq (weirOf t w) g = wSeq x g) ∧
    (cType k = 4 → k.psn = wSeq x g → cHalf k ≠ St.countMismatch → (x.taken.find? fun e => decide (e.2 = k)) = some (q, k) →
      ∃ t, exec (.breakCmd (.weir w) k) s = .next t ∧ wBroken (weirOf t w) g = true ∧ wPhase (weirOf t w) g = 3)) ∧
  (∀ (s : State) (w g : Nat), g < 2048 →
    let x := weirOf s w
    let c := x.ctx g
    wCommit x g = true → wBroken x g = false →
    (c.arriveStart ≠ none → c.goSent = false →
      (wDrop x g = false → ∃ t, exec (.arrivalDeadline w g) s = .next t ∧ wBroken (weirOf t w) g = true ∧
        wPhase (weirOf t w) g = 3 ∧ wSeq (weirOf t w) g = (wSeq x g + 1) % 2 ^ 16) ∧
      (wDrop x g = true → (∀ k ∈ c.arrivals, cOp k ≠ 3) → ∃ t, exec (.arrivalDeadline w g) s = .next t ∧
        wBroken (weirOf t w) g = false ∧ ((weirOf t w).ctx g).dropped = c.dropped ||| ofBits (missingRanks x g))) ∧
    (c.dataStart ≠ none → ∃ t, exec (.dataDeadline w g) s = .next t ∧ wBroken (weirOf t w) g = true ∧
      wPhase (weirOf t w) g = 3)) ∧
  (∀ (fmt redop : Nat) (a b c : List Nat × Bool),
    treeReduce fmt redop 3 [a, b, c] = treeReduce fmt redop 2 [treeReduce fmt redop 2 [a, b], c]) ∧
  (∀ a b : Nat, a < 2 ^ 32 → b < 2 ^ 32 →
    let z := twos 32 a + twos 32 b
    (combineElem 10 0 a b).2 = decide (z < -(2 ^ 31) ∨ (2 ^ 31 : Int) ≤ z) ∧
    twos 32 (combineElem 10 0 a b).1 = max (-(2 ^ 31)) (min (2 ^ 31 - 1) z))

/-! ## The host interface -/

/-- A virtual function's host hopper. A doorbell moves POSTED within the bounds of R331, else it changes nothing and raises
HH_OVERRUN; a function in D3hot takes none (R324). RUN is stored, and RESUME ends a halt (R332). HH_ACC sets all three numbers
while the hopper is not committed and is refused with reason 5 otherwise (R330). A commit needs TILE owned by the function's
pitch, and an end of the commit that nothing is accepted and not done (R328, R344). An entry whose SEQ is ACC + 1 is accepted
within the ring's size; a wrong SEQ or a failed read halts the hopper and leaves ACC and memory as they were (R332). With no descriptor
place free in its turn the hopper waits (R228). Completes: HH_POSTED_WRITE, HH_RUN, HH_RESUME, HH_ACC_WRITE, HH_CFG_WRITE,
HOST_ENTRY_FETCH. -/
def Obligations.HostHoppers : Prop :=
  ∀ (s : State) (p : Nat) (src : Src) (v h : Nat), 1 ≤ v → v ≤ 16 → h < 4 →
    let x := pkgOf s p
    let reg := fun (off : Nat) => hhReg v h off
    let acc := x.rd (reg Off.HH_ACC)
    let dn := x.rd (reg Off.HH_DONE)
    let posted := x.rd (reg Off.HH_POSTED)
    let cfg := x.rd (reg Off.HH_CFG)
    let want := (acc + 1) % 2 ^ 32
    let within := fun (val : Nat) => bitOf cfg 16 = true ∧ serialDist 32 val acc ≤ 2 ^ fld cfg 3 0 ∧ serialDist 32 val posted < 2 ^ 31
    (∀ val < 2 ^ 32, Safety.reaches s p src (reg Off.HH_POSTED) .vf = true →
      (v ∉ x.host.d3 → within val →
        exec (.hhPostedWrite p src v h val) s =
          .next (Safety.written s p (reg Off.HH_POSTED) (x.wr (reg Off.HH_POSTED) val))) ∧
      (v ∉ x.host.d3 → ¬within val →
        exec (.hhPostedWrite p src v h val) s =
          .next (Safety.written s p (reg Off.HH_POSTED) (raise x (vfPage v) (4 + h) { c2 := val, c3 := acc }))) ∧
      (v ∈ x.host.d3 →
        exec (.hhPostedWrite p src v h val) s = .next (Safety.written s p (reg Off.HH_POSTED) x))) ∧
    (∀ val < 2, Safety.reaches s p src (reg Off.HH_CTL) .vf = true →
      exec (.hhRun p src v h val) s =
        .next (Safety.written s p (reg Off.HH_CTL) (x.wrF (reg Off.HH_CTL) 0 0 val)) ∧
      exec (.hhResume p src v h (2 + val)) s =
        .next (Safety.written s p (reg Off.HH_CTL)
          (headStep ((x.wrF (reg Off.HH_CTL) 0 0 val).wrF (reg Off.HH_STAT) 0 0 0) (.host v h)))) ∧
    (∀ val < 2 ^ 32, Safety.reaches s p src (reg Off.HH_ACC) .vf = true →
      (bitOf cfg 16 = false →
        ∃ t, exec (.hhAccWrite p src v h val) s = .next t ∧ (pkgOf t p).rd (reg Off.HH_POSTED) = val ∧
          (pkgOf t p).rd (reg Off.HH_ACC) = val ∧ (pkgOf t p).rd (reg Off.HH_DONE) = val ∧ (pkgOf t p).mem = x.mem) ∧
      (bitOf cfg 16 = true →
        exec (.hhAccWrite p src v h val) s = .next (Safety.refused s p src (reg Off.HH_ACC) val 5))) ∧
    (∀ val < 2 ^ 32, Safety.reaches s p src (reg Off.HH_CFG) .vf = true →
      let owned := fld val 11 8 < x.tiles ∧ ownerOf x.base (tilePage (fld val 11 8) 0) = ownerOf x.base (vfPage v)
      (bitOf cfg 16 = false → bitOf val 16 = true → owned →
        ∃ t, exec (.hhCfgWrite p src v h val) s = .next t ∧
          (pkgOf t p).rd (reg Off.HH_CFG) = ringSize 6 12 (fld val 3 0) + fld val 11 8 * 2 ^ 8 + 2 ^ 16 ∧
          (pkgOf t p).rdF (reg Off.HH_STAT) 31 16 = 0 ∧ (pkgOf t p).mem = x.mem) ∧
      (bitOf cfg 16 = false → bitOf val 16 = true → ¬owned →
        exec (.hhCfgWrite p src v h val) s = .next (Safety.refused s p src (reg Off.HH_CFG) val 5)) ∧
      (bitOf cfg 16 = true → bitOf val 16 = false → acc ≠ dn →
        exec (.hhCfgWrite p src v h val) s = .next (Safety.refused s p src (reg Off.HH_CFG) val 1)) ∧
      (bitOf cfg 16 = true → bitOf val 16 = false → acc = dn →
        ∃ t, exec (.hhCfgWrite p src v h val) s = .next t ∧ bitOf ((pkgOf t p).rd (reg Off.HH_CFG)) 16 = false)) ∧
    (bitOf (x.rd (reg Off.HH_CTL)) 0 = true → bitOf cfg 16 = true → hopHalted x (.host v h) = false → acc ≠ posted →
      strikingPage x.base (vfPage v) = false → v ∉ x.host.d3 → enabledPage x.base (vfPage v) = true →
      (placeFor x (.host v h) = false → ∀ read : EntryRead,
        exec (.hostEntryFetch p v h read) s = .next (setPkg s p (stallBegin x (pitchOfHop x (.host v h)) (hopWait (.host v h)) 1))) ∧
      (placeFor x (.host v h) = true → ∀ b : Bytes, fieldAt b 64 4 = want → serialDist 32 want dn ≤ 2 ^ fld cfg 3 0 →
        let y := takePlace x (.host v h)
        exec (.hostEntryFetch p v h (.data b)) s = .next (setPkg s p
          (headStep (touchShadow ((y.setHop (.host v h) (y.hop (.host v h) ++
            [{ idx := want, bytes := b.take 64, irq := bitOf (byteAt b 68) 0 }])).wr (reg Off.HH_ACC) want) v) (.host v h)))) ∧
      (placeFor x (.host v h) = true → ∀ read : EntryRead, read = .error ∨ (∃ b, read = .data b ∧ fieldAt b 64 4 ≠ want) →
        ∃ t, exec (.hostEntryFetch p v h read) s = .next t ∧ hopHalted (pkgOf t p) (.host v h) = true ∧
          (pkgOf t p).rd (reg Off.HH_ACC) = acc ∧ bitOf ((pkgOf t p).rd (vfPage v + Off.EVT_STAT)) (8 + h) = true ∧
          (pkgOf t p).mem = x.mem)) ∧
    (acc = posted → ∀ read : EntryRead, exec (.hostEntryFetch p v h read) s = .next (setPkg s p x))

/-- A virtual function's rings. A ring's CFG stores its size, brought into range, its COMMIT and its holdoff (R333, R335, R344);
the completion ring cannot be uncommitted while a hopper has ACC ≠ DONE. PROD sets PROD and CONS while the ring is not committed
and is refused with reason 5 otherwise; CONS is live (R344). The shadow is written where it lags, with the numbers the registers
hold (R334). The end of a holdoff signals what waited, and nothing else (R336). Completes: HCQ_CFG_WRITE, HEQ_CFG_WRITE, HCQ_PROD_WRITE, HEQ_PROD_WRITE, HCQ_CONS_WRITE,
HEQ_CONS_WRITE, SHADOW_WRITE, MSIX_HOLDOFF_END. -/
def Obligations.HostRings : Prop :=
  (∀ (s : State) (p : Nat) (src : Src) (v val : Nat), 1 ≤ v → v ≤ 16 → val < 2 ^ 32 →
    let x := pkgOf s p
    let reg := fun (off : Nat) => vfPage v + off
    let busy := ∃ h < 4, x.rd (hhReg v h Off.HH_ACC) ≠ x.rd (hhReg v h Off.HH_DONE)
    (Safety.reaches s p src (reg Off.HCQ_CFG) .vf = true →
      (bitOf (x.rd (reg Off.HCQ_CFG)) 8 = false →
        ∃ t, exec (.hcqCfgWrite p src v val) s = .next t ∧ (pkgOf t p).rd (reg Off.HCQ_CFG) =
          ringSize 8 16 (fld val 4 0) + b2n (bitOf val 8) * 2 ^ 8 + fld val 25 16 * 2 ^ 16 ∧ (pkgOf t p).mem = x.mem) ∧
      (bitOf (x.rd (reg Off.HCQ_CFG)) 8 = true → bitOf val 8 = false → busy →
        exec (.hcqCfgWrite p src v val) s = .next (Safety.refused s p src (reg Off.HCQ_CFG) val 1))) ∧
    (Safety.reaches s p src (reg Off.HEQ_CFG) .vf = true → bitOf (x.rd (reg Off.HEQ_CFG)) 8 = false →
      ∃ t, exec (.heqCfgWrite p src v val) s = .next t ∧ (pkgOf t p).rd (reg Off.HEQ_CFG) =
        ringSize 6 12 (fld val 3 0) + b2n (bitOf val 8) * 2 ^ 8 + fld val 25 16 * 2 ^ 16 ∧ (pkgOf t p).mem = x.mem) ∧
    (Safety.reaches s p src (reg Off.HCQ_PROD) .vf = true →
      (bitOf (x.rd (reg Off.HCQ_CFG)) 8 = false →
        exec (.hcqProdWrite p src v val) s = .next (Safety.written s p (reg Off.HCQ_PROD)
          (touchShadow ((x.wr (reg Off.HCQ_PROD) val).wr (reg Off.HCQ_CONS) val) v))) ∧
      (bitOf (x.rd (reg Off.HCQ_CFG)) 8 = true →
        exec (.hcqProdWrite p src v val) s = .next (Safety.refused s p src (reg Off.HCQ_PROD) val 5))) ∧
    (Safety.reaches s p src (reg Off.HEQ_PROD) .vf = true →
      (bitOf (x.rd (reg Off.HEQ_CFG)) 8 = false →
        exec (.heqProdWrite p src v val) s = .next (Safety.written s p (reg Off.HEQ_PROD)
          (touchShadow ((x.wr (reg Off.HEQ_PROD) val).wr (reg Off.HEQ_CONS) val) v))) ∧
      (bitOf (x.rd (reg Off.HEQ_CFG)) 8 = true →
        exec (.heqProdWrite p src v val) s = .next (Safety.refused s p src (reg Off.HEQ_PROD) val 5))) ∧
    (Safety.reaches s p src (reg Off.HCQ_CONS) .vf = true →
      ∃ t, exec (.hcqConsWrite p src v val) s = .next t ∧ (pkgOf t p).rd (reg Off.HCQ_CONS) = val ∧
        (pkgOf t p).rd (reg Off.HCQ_CFG) = x.rd (reg Off.HCQ_CFG) ∧ (pkgOf t p).mem = x.mem) ∧
    (Safety.reaches s p src (reg Off.HEQ_CONS) .vf = true →
      ∃ t, exec (.heqConsWrite p src v val) s = .next t ∧ (pkgOf t p).rd (reg Off.HEQ_CONS) = val ∧
        (pkgOf t p).rd (reg Off.HEQ_CFG) = x.rd (reg Off.HEQ_CFG) ∧ (pkgOf t p).mem = x.mem)) ∧
  (∀ (s : State) (p v : Nat), let x := pkgOf s p
    ((x.vf v).shadowDirty = false → exec (.shadowWrite p v) s = .next (setPkg s p x)) ∧
    ((x.vf v).shadowDirty = true → bitOf (x.rd (vfPage v + Off.SHADOW_CTL)) 0 = true → v ∉ x.host.d3 →
      ∃ t b, exec (.shadowWrite p v) s = .next t ∧
        (pkgOf t p).host.outMsgs = x.host.outMsgs ++ [.write (x.rd (vfPage v + Off.SHADOW_BASE_LO) / 64 * 64 +
          x.rd (vfPage v + Off.SHADOW_BASE_HI) * 2 ^ 32) b] ∧ b.length = 64 ∧
        (∀ h < 4, fieldAt b (8 * h) 4 = x.rd (hhReg v h Off.HH_ACC) % 2 ^ 32 ∧
          fieldAt b (8 * h + 4) 4 = x.rd (hhReg v h Off.HH_DONE) % 2 ^ 32) ∧
        fieldAt b 32 4 = x.rd (vfPage v + Off.HCQ_PROD) % 2 ^ 32 ∧ fieldAt b 36 4 = x.rd (vfPage v + Off.HEQ_PROD) % 2 ^ 32 ∧
        ((pkgOf t p).vf v).shadowDirty = false ∧ (pkgOf t p).base = x.base)) ∧
  (∀ (s : State) (p v vec : Nat), let x := pkgOf s p
    ((nth false (x.vf v).pendingVec vec) = false →
      ∃ t, exec (.msixHoldoffEnd p v vec) s = .next t ∧ (pkgOf t p).host.outMsgs = x.host.outMsgs ∧
        (pkgOf t p).base = x.base) ∧
    ((nth false (x.vf v).pendingVec vec) = true → vec < 2 → v ∉ x.host.d3 →
      ∃ t, exec (.msixHoldoffEnd p v vec) s = .next t ∧ (pkgOf t p).host.outMsgs.getLast? = some (.msix v vec) ∧
        nth false ((pkgOf t p).vf v).pendingVec vec = false ∧ (pkgOf t p).base = x.base))

/-- The host's functions. A host loss takes RUN, every COMMIT and the shadow's ENABLE to 0 for every virtual function, keeps POSTED, ACC, HCQ_CONS, every owner and every hosted pitch, counts and records itself, strikes nothing, and only then do
configuration changes reach configuration space (R326, R338). A function level reset of a function with an owner strikes its
pitch within the package; of a free one it ends its rings and records VF_RESET (R339, R345). An access through BAR2 reaches the window's bytes; one outside a region reads zeros and raises WIN_FAULT, one of bytes the function's pitch does not own reads zeros and raises CROSS_PITCH, and neither changes memory (R327). Bytes a die does not serve now are not read yet (R117). D3hot puts a
function on, or off, the list of those without DMA, and on leaving it no vector whose holdoff is over stays held back (R324; log 129). Completes: HOST_LOSS, VF_FLR, BAR2_ACCESS, D3HOT. -/
def Obligations.HostFunctions : Prop :=
  (∀ (s : State) (p : Nat) (cause : HostLossCause), let x := pkgOf s p
    ∃ t, exec (.hostLoss p cause) s = .next t ∧ (pkgOf t p).mem = x.mem ∧ (pkgOf t p).hub.hosted = x.hub.hosted ∧
      (pkgOf t p).host.cfgVfs = fld (x.rd (pfPage + Off.HIF_CFG)) 4 0 ∧
      (pkgOf t p).host.cfgBar2 = fld (x.rd (pfPage + Off.HIF_CFG)) 11 8 ∧
      (pkgOf t p).rd (pfPage + Off.HIF_LOSS_CNT) = min 0xFFFFFFFF (x.rd (pfPage + Off.HIF_LOSS_CNT) + 1) ∧
      bitOf ((pkgOf t p).rd (pfPage + Off.EVT_STAT)) 1 = true ∧
      ∀ v, 1 ≤ v → v ≤ 16 →
        bitOf ((pkgOf t p).rd (vfPage v + Off.HCQ_CFG)) 8 = false ∧ bitOf ((pkgOf t p).rd (vfPage v + Off.HEQ_CFG)) 8 = false ∧
        bitOf ((pkgOf t p).rd (vfPage v + Off.SHADOW_CTL)) 0 = false ∧
        (pkgOf t p).rd (vfPage v + Off.HCQ_CONS) = x.rd (vfPage v + Off.HCQ_CONS) ∧
        ownerOf (pkgOf t p).base (vfPage v) = ownerOf x.base (vfPage v) ∧
        ∀ h < 4, bitOf ((pkgOf t p).rd (hhReg v h Off.HH_CTL)) 0 = false ∧
          bitOf ((pkgOf t p).rd (hhReg v h Off.HH_CFG)) 16 = false ∧
          (pkgOf t p).rd (hhReg v h Off.HH_POSTED) = x.rd (hhReg v h Off.HH_POSTED) ∧
          (pkgOf t p).rd (hhReg v h Off.HH_ACC) = x.rd (hhReg v h Off.HH_ACC)) ∧
  (∀ (s : State) (p v : Nat), 1 ≤ v → v ≤ 16 → let x := pkgOf s p
    (ownerOf x.base (vfPage v) ≠ 0 →
      exec (.vfFlr p v) s = .next (setPkg s p (hubStrike x 4 3 (ownerOf x.base (vfPage v))))) ∧
    (ownerOf x.base (vfPage v) = 0 →
      ∃ t, exec (.vfFlr p v) s = .next t ∧ (pkgOf t p).mem = x.mem ∧
        bitOf ((pkgOf t p).rd (pfPage + Off.EVT_STAT)) 2 = true ∧
        bitOf ((pkgOf t p).rd (vfPage v + Off.HCQ_CFG)) 8 = false ∧ bitOf ((pkgOf t p).rd (vfPage v + Off.HEQ_CFG)) 8 = false ∧
        ∀ h < 4, bitOf ((pkgOf t p).rd (hhReg v h Off.HH_CTL)) 0 = false ∧
          bitOf ((pkgOf t p).rd (hhReg v h Off.HH_CFG)) 16 = false)) ∧
  (∀ (s : State) (p fn off n : Nat) (b : Bytes), fn ≤ 16 → let x := pkgOf s p
    let a := winBase x fn + off
    let pitch := if fn = 0 then 0 else ownerOf x.base (vfPage fn)
    0 < n → off + n ≤ 2 ^ (28 + x.host.cfgBar2) → b.length = n →
    (inRegion x a n = true → ownsRange x pitch a n = true →
      (memReady x a n = true → ∃ t, exec (.bar2Access p fn off (.read n)) s = .next t ∧ (pkgOf t p).host.bar2Read.length = n ∧
        ∀ i < n, ∀ c, byteRead x (canon x (a + i)) = some c → byteAt (pkgOf t p).host.bar2Read i = c.toNat) ∧
      (memReady x a n = false → exec (.bar2Access p fn off (.read n)) s = .next { setPkg s p x with free := s.free + 1 }) ∧
      ((∀ y ∈ piecesOf a (n + 1) 0 n, waitAt x (a + y.1) (opPart (.write b) y.1 y.2) = none) →
        let w := writeBytes x 16 a b
        exec (.bar2Access p fn off (.write b)) s =
          .next { setPkg s p { w.1 with mem := { w.1.mem with lastRead := [], lastStatus := w.2 } } with free := s.free + 1 })) ∧
    (inRegion x a n = false ∨ ownsRange x pitch a n = false →
      (∃ t, exec (.bar2Access p fn off (.read n)) s = .next t ∧ (pkgOf t p).host.bar2Read = zeros n ∧ (pkgOf t p).mem = x.mem ∧
        bitOf ((pkgOf t p).rd (fnPage fn + Off.EVT_STAT)) (if inRegion x a n then 25 else 14) = true) ∧
      (∃ t, exec (.bar2Access p fn off (.write b)) s = .next t ∧ (pkgOf t p).mem = x.mem ∧
        bitOf ((pkgOf t p).rd (fnPage fn + Off.EVT_STAT)) (if inRegion x a n then 25 else 14) = true))) ∧
  (∀ (s : State) (p fn : Nat) (d3 : Bool),
    ∃ t, exec (.d3hot p fn d3) s = .next t ∧ (fn ∈ (pkgOf t p).host.d3 ↔ d3 = true) ∧
      (∀ g, g ≠ fn → (g ∈ (pkgOf t p).host.d3 ↔ g ∈ (pkgOf s p).host.d3)) ∧
      (pkgOf t p).mem = (pkgOf s p).mem ∧
      (d3 = true ∨ fn = 0 → (pkgOf t p).base = (pkgOf s p).base ∧ (pkgOf t p).host.outMsgs = (pkgOf s p).host.outMsgs) ∧
      (d3 = false → 0 < fn → ∀ vec < 2, nth false ((pkgOf t p).vf fn).pendingVec vec = true →
        nth false ((pkgOf t p).vf fn).holdoff vec = true))

/-! ## Tray controllers -/

/-- What a tray controller does when a position's pins speak. An edge of HEARTBEAT starts the watch again. A missing heartbeat, and
a kindling without one, are logged and start an attempt, a pulse of RESET_N, unless a condition of higher precedence governs; with
three attempts within ten minutes RESET_N is held and the package counts as failed (R376, R377, R378). A thermal trip is logged and reported;
PORST_N is pulsed once, and a second trip within the hour waits for ClearFault (R377). ERR_FATAL_N is reported, ERR_CORR_N counted and logged
once a second (R377, R447). ResetPackage forgets the attempts and pulses RESET_N, and ClearFault ends the holds of a leak and of a flow loss (R365, R377, R389).
Completes: HEARTBEAT_EDGE, HEARTBEAT_FAULT, KINDLING_FAULT, RECOVERY_TIMEOUT, THERMTRIP_ASSERT, TRIP_REPULSE, ERR_FATAL_ASSERT,
ERR_CORR_EDGE, ERR_CORR_PULSE_END, RESET_PACKAGE, CLEAR_FAULT. -/
def Obligations.TraySupervision : Prop :=
  (∀ (s : State) (tc pos : Nat) (e : Elem), elemAt tc pos = some e → (posOf s tc pos).present = true →
    let x := posOf s tc pos
    let now := (tcOf s tc).now
    let recent := recentAttempts now x
    let told := fun (t : State) (name : String) => ({ name := name, subject := subjectOf tc pos, http := 0 } : RfMsg) ∈ (rcOf t (tc / 30)).msgs
    let attempted := fun (t : State) => (posOf t tc pos).attempts = recent ++ [now] ∧ (posOf t tc pos).attemptRunning = true ∧
      (posOf t tc pos).hbSeen = false ∧ baseOf t e = baseOf (pulseReset s e) e
    let failed := fun (t : State) => (posOf t tc pos).resetHeld = true ∧ (posOf t tc pos).packageFailed = true ∧
      baseOf t e = baseOf (lowReset s e) e ∧ told t "PackageFailed"
    (x.resetHeld = false →
      exec (.heartbeatEdge tc pos) s = .next (modPos s tc pos fun y => { y with hbSeen := true, lastEdge := now })) ∧
    (x.resetHeld = false → x.hbSeen = true →
      (outranked s tc pos e = true →
        exec (.heartbeatFault tc pos) s =
          .next (logAt s tc pos 2 0x0010 (le 4 x.lastEdge ++ le 4 (resetCountSeen (baseOf s e))))) ∧
      (outranked s tc pos e = false → sealedElem s e = false → recent.length < 3 →
        ∃ t, exec (.heartbeatFault tc pos) s = .next t ∧ attempted t ∧ told t "HeartbeatFault") ∧
      (outranked s tc pos e = false → sealedElem s e = false → 3 ≤ recent.length →
        ∃ t, exec (.heartbeatFault tc pos) s = .next t ∧ failed t ∧ told t "HeartbeatFault")) ∧
    (x.resetHeld = false → x.hbSeen = false → outranked s tc pos e = false → sealedElem s e = false →
      (recent.length < 3 → ∃ t, exec (.kindlingFault tc pos) s = .next t ∧ attempted t) ∧
      (3 ≤ recent.length → ∃ t, exec (.kindlingFault tc pos) s = .next t ∧ failed t)) ∧
    (x.attemptRunning = true → recent.length < 3 →
      exec (.recoveryTimeout tc pos) s = .next (modPos s tc pos fun y => { y with attemptRunning := false })) ∧
    (x.attemptRunning = true → 3 ≤ recent.length → ∃ t, exec (.recoveryTimeout tc pos) s = .next t ∧ failed t) ∧
    (∃ t, exec (.thermtripAssert tc pos) s = .next t ∧ told t "ThermalTrip" ∧ t.pkgs = s.pkgs ∧ t.weirs = s.weirs ∧
      ∀ u, x.tripAt = some u → now < u + 3600000000000 → (posOf t tc pos).tripWaitsClear = true) ∧
    ((baseOf s e).pins.thermtrip = true → x.porstHolds = [] →
      (x.tripWaitsClear = false → (∀ u, x.tripAt = some u → u + 3600000000000 ≤ now) →
        ∃ t, exec (.tripRepulse tc pos) s = .next t ∧ (posOf t tc pos).porstHolds = [] ∧ (posOf t tc pos).tripAt = some now ∧
          baseOf t e = baseOf (freePorst (lowPorst s e) e) e) ∧
      (x.tripWaitsClear = true → exec (.tripRepulse tc pos) s = .next s)) ∧
    (outranked s tc pos e = false → x.resetHeld = false →
      ∃ t, exec (.errFatalAssert tc pos) s = .next t ∧ (posOf t tc pos).fatalEdges = min 0xFFFFFFFF (x.fatalEdges + 1) ∧
        told t "PackageError" ∧ t.pkgs = s.pkgs ∧ t.weirs = s.weirs) ∧
    ((∀ u, x.corrLogged = some u → u + 1000000000 ≤ now) →
      ∃ t, exec (.errCorrEdge tc pos) s = .next t ∧ (posOf t tc pos).corrEdges = 0 ∧ (posOf t tc pos).corrLogged = some now ∧
        (tcOf t tc).log.getLast? =
          some (logBytes (tcOf s tc) (logSource tc pos) 1 0x0021 (le 4 (min 0xFFFFFFFF (x.corrEdges + 1)))))) ∧
  (∀ (s : State) (e : Elem), ∃ t, exec (.errCorrPulseEnd e) s = .next t ∧
    (baseOf t e).pins.corrWait = (baseOf s e).pins.corrWait - 1 ∧
    ((baseOf s e).pins.corrWait = 0 → (baseOf t e).pins.corrPulse = false) ∧
    (0 < (baseOf s e).pins.corrWait → (baseOf t e).pins.corrPulse = (baseOf s e).pins.corrPulse)) ∧
  (∀ (s : State) (rack slot : Nat), let at' := tcOfElem (.pkg (rack * 64 + slot))
    (64 ≤ slot → exec (.resetPackage rack slot) s = .next (rcAnswer s rack "ResetPackage" slot 400)) ∧
    (slot < 64 → ∃ t, exec (.resetPackage rack slot) s = .next t ∧ (posOf t at'.1 at'.2).resetHeld = false ∧
      (posOf t at'.1 at'.2).packageFailed = false ∧ (posOf t at'.1 at'.2).attempts = [] ∧
      (rcOf t rack).msgs.getLast? = some { name := "ResetPackage", subject := slot, http := 200 })) ∧
  (∀ (s : State) (rack : Nat) (tray : Tray), let tc := trayTc rack tray
    (trayThere rack tray = false → exec (.clearFault rack tray) s = .next (rcAnswer s rack "ClearFault" (trayNo tray) 400)) ∧
    (trayThere rack tray = true → ∃ t, exec (.clearFault rack tray) s = .next t ∧
      4 ∉ (tcOf t tc).cool.conds ∧ 5 ∉ (tcOf t tc).cool.conds ∧ (tcOf t tc).cool.isolationClosed = false ∧
      (∀ pos < posCount tc, 2 ∉ (posOf t tc pos).porstHolds ∧ 3 ∉ (posOf t tc pos).porstHolds ∧ (posOf t tc pos).tripAt = none ∧
        (posOf t tc pos).tripWaitsClear = false) ∧
      (rcOf t rack).msgs.getLast? = some { name := "ClearFault", subject := trayNo tray, http := 200 }))

/-- The messages a tray controller takes from the front of an outbox (R411). An image or a blob that is asked for is delivered into the
bulk buffer, the blob made for the serial that was read (R380); settings leave the bulk-out buffer and are kept under that serial (R380);
a ready report ends an attempt, or with RESULT 3 counts as a failed one (R378); a load notice joins the flow target (R364); an event record is copied into the log
(R381), a pitch reply goes on, and an unknown message is logged; at the other end an unknown message is discarded and counted. A status poll takes what waits (R410).
Completes: IMAGE_REQ, BLOB_REQ, SETTINGS_READY, READY_REPORT, WEIR_READY_REPORT, LOAD_NOTICE_MESSAGE, EVENT_RECORD_COPY, PITCH_REPLY,
MSP_UNKNOWN_MESSAGE, MSP_STATUS_POLL. -/
def Obligations.TrayMessages : Prop :=
  (∀ (s : State) (tc pos : Nat) (e : Elem) (type : Nat) (c : Bytes), elemAt tc pos = some e → (posOf s tc pos).present = true →
    outFront (baseOf s e) = some (type, c) →
    let x := posOf s tc pos
    let now := (tcOf s tc).now
    (type = 1 → ∀ img, mfind (slotCopy tc x (fieldAt c 0 4)) (tcOf s tc).copies = some img →
      ∃ t, exec (.imageReq tc pos) s = .next t ∧ (baseOf t e).msp.bulkIn = img.take (2 ^ 22) ∧ (baseOf t e).msp.bulkOut = [] ∧
        (baseOf t e).msp.outbox = (outDrop (baseOf s e)).msp.outbox ∧ t.tcs = s.tcs) ∧
    (type = 1 → mfind (slotCopy tc x (fieldAt c 0 4)) (tcOf s tc).copies = none →
      exec (.imageReq tc pos) s =
        .next (modBase (modBase s e outDrop) e fun b => inboxTake b (mspMessage 0x82 (le 4 1)))) ∧
    (type = 2 → ∃ t, exec (.blobReq tc pos) s = .next t ∧ (posOf t tc pos).serial = serialOf (baseOf s e) ∧
      (baseOf t e).msp.bulkIn = (positionBlob t tc pos).take (2 ^ 22)) ∧
    (type = 3 → ∃ t, exec (.settingsReady tc pos) s = .next t ∧
      (baseOf t e).msp.bulkOut = (baseOf s e).msp.bulkOut.drop (fieldAt c 0 4) ∧
      (posOf t tc pos).serial = serialOf (baseOf s e) ∧
      mget (([], []) : Bytes × Bytes) (rcOf t (tc / 30)).saved (serialOf (baseOf s e)) =
        ((posOf t tc pos).savedPorts, (posOf t tc pos).savedDram)) ∧
    (sealedElem s e = false → byteAt c 1 ≠ 3 → x.attemptRunning = true →
      let ended := fun (t : State) => (posOf t tc pos).attemptRunning = false ∧ (posOf t tc pos).readyResult = byteAt c 1 ∧
        ({ name := "PackageReset", subject := subjectOf tc pos, http := 0 } : RfMsg) ∈ (rcOf t (tc / 30)).msgs
      (type = 4 → ∃ t, exec (.readyReport tc pos) s = .next t ∧ ended t) ∧
      (type = 8 → ∃ t, exec (.weirReadyReport tc pos) s = .next t ∧ ended t)) ∧
    (sealedElem s e = false → byteAt c 1 = 3 → x.attemptRunning = false → (recentAttempts now x).length < 2 →
      let counted := fun (t : State) => (posOf t tc pos).attempts = x.attempts ++ [now] ∧ (posOf t tc pos).readyResult = 3
      (type = 4 → ∃ t, exec (.readyReport tc pos) s = .next t ∧ counted t) ∧
      (type = 8 → ∃ t, exec (.weirReadyReport tc pos) s = .next t ∧ counted t)) ∧
    (type = 5 → ∃ t n, exec (.loadNoticeMessage tc pos) s = .next t ∧ (posOf t tc pos).notice = some n ∧
      n.atNs = fieldAt c 0 8 ∧ n.power = min 1600 (fieldAt c 8 2) ∧ n.pitch = fieldAt c 10 2 % 4096 ∧ n.durMs = fieldAt c 12 2) ∧
    (type = 6 → ∃ t, exec (.eventRecordCopy tc pos) s = .next t ∧
      (tcOf t tc).log.getLast? = some (logBytes (tcOf s tc) (logSource tc pos) (byteAt c 13) 0x0030 ((c.drop 16).take 14)) ∧
      (tcOf t tc).lseq = ((tcOf s tc).lseq + 1) % 2 ^ 32) ∧
    (type = 7 → exec (.pitchReply tc pos) s = .next (modBase s e outDrop)) ∧
    (type = 7 → (baseOf s e).msp.outbox.length = 1 + ((baseOf s e).msp.outbox.headD 0).toNat % 2 ^ 16 →
      exec (.mspStatusPoll tc pos) s = .next (modBase s e outDrop)) ∧
    (type = 0 ∨ 8 < type → ∃ t, exec (.mspUnknownMessage e true type) s = .next t ∧
      (tcOf t tc).log.getLast? = some (logBytes (tcOf s tc) (logSource tc pos) 1 0 (le 1 type)) ∧
      (baseOf t e).msp.outbox = (outDrop (baseOf s e)).msp.outbox)) ∧
  (∀ (s : State) (tc pos : Nat) (e : Elem), elemAt tc pos = some e → outPending (baseOf s e).msp = false →
    exec (.mspStatusPoll tc pos) s = .next s) ∧
  (∀ (s : State) (e : Elem) (type : Nat) (w : Word) (rest : List Word), (baseOf s e).msp.inbox = w :: rest →
    w.toNat / 2 ^ 24 = type → type ≠ 0x81 → type ≠ 0x82 → type ≠ 0x83 → hubRuns (baseOf s e) = true →
    ∃ t, exec (.mspUnknownMessage e false type) s = .next t ∧
      (baseOf t e).msp.inbox = rest.drop (w.toNat % 2 ^ 16) ∧
      fld (baseOf t e).msp.err.toNat 15 8 = min 255 (fld (baseOf s e).msp.err.toNat 15 8 + 1))

/-- A tray controller's images and its restart. A boot is logged and starts every watch anew (R379). A trial that confirms becomes the
active slot and moves the thermometer; one that fails, or a restart during it, goes back to the active slot (R385). An image that does not
pass its checks is logged with its reason and stored nowhere (R384); a tray controller's own starts a trial in the other slot (R385); another takes a copy (R386).
A cap the rack controller sends is kept (R392). A restart of the management tray's controller brings its rack controller back (R21).
Completes: TC_RESTART, TC_TRIAL_CONFIRM, TC_TRIAL_FAIL, IMAGE_STORE, TC_CAP_MESSAGE. -/
def Obligations.TrayImages : Prop :=
  ∀ (s : State) (tc : Nat), let c := tcOf s tc
    let v := fun (slot : Nat) => nth 0 c.slotVersions slot
    (c.trial = none →
      (tc % 30 = 29 → ∃ t, exec (.tcRestart tc) s = .next t ∧ (rcOf t (tc / 30)).lost = false) ∧
      (posCount tc = 0 → tc % 30 ≠ 29 →
        exec (.tcRestart tc) s = .next (logTc s tc 0 0 0x0001 (le 1 c.activeSlot ++ le 4 (v c.activeSlot)))) ∧
      (∃ t, exec (.tcRestart tc) s = .next t ∧ (∀ pos < posCount tc, (posOf t tc pos).hbSeen = false) ∧
        (tcOf t tc).activeSlot = c.activeSlot) ∧
      exec (.tcTrialConfirm tc) s = .next (setTc s tc c) ∧ exec (.tcTrialFail tc) s = .next s) ∧
    (∀ slot, c.trial = some slot →
      exec (.tcTrialConfirm tc) s = .next (setTc s tc { c with
        trial := none, activeSlot := slot, thermometer := max c.thermometer c.trialRollback }) ∧
      (tc % 30 ≠ 29 → exec (.tcTrialFail tc) s = exec (.tcRestart tc) s) ∧
      ∃ t, exec (.tcTrialFail tc) s = .next t ∧ (tcOf t tc).trial = none ∧ (tcOf t tc).activeSlot = c.activeSlot ∧
        (tcOf t tc).thermometer = c.thermometer) ∧
    (∀ g : Bytes,
      (imageReason s tc g ≠ 0 → exec (.imageStore tc g) s =
        .next (logTc s tc 0 2 0x0060 (le 1 (imgType g) ++ le 4 (imgVersion g) ++ le 1 (imageReason s tc g)))) ∧
      (imageReason s tc g = 0 → imgType g = 1 → c.activeSlot < 2 → c.slotVersions.length = 2 →
        ∃ t, exec (.imageStore tc g) s = .next t ∧ (tcOf t tc).trial = some (1 - c.activeSlot) ∧
          nth 0 (tcOf t tc).slotVersions (1 - c.activeSlot) = imgVersion g ∧ (tcOf t tc).activeSlot = c.activeSlot) ∧
      (∀ n, imageReason s tc g = 0 → imgType g ≠ 1 → copyFor s tc (imgType g) = some n →
        ∃ t, exec (.imageStore tc g) s = .next t ∧ mfind n (tcOf t tc).copies = some g ∧ t.pkgs = s.pkgs ∧ t.weirs = s.weirs)) ∧
    (∀ pos watts e, elemAt tc pos = some e → (posOf s tc pos).present = true →
      (capWasSent s tc pos watts = false → exec (.tcCapMessage tc pos watts) s = .next s) ∧
      (capWasSent s tc pos watts = true → ∃ t, exec (.tcCapMessage tc pos watts) s = .next t ∧ (posOf t tc pos).rcCap = watts) ∧
      (capForced c = true → capWasSent s tc pos watts = true →
        exec (.tcCapMessage tc pos watts) s = .next (modPos s tc pos fun x => { x with rcCap := watts })))

/-- Tray coolant. A poll keeps the readings, with 40 °C for an inlet that gives none, recomputes the flow target, writes T_IN of
every package, and acts at once on a lost flow, a lost pressure and a leak (R363, R364, R365, R416). The conditions of R365 are entered, hold PORST_N of every position of the tray in a flow loss and a leak, and the first three end by themselves.
Completes: COOLANT_POLL, INLET_HOT_TIMEOUT, FLOW_LOW_TIMEOUT, FLOW_STILL_LOW, FLOW_LOSS, LEAK_DETECTED, COOLANT_CONDITION_END. -/
def Obligations.TrayCoolant : Prop :=
  (∀ (s : State) (tc : Nat) (reading : Coolant), 0 < posCount tc →
    let r := usable (mget {} (tcOf s tc).segs 0).stuck reading
    ∃ t, exec (.coolantPoll tc reading) s = .next t ∧
      (tcOf t tc).cool.inlet = r.inlet.getD 320 ∧ (tcOf t tc).cool.flow = r.flow.getD 0 ∧
      (tcOf t tc).cool.flowTarget = flowTarget s tc (r.power.headD 0) ∧ (tcOf t tc).cool.flowTarget ≤ 1000 ∧
      (tcOf t tc).cool.faulty = faultySensors r ∧
      (320 < r.inlet.getD 320 → 1 ∈ (tcOf t tc).cool.conds) ∧
      (r.flow = none ∨ pressureLost r = true → 4 ∈ (tcOf t tc).cool.conds) ∧
      (r.leak ≠ some false → 5 ∈ (tcOf t tc).cool.conds) ∧
      (r.flow ≠ none → pressureLost r = false → r.leak = some false →
        ∀ pos k, elemAt tc pos = some (.pkg k) → hubRuns (pkgOf s k).base = true → mspSilent (pkgOf s k).base = false →
          (pkgOf s k).base.msp.csBusy = false → Safety.reaches s k .cs (pw Off.T_IN) .power = true →
          inletT (pkgOf t k) = r.inlet.getD 320)) ∧
  (∀ (s : State) (tc : Nat) (reading : Coolant), posCount tc = 0 → exec (.coolantPoll tc reading) s = .next s) ∧
  (∀ (s : State) (tc : Nat), 0 < posCount tc → let c := (tcOf s tc).cool
    (∃ t, exec (.inletHotTimeout tc) s = .next t ∧ 2 ∈ (tcOf t tc).cool.conds) ∧
    (∃ t, exec (.flowLowTimeout tc) s = .next t ∧ 3 ∈ (tcOf t tc).cool.conds ∧ (tcOf t tc).cool.valveFull = true) ∧
    (3 ∈ c.conds → ∃ t, exec (.flowStillLow tc) s = .next t ∧ (tcOf t tc).cool.flowCap = true) ∧
    (3 ∉ c.conds → exec (.flowStillLow tc) s = .next s) ∧
    (4 ∉ c.conds → ∃ t, exec (.flowLoss tc) s = .next t ∧ 4 ∈ (tcOf t tc).cool.conds ∧ (tcOf t tc).cool.valveOpen = true ∧
      (∀ pos < posCount tc, 3 ∈ (posOf t tc pos).porstHolds) ∧
      ({ name := "FlowLoss", subject := tc % 30, http := 0 } : RfMsg) ∈ (rcOf t (tc / 30)).msgs) ∧
    (4 ∈ c.conds → exec (.flowLoss tc) s = .next s) ∧
    (5 ∉ c.conds → ∃ t, exec (.leakDetected tc) s = .next t ∧ 5 ∈ (tcOf t tc).cool.conds ∧
      (tcOf t tc).cool.isolationClosed = true ∧ (∀ pos < posCount tc, 2 ∈ (posOf t tc pos).porstHolds) ∧
      ({ name := "LeakDetected", subject := tc % 30, http := 0 } : RfMsg) ∈ (rcOf t (tc / 30)).msgs) ∧
    (5 ∈ c.conds → exec (.leakDetected tc) s = .next s) ∧
    (∀ row, row = 1 ∨ row = 2 ∨ row = 3 → row ∈ c.conds →
      ∃ t, exec (.coolantConditionEnd tc row) s = .next t ∧ row ∉ (tcOf t tc).cool.conds ∧
        (row = 3 → (tcOf t tc).cool.valveFull = false ∧ (tcOf t tc).cool.flowCap = false)) ∧
    (∀ row, 3 < row ∨ row ∉ c.conds → exec (.coolantConditionEnd tc row) s = .next s))

/-- Sideband segments and the MAC. A PSU's health is its last reading, and false once its readings have stayed lost (R415). Recovery of a
segment sends up to nine clocks, or a STOP, or switches the isolator off; the isolator's return tells whether the bus is free, and a stuck bus is tried again (R416). A received
frame goes into owned descriptors, which return with its length and time in the last; one without a buffer, with an error or too long leaves a count (R417, R418, R419). A whole frame is sent
while the link is up, a malformed one returned and counted (R420).
Completes: PMBUS_POLL, PSU_READING_STALE, SMBALERT_POLL, BUS_RECOVERY, ISOLATOR_RESTORE, BUS_STUCK_RETRY, MAC_RECEIVE, MAC_TRANSMIT,
MAC_TRANSMIT_DONE. -/
def Obligations.Sideband : Prop :=
  ∀ (s : State) (tc : Nat), let t := tcOf s tc
    (isShelf tc = true → (segOf t 2).stuck = false → t.psuHealthy.length = 6 →
      ∀ healthy : List (Option Bool), ∃ u, exec (.pmbusPoll tc healthy) s = .next u ∧
        ∀ i < 6, ∀ b, nth none healthy i = some b →
          nth false (tcOf u tc).psuHealthy i = b ∧ i ∉ (tcOf u tc).psuLost) ∧
    (∀ psu, psu ∈ t.psuLost →
      exec (.psuReadingStale tc psu) s = .next (setTc s tc { t with psuHealthy := setNth t.psuHealthy psu false })) ∧
    (∀ asserted, exec (.smbalertPoll tc asserted) s = .next (setTc s tc { t with smbalert := asserted })) ∧
    (∀ seg last, seg ≤ 2 →
      (∀ n, 1 ≤ n → n ≤ 9 → ∃ u, exec (.busRecovery tc seg true false (some n) last) s = .next u ∧
        (segOf (tcOf u tc) seg).stage = 0 ∧ (segOf (tcOf u tc) seg).clocks = n ∧ (segOf (tcOf u tc) seg).stuck = false ∧
        (tcOf u tc).log.getLast? = some (logBytes t 0 1 0x0080 (le 1 seg ++ le 1 1 ++ le 1 n ++ le 1 last))) ∧
      (∃ u, exec (.busRecovery tc seg true false none last) s = .next u ∧ (segOf (tcOf u tc) seg).stage = 3 ∧
        (segOf (tcOf u tc) seg).clocks = 9 ∧ (segOf (tcOf u tc) seg).isolatorOff = true ∧ (tcOf u tc).log = t.log) ∧
      (∃ u, exec (.busRecovery tc seg true true none last) s = .next u ∧ (segOf (tcOf u tc) seg).clocks = 0 ∧
        (segOf (tcOf u tc) seg).isolatorOff = true)) ∧
    (∀ seg, (segOf t seg).isolatorOff = true →
      (∃ u, exec (.isolatorRestore tc seg true) s = .next u ∧ (segOf (tcOf u tc) seg).isolatorOff = false ∧
        (segOf (tcOf u tc) seg).stuck = false ∧ (segOf (tcOf u tc) seg).stage = 0) ∧
      (∃ u, exec (.isolatorRestore tc seg false) s = .next u ∧ (segOf (tcOf u tc) seg).isolatorOff = false ∧
        (segOf (tcOf u tc) seg).stuck = true ∧ (segOf (tcOf u tc) seg).stage = 4)) ∧
    (∀ seg, (segOf t seg).stuck = true →
      exec (.busStuckRetry tc seg) s = .next (setTc s tc (setSeg t seg { segOf t seg with isolatorOff := true }))) ∧
    (t.mac.linkUp = true → ∀ frame : Bytes, ∀ ok : Bool,
      (t.mac.rxRing = [] ∨ (descAt t.mac.rxRing t.mac.rxHead).own = false →
        exec (.macReceive tc frame ok) s = .next (setTc s tc { t with
          mac := { t.mac with rxNobufStart := min 0xFFFFFFFF (t.mac.rxNobufStart + 1) } })) ∧
      (t.mac.rxHead < t.mac.rxRing.length → (descAt t.mac.rxRing t.mac.rxHead).own = true →
        frame.length ≤ (descAt t.mac.rxRing t.mac.rxHead).bufLen → 64 ≤ frame.length → frame.length ≤ 1522 →
        etherType frame ≠ 0x8808 → ∃ u, exec (.macReceive tc frame true) s = .next u ∧
          let d := nth ({} : MacDesc) (tcOf u tc).mac.rxRing t.mac.rxHead
          d.own = false ∧ d.first = true ∧ d.last = true ∧ d.frameLen = frame.length ∧ d.buf = frame ∧
          d.timeLo = t.now % 2 ^ 32 ∧ (tcOf u tc).mac.rxHead = (t.mac.rxHead + 1) % t.mac.rxRing.length)) ∧
    (t.mac.sending = none → t.mac.txHead < t.mac.txRing.length → (descAt t.mac.txRing t.mac.txHead).own = true →
      (descAt t.mac.txRing t.mac.txHead).last = true →
      ((descAt t.mac.txRing t.mac.txHead).first = true → t.mac.linkUp = true →
        exec (.macTransmit tc) s = .next (setTc s tc { t with mac := { t.mac with sending := some 1 } })) ∧
      ((descAt t.mac.txRing t.mac.txHead).first = false → ∃ u, exec (.macTransmit tc) s = .next u ∧
        (nth ({} : MacDesc) (tcOf u tc).mac.txRing t.mac.txHead).malformed = true ∧
        (nth ({} : MacDesc) (tcOf u tc).mac.txRing t.mac.txHead).own = false ∧
        (tcOf u tc).mac.txMalformed = min 0xFFFFFFFF (t.mac.txMalformed + 1))) ∧
    (t.mac.sending = some 1 → t.mac.txHead < t.mac.txRing.length →
      ∃ u, exec (.macTransmitDone tc) s = .next u ∧ (tcOf u tc).mac.sending = none ∧
        (nth ({} : MacDesc) (tcOf u tc).mac.txRing t.mac.txHead).sent = true ∧
        (nth ({} : MacDesc) (tcOf u tc).mac.txRing t.mac.txHead).own = false ∧
        (tcOf u tc).mac.txHead = (t.mac.txHead + 1) % t.mac.txRing.length)

/-! ## The rack controller -/

/-- Power caps of a rack. A set point outside 50 kW to 128 kW, and a request outside 400 W to 1,600 W, are answered 400 and change
nothing (R388). A computation sends lowered caps at once and keeps raised ones; when even 400 W for every package does not fit, every cap is 400 W and
PowerShortfall is reported (R391, R392). The level is the largest whole watt whose caps fit what is available. CAP_RAISE sends the raised ones. A rack controller
that is lost computes none (R21). Completes: POWER_LIMIT_WRITE, POWER_LIMIT_PKG_WRITE, CAP_COMPUTATION, CAP_RAISE. -/
def Obligations.RackCaps : Prop :=
  (∀ (s : State) (rack watts : Nat),
    (50000 ≤ watts ∧ watts ≤ 128000 →
      exec (.powerLimitWrite rack watts) s =
        .next (rcAnswer (modRc s rack fun r => { r with setPoint := watts }) rack "PowerLimit" watts 200)) ∧
    (watts < 50000 ∨ 128000 < watts →
      exec (.powerLimitWrite rack watts) s = .next (rcAnswer s rack "PowerLimit" watts 400)) ∧
    (∀ slot < 64, 400 ≤ watts → watts ≤ 1600 →
      exec (.powerLimitPkgWrite rack slot watts) s =
        .next (rcAnswer (modRc s rack fun r => { r with req := mset r.req slot watts }) rack "PowerLimitPkg" slot 200)) ∧
    (∀ slot, watts < 400 ∨ 1600 < watts →
      exec (.powerLimitPkgWrite rack slot watts) s = .next (rcAnswer s rack "PowerLimitPkg" slot 400))) ∧
  (∀ (s : State) (rack overhead : Nat), let r := rcOf s rack
    let avail := min r.setPoint (supply s rack) - (overhead * 105 + 99) / 100
    let slots := (List.range 64).filter (takesCap s rack)
    let reqs := slots.map fun i => mget 1600 r.req i
    let level := if avail < 400 * slots.length then 400 else capLevel avail reqs
    let cap := fun (i : Nat) => if avail < 400 * slots.length then 400 else capUnder level (mget 1600 r.req i)
    (r.lost = true → exec (.capComputation rack overhead) s = .next s) ∧
    (r.lost = false → ∃ t, exec (.capComputation rack overhead) s = .next t ∧
      (∀ i ∈ slots, (cap i < mget 0 r.capSent i → mget 0 (rcOf t rack).capSent i = cap i) ∧
        (mget 0 r.capSent i < cap i → mget 0 (rcOf t rack).capSent i = mget 0 r.capSent i ∧ (i, cap i) ∈ (rcOf t rack).capRaise)) ∧
      (avail < 400 * slots.length →
        ({ name := "PowerShortfall", subject := rack, http := 0 } : RfMsg) ∈ (rcOf t rack).msgs) ∧
      t.pkgs = s.pkgs ∧ t.tcs = s.tcs)) ∧
  (∀ (avail : Nat) (reqs : List Nat), 400 * reqs.length ≤ avail →
    ((reqs.map (capUnder (capLevel avail reqs))).foldl (· + ·) 0 ≤ avail) ∧
    ∀ l ≤ 1600, (reqs.map (capUnder l)).foldl (· + ·) 0 ≤ avail → l ≤ capLevel avail reqs) ∧
  (∀ (s : State) (rack : Nat), ((rcOf s rack).capRaise.map Prod.fst).Nodup →
    ∃ t, exec (.capRaise rack) s = .next t ∧ (rcOf t rack).capRaise = [] ∧
      (∀ e ∈ (rcOf s rack).capRaise, mget 0 (rcOf t rack).capSent e.1 = e.2) ∧
      (∀ i, i ∉ (rcOf s rack).capRaise.map Prod.fst → mget 0 (rcOf t rack).capSent i = mget 0 (rcOf s rack).capSent i))

/-- Removal, loss and return of a tray. PrepareRemoval that is refused changes nothing but its answer; accepted, the tray drains, loses its
attestation, and its change of the route tables is asked for, at a switch tray once its planes have drained or the wait is over (R396, R397). An insertion
seats the parts, releases PORST_N and asks for attestation; ReturnToService is accepted only once attested (R398). A tray that
is lost is absent, and reported, once none of the ports that face it is up (R399). A rack controller whose own tray's controller has gone is lost: from then on no
removal, return or change starts (R21). Completes: PREPARE_REMOVAL_COMPUTE, PREPARE_REMOVAL_SWITCH, DRAIN_WAIT_EXPIRE, PLANES_DRAINED,
TRAY_INSERTED, RETURN_TO_SERVICE, TC_CONTACT_LOSS. -/
def Obligations.TraySwaps : Prop :=
  (∀ (s : State) (rack c : Nat), let code := removalAnswer s rack (.compute c)
    (code ≠ 200 → exec (.prepareRemovalCompute rack c) s = .next (rcAnswer s rack "PrepareRemoval" c code)) ∧
    (code = 200 → ∃ t, exec (.prepareRemovalCompute rack c) s = .next t ∧ trayState t rack c = .draining ∧
      (rcOf t rack).swap = some (.compute c, 3) ∧ c ∉ (rcOf t rack).attested ∧ t.epochChange.isSome ∧
      ({ name := "PrepareRemoval", subject := c, http := 200 } : RfMsg) ∈ (rcOf t rack).msgs)) ∧
  (∀ (s : State) (rack n : Nat), let code := removalAnswer s rack (.switch n)
    (code ≠ 200 → exec (.prepareRemovalSwitch rack n) s = .next (rcAnswer s rack "PrepareRemoval" (16 + n) code)) ∧
    (code = 200 → ∃ t, exec (.prepareRemovalSwitch rack n) s = .next t ∧ trayState t rack (16 + n) = .draining ∧
      (rcOf t rack).swap = some (.switch n, 2) ∧ t.epochChange = none ∧
      ({ name := "PrepareRemoval", subject := 16 + n, http := 200 } : RfMsg) ∈ (rcOf t rack).msgs)) ∧
  (∀ (s : State) (rack n : Nat), (rcOf s rack).swap = some (.switch n, 2) →
    (∃ t, exec (.drainWaitExpire rack) s = .next t ∧ (rcOf t rack).swap = some (.switch n, 3) ∧
      (controllersLost s = false → t.epochChange.isSome)) ∧
    (planesDrained s rack = true → exec (.planesDrained rack) s = exec (.drainWaitExpire rack) s) ∧
    (planesDrained s rack = false → exec (.planesDrained rack) s = .next s)) ∧
  (∀ (s : State) (rack : Nat), (rcOf s rack).swap = none →
    exec (.drainWaitExpire rack) s = .next s ∧ exec (.planesDrained rack) s = .next s) ∧
  (∀ (s : State) (rack : Nat) (tray : Tray) (serials : List Nat), let tc := trayTc rack tray
    let st := trayState s rack (trayNo tray)
    (st ≠ .readyForRemoval → st ≠ .absent → exec (.trayInserted rack tray serials) s = .next s) ∧
    (trayThere rack tray = true → st = .readyForRemoval ∨ st = .absent →
      ∃ t, exec (.trayInserted rack tray serials) s = .next t ∧ trayState t rack (trayNo tray) = .inserted ∧
        trayNo tray ∉ (rcOf t rack).attested ∧ (tcOf t tc).hotSwitchOpen = false ∧
        (∀ pos < posCount tc, (posOf t tc pos).present = decide (pos < serials.length) ∧ 4 ∉ (posOf t tc pos).porstHolds) ∧
        ({ name := "WiringAttestationRequired", subject := trayNo tray, http := 0 } : RfMsg) ∈ (rcOf t rack).msgs)) ∧
  (∀ (s : State) (rack : Nat) (tray : Tray), let n := trayNo tray
    (trayThere rack tray = false ∨ trayState s rack n ≠ .inserted →
      exec (.returnToService rack tray) s = .next (rcAnswer s rack "ReturnToService" n 400)) ∧
    (trayThere rack tray = true → trayState s rack n = .inserted → n ∉ (rcOf s rack).attested →
      exec (.returnToService rack tray) s = .next (rcAnswer s rack "ReturnToService" n 409)) ∧
    (trayThere rack tray = true → trayState s rack n = .inserted → n ∈ (rcOf s rack).attested → changing s = false →
      swappingOther s rack tray = false → controllersLost s = false →
      ∃ t, exec (.returnToService rack tray) s = .next t ∧ t.epochChange.isSome ∧ trayState t rack n = .inserted ∧
        ({ name := "ReturnToService", subject := n, http := 200 } : RfMsg) ∈ (rcOf t rack).msgs)) ∧
  (∀ (s : State) (rack n : Nat),
    (25 ≤ n → n ≠ 29 → exec (.tcContactLoss rack n) s = .next s) ∧
    (n = 29 → exec (.tcContactLoss rack n) s = .next (modRc s rack fun r => { r with lost := true })) ∧
    (controllersLost s = true → removalAnswer s rack (.compute n) ≠ 200 ∧ removalAnswer s rack (.switch n) ≠ 200) ∧
    (∀ t', trayOf n = some t' → (∃ x ∈ facingPorts s rack t', portUp (baseOf s x.1) x.2 = true) →
      exec (.tcContactLoss rack n) s = .next s) ∧
    (∀ t', trayOf n = some t' → (∀ x ∈ facingPorts s rack t', portUp (baseOf s x.1) x.2 = false) →
      ∃ t, exec (.tcContactLoss rack n) s = .next t ∧ trayState t rack n = .absent ∧ (controllersLost s = false → t.epochChange.isSome) ∧
        ({ name := "TrayLost", subject := n, http := 0 } : RfMsg) ∈ (rcOf t rack).msgs))

/-- The epoch change of the span. Without one its commands change nothing. A step gives way to the next once every element that
takes part has done it, and the last step completes the change: the epoch is the new one, and EpochChangeDone is reported (R393,
R394). Elements that have not opened, or not switched, are asked again. A step before the switch that times out aborts the
change, which leaves the epoch and every element as they were (R394). A change that waited for a lost rack controller starts
once it is back (R21). ROUTE_EPOCH and WEIR_EPOCH take a write but those that R167 refuses. Completes: EPOCH_STEP_DONE,
EPOCH_OPEN_RETRY, EPOCH_SWITCH_RETRY, EPOCH_STEP_TIMEOUT, ROUTE_EPOCH_WRITE, WEIR_EPOCH_WRITE. -/
def Obligations.EpochChanges : Prop :=
  ((∀ (s : State), s.epochChange = none →
      (s.waits = [] ∨ controllersLost s = true → exec Instr.epochStepDone s = .next s) ∧
      (s.waits ≠ [] → controllersLost s = false → ∃ t, exec Instr.epochStepDone s = .next t ∧ t.epochChange.isSome ∧ t.epoch = s.epoch) ∧
      exec Instr.epochOpenRetry s = .next s ∧ exec Instr.epochSwitchRetry s = .next s ∧
      exec Instr.epochStepTimeout s = .next s) ∧
    (∀ (s : State) (c : EpochChange), s.epochChange = some c →
      (1 ≤ c.step → c.step ≤ 4 → stepDone s c = true →
        ∃ t d, exec Instr.epochStepDone s = .next t ∧ t.epochChange = some d ∧ d.step = c.step + 1 ∧ d.n = c.n ∧
          d.members = c.members ∧ d.edits = c.edits ∧ d.after = c.after ∧ t.epoch = s.epoch) ∧
      (1 ≤ c.step → c.step ≤ 4 → stepDone s c = false → exec Instr.epochStepDone s = .next s) ∧
      (c.step = 5 → (∀ x ∈ c.members, x ∈ c.done) →
        ∃ t, exec Instr.epochStepDone s = .next t ∧ t.epoch = c.n ∧
          ({ name := "EpochChangeDone", subject := c.n, http := 0 } : RfMsg) ∈ (rcOf t 0).msgs) ∧
      (c.step = 1 → exec Instr.epochOpenRetry s = .next (runStep s)) ∧
      (c.step ≠ 1 → exec Instr.epochOpenRetry s = .next s) ∧
      (c.step = 4 → exec Instr.epochSwitchRetry s = .next (runStep s)) ∧
      (c.step ≠ 4 → exec Instr.epochSwitchRetry s = .next s) ∧
      (1 ≤ c.step → c.step ≤ 3 → stepDone s c = false → s.waits = [] →
        ∃ t, exec Instr.epochStepTimeout s = .next t ∧ t.epochChange = none ∧ t.epoch = s.epoch ∧ t.pkgs = s.pkgs ∧ t.weirs = s.weirs ∧
          ({ name := "EpochChangeFailed", subject := c.n, http := 0 } : RfMsg) ∈ (rcOf t 0).msgs) ∧
      (c.step = 0 ∨ 3 < c.step ∨ stepDone s c = true → exec Instr.epochStepTimeout s = .next s))) ∧
  (let refused := fun (old v : Nat) (inflight : Nat → Nat) =>
      (∃ e < 2, bitOf v (1 + e) = true ∧ bitOf old (1 + e) = false ∧ (old % 2 = e ∨ inflight e ≠ 0)) ∨
        v % 2 ≠ old % 2 ∧ bitOf old (1 + v % 2) = true;
    (∀ (s : State) (k : Nat) (src : Src) (v : Nat), v < 2 ^ 32 →
      let p := pkgOf s k
      let a := routePage + Off.ROUTE_EPOCH
      let inflight := fun e => p.rdF (routePage + Off.EPOCH_INFLIGHT + 4 * e) 15 0
      p.base.isWeir = false → Safety.reaches s k src a .route0 = true →
      (refused (p.rd a) v inflight → exec (.routeEpochWrite k src v) s = .next (Safety.refused s k src a v 5)) ∧
      (¬ refused (p.rd a) v inflight → v % 2 = p.rd a % 2 →
        exec (.routeEpochWrite k src v) s = .next (Safety.written s k a (p.wr a (v % 8)))) ∧
      (¬ refused (p.rd a) v inflight → ∃ t, exec (.routeEpochWrite k src v) s = .next t ∧ (pkgOf t k).rd a = v % 8)) ∧
    (∀ (s : State) (w v : Nat), v < 2 ^ 32 → (weirOf s w).base.isWeir = true →
      let x := weirOf s w
      let inflight := fun e => rdF x.base (0x10004 + 4 * e) 15 0
      (refused (x.rd 0x10000) v inflight → exec (.weirEpochWrite w v) s = .next (setWeir s w x)) ∧
      (¬ refused (x.rd 0x10000) v inflight → exec (.weirEpochWrite w v) s = .next (setWeir s w (x.wr 0x10000 (v % 8))))))

/-- Attestation and the return seal. AttestWiring that is refused changes nothing but its answer; accepted, the tray counts as attested and a code
is answered (R389, R455). AttestSpan makes the racks named the span and asks for the change that follows (R457); racks
that may not be one are separate machines: they leave the span and their up-ports are disabled (R4). ReturnSeal that is accepted starts the seal through the CS window
(R460); SEAL_CTL acts only for that window (R461): GO starts it from STATE 0, the bundle is stored with the tray controller in STATE 3, and the burn writes the count, the time and STATE 5. Offsets latch the bundle's bytes, and
RING_SEL its source's own record (R442, R461). Completes: ATTEST_WIRING, ATTEST_SPAN, RETURN_SEAL, SEAL_GO, SEAL_BURN,
SEAL_OFFSET_WRITE, RING_SEL_WRITE, SEAL_BUNDLE_READY. -/
def Obligations.AttestationAndSeal : Prop :=
  (∀ (s : State) (rack ports : Nat) (tray : Tray), let code := attestAnswer s rack tray ports
    (code ≠ 200 → exec (.attestWiring rack tray ports) s = .next (rcAnswer s rack "AttestWiring" (trayNo tray) code)) ∧
    (code = 200 → ∃ t n, exec (.attestWiring rack tray ports) s = .next t ∧ trayNo tray ∈ (rcOf t rack).attested ∧
      ({ name := "AttestWiring", subject := Config.attestCode n % 1000000, http := 200 } : RfMsg) ∈ (rcOf t rack).msgs)) ∧
  (∀ (s : State) (coords : List (Nat × Nat)),
    (changing s = true ∨ removing s = true ∨ controllersLost s = true →
      exec (.attestSpan coords) s = .next (rcAnswer s 0 "AttestSpan" coords.length 409)) ∧
    (changing s = false → removing s = false → controllersLost s = false → spanOk s coords = false →
      ∃ t, exec (.attestSpan coords) s = .next t ∧ (∀ r, r ∈ t.spanRacks → r ∈ s.spanRacks ∨ r = 0) ∧
        (∀ r, r ≠ 0 → r ∈ spanOf coords → r ∉ t.spanRacks) ∧
        (∀ k, k ∈ s.weirs.map Prod.fst → k / 18 ∈ spanOf coords → hubRuns (weirOf s k).base = true →
          ∀ i < 8, ((weirOf t k).base.port (64 + i)).weirEnable = false) ∧
        ({ name := "AttestSpan", subject := coords.length, http := 409 } : RfMsg) ∈ (rcOf t 0).msgs) ∧
    (changing s = false → removing s = false → controllersLost s = false → spanOk s coords = true → ∃ t, exec (.attestSpan coords) s = .next t ∧
      t.spanRacks = (List.range 16).filter (fun r => (spanOf coords).contains r) ∧ t.epochChange.isSome ∧
      ({ name := "AttestSpan", subject := coords.length, http := 200 } : RfMsg) ∈ (rcOf t 0).msgs)) ∧
  (∀ (s : State) (rack slot reason ref : Nat), let code := sealAnswer s rack slot reason ref
    (code ≠ 200 → exec (.returnSeal rack slot reason ref) s = .next (rcAnswer s rack "ReturnSeal" slot code)) ∧
    (code = 200 → exec (.returnSeal rack slot reason ref) s =
      .next (tcWrite (rcAnswer s rack "ReturnSeal" slot 200) (rack * 64 + slot) (hubPage 4 + Off.SEAL_CTL)
        (1 + reason * 2 ^ 8 + ref * 2 ^ 16)))) ∧
  (∀ (s : State) (p : Nat) (src : Src) (v : Nat), v < 2 ^ 32 → let x := pkgOf s p
    let ctl := hubPage 4 + Off.SEAL_CTL
    let stat := hubPage 4 + Off.SEAL_STAT
    (Safety.reaches s p src ctl .hubSeal = true →
      (src ≠ .cs → exec (.sealGo p src v) s = .next (Safety.written s p ctl x)) ∧
      (src = .cs → bitOf v 0 = true → sealState x = 0 →
        ∃ t, exec (.sealGo p src v) s = .next t ∧ (pkgOf t p).rdF stat 2 0 = 1 ∧ (pkgOf t p).hub.nextSid ≠ x.hub.nextSid) ∧
      (src = .cs → bitOf v 1 = true → sealState x = 3 →
        ∃ t, exec (.sealBurn p src v) s = .next t ∧ (pkgOf t p).rdF stat 2 0 = 5 ∧
          (pkgOf t p).rdF (pg 3 1 + Off.ID_FLAGS) 3 0 = x.rdF (pg 3 1 + Off.ID_FLAGS) 3 0 * 2 % 16 + 1 ∧
          (pkgOf t p).rd (pg 3 1 + Off.SEAL_TIME) = x.base.gtime / 1000000000 % 2 ^ 32 ∧ (pkgOf t p).mem = x.mem)) ∧
    (Safety.reaches s p src (hubPage 4 + Off.SEAL_OFFSET) .hubSeal = true →
      ∃ t, exec (.sealOffsetWrite p src v) s = .next t ∧
        ∀ i < 8, (pkgOf t p).rd (hubPage 4 + Off.SEAL_DATA + 4 * i) =
          fieldAt x.sealed.bundle (fld v 19 5 * 32 + 4 * i) 4 % 2 ^ 32) ∧
    (Safety.reaches s p src (hubPage 3 + Off.RING_SEL) .hubRing = true →
      ∃ t, exec (.ringSelWrite p src v) s = .next t ∧ mget 0 (pkgOf t p).hub.ringSel (copyOf src) = v ∧
        mget [] (pkgOf t p).hub.ringLatch (copyOf src) = ringRecordOf x v ∧ (pkgOf t p).hub.ring = x.hub.ring)) ∧
  (∀ (s : State) (p : Nat), let x := pkgOf s p
    (sealState x ≠ 2 → exec (.sealBundleReady p) s = .next s) ∧
    (sealState x = 2 → ∃ t, exec (.sealBundleReady p) s = .next t ∧ (pkgOf t p).rdF (hubPage 4 + Off.SEAL_STAT) 2 0 = 3 ∧
      (pkgOf t p).sealed.bundle = sealBundle x ∧
      mget [] (tcOf t (tcOfElem (.pkg p)).1).bundles (tcOfElem (.pkg p)).2 = sealBundle x))

/-! ## What is sent is what is read -/

/-- What is sent is what is read. The parser of an ingress gives back every packet whose values its header fields hold, at a Weir of its
plane and at the package it is for (R171–R177). A frame is 640 bytes whose CRC agrees, and its header shows its SEQ, ACK, VC, TYPE,
credits and FIRST_OFF (R184). The descrambler undoes the scrambler, whatever the 58 bits before (R183). The counter-mode decryption of
an image undoes itself, byte by byte (R375). -/
def Obligations.WireForms : Prop :=
  (∀ (b : Base) (k : Pkt), Safety.wirePacket k = true →
    (b.isWeir = true → k.plane = b.pos) → (b.isWeir = false → k.destRack = b.rack ∧ k.destSlot = b.pos) →
    parsePacket b (pktLen k) (pktBytes k) = .ok k) ∧
  (∀ (seq ack : Nat) (ackValid : Bool) (vc type credVc credits first : Nat) (data : Bytes),
    seq < 256 → ack < 256 → vc < 8 → type < 16 → credVc < 8 → credits < 2 ^ 16 → first < 1024 → data.length ≤ 624 →
    let f := frameBytes seq ack ackValid vc type credVc credits first data
    f.length = 640 ∧ (∀ framing errors : Nat, frameOk { bytes := f, framing := framing, errors := errors } = true) ∧
      byteAt f 0 = seq ∧ byteAt f 1 = ack ∧ bitOf (byteAt f 2) 0 = ackValid ∧ fld (byteAt f 2) 3 1 = vc ∧
      fld (byteAt f 2) 7 4 = type ∧ fld (byteAt f 3) 2 0 = credVc ∧ fieldAt f 4 2 = credits ∧ fieldAt f 6 2 = first ∧
      (f.drop 16).take data.length = data) ∧
  (∀ (l : List Bool) (r : Nat), descramble r (scramble r l) = l) ∧
  (∀ (key : List Nat) (nonce : Bytes) (x : Nat) (b : Byte), ctrByte key nonce x (ctrByte key nonce x b) = b)
end

