-- ==== Sys2Proof/Laws/Maps.lean ====
section
/-! SUPPORT. Laws of maps and of memory: reading after writing, and the canonical forms every operation keeps. -/

namespace Sys2Proof.Machine

variable {α : Type}

/-! ## Maps -/

@[simp] theorem mfind_nil (k : Nat) : mfind (α := α) k [] = none := rfl

theorem mfind_cons (k j : Nat) (v : α) (m : SMap α) : mfind k ((j, v) :: m) = if j = k then some v else mfind k m := rfl

@[simp] theorem mfind_mset_self (m : SMap α) (k : Nat) (v : α) : mfind k (mset m k v) = some v := by
  induction m with
  | nil => simp [mset, mfind]
  | cons e m ih =>
    obtain ⟨j, u⟩ := e
    simp only [mset]
    split
    · simp [mfind]
    · split
      · simp [mfind]
      · rw [mfind_cons, if_neg (by omega)]; exact ih

theorem mfind_mset_ne (m : SMap α) {k j : Nat} (v : α) (h : j ≠ k) : mfind j (mset m k v) = mfind j m := by
  induction m with
  | nil => simp [mset, mfind, Ne.symm h]
  | cons e m ih =>
    obtain ⟨i, u⟩ := e
    simp only [mset]
    split
    · rw [mfind_cons, if_neg (Ne.symm h)]
    · split
      · rename_i h2
        subst h2
        rw [mfind_cons, mfind_cons, if_neg (Ne.symm h), if_neg (Ne.symm h)]
      · rw [mfind_cons, mfind_cons, ih]

@[simp] theorem mget_mset_self (d : α) (m : SMap α) (k : Nat) (v : α) : mget d (mset m k v) k = v := by simp [mget]

theorem mget_mset_ne (d : α) (m : SMap α) {k j : Nat} (v : α) (h : j ≠ k) : mget d (mset m k v) j = mget d m j := by
  simp [mget, mfind_mset_ne m v h]

/-- What a map that begins with key `j` needs to rise. -/
theorem keysRise_cons (j : Nat) (v : α) (m : SMap α) :
    keysRise ((j, v) :: m) = true ↔ (∀ e ∈ m, j < e.1) ∧ keysRise m = true := by
  induction m generalizing j v with
  | nil => simp [keysRise]
  | cons e m ih =>
    obtain ⟨k, u⟩ := e
    constructor
    · intro h
      simp only [keysRise, Bool.and_eq_true, decide_eq_true_eq] at h
      refine ⟨?_, h.2⟩
      intro e he
      rcases List.mem_cons.mp he with rfl | he
      · exact h.1
      · exact Nat.lt_trans h.1 (((ih k u).mp h.2).1 e he)
    · intro h
      simp only [keysRise, Bool.and_eq_true, decide_eq_true_eq]
      exact ⟨h.1 (k, u) List.mem_cons_self, h.2⟩

theorem mem_mset {m : SMap α} {k : Nat} {v : α} {e : Nat × α} (h : e ∈ mset m k v) : e = (k, v) ∨ e ∈ m := by
  induction m with
  | nil => exact .inl (by simpa [mset] using h)
  | cons x m ih =>
    obtain ⟨j, u⟩ := x
    simp only [mset] at h
    split at h
    · rcases List.mem_cons.mp h with rfl | h
      · exact .inl rfl
      · exact .inr h
    · split at h
      · rcases List.mem_cons.mp h with rfl | h
        · exact .inl rfl
        · exact .inr (List.mem_cons_of_mem _ h)
      · rcases List.mem_cons.mp h with rfl | h
        · exact .inr List.mem_cons_self
        · rcases ih h with h | h
          · exact .inl h
          · exact .inr (List.mem_cons_of_mem _ h)

/-- Setting a key keeps the rising order. -/
theorem keysRise_mset {m : SMap α} (k : Nat) (v : α) (h : keysRise m = true) : keysRise (mset m k v) = true := by
  induction m with
  | nil => rfl
  | cons x m ih =>
    obtain ⟨j, u⟩ := x
    obtain ⟨h1, h2⟩ := (keysRise_cons j u m).mp h
    simp only [mset]
    split
    · rename_i hk
      refine (keysRise_cons _ _ _).mpr ⟨?_, h⟩
      intro e he
      rcases List.mem_cons.mp he with rfl | he
      · exact hk
      · exact Nat.lt_trans hk (h1 e he)
    · split
      · rename_i hk
        subst hk
        exact (keysRise_cons _ _ _).mpr ⟨h1, h2⟩
      · rename_i h3 h4
        refine (keysRise_cons _ _ _).mpr ⟨?_, ih h2⟩
        intro e he
        rcases mem_mset he with rfl | he
        · simp only; omega
        · exact h1 e he

/-- Taking entries away keeps the rising order. -/
theorem keysRise_filter {m : SMap α} (p : Nat × α → Bool) (h : keysRise m = true) : keysRise (m.filter p) = true := by
  induction m with
  | nil => rfl
  | cons x m ih =>
    obtain ⟨j, u⟩ := x
    obtain ⟨h1, h2⟩ := (keysRise_cons j u m).mp h
    rw [List.filter_cons]
    split
    · exact (keysRise_cons _ _ _).mpr ⟨fun e he => h1 e (List.mem_filter.mp he).1, ih h2⟩
    · exact ih h2

/-- Changing values keeps the rising order. -/
theorem keysRise_mapSnd {β : Type} (f : α → β) (m : SMap α) :
    keysRise (m.map fun e => (e.1, f e.2)) = keysRise m := by
  induction m with
  | nil => rfl
  | cons x m ih =>
    cases m with
    | nil => rfl
    | cons y m => simp only [List.map_cons, keysRise] at ih ⊢; rw [ih]

theorem mem_of_mfind {m : SMap α} {k : Nat} {v : α} (h : mfind k m = some v) : (k, v) ∈ m := by
  induction m with
  | nil => simp at h
  | cons x m ih =>
    obtain ⟨j, u⟩ := x
    rw [mfind_cons] at h
    split at h
    · rename_i hk
      cases h
      subst hk
      exact List.mem_cons_self
    · exact List.mem_cons_of_mem _ (ih h)

theorem mfind_filter (m : SMap α) (p : Nat → Bool) (k : Nat) :
    mfind k (m.filter fun e => p e.1) = if p k then mfind k m else none := by
  induction m with
  | nil => simp
  | cons x m ih =>
    obtain ⟨j, u⟩ := x
    rw [List.filter_cons]
    by_cases hj : p j = true
    · simp only [hj, if_true, mfind_cons, ih]
      by_cases hk : j = k
      · subst hk; simp [hj]
      · simp [hk]
    · rw [if_neg hj, mfind_cons, ih]
      by_cases hk : j = k
      · subst hk; simp [hj]
      · simp [hk]

/-! ## Memory -/

/-- A byte reads as it was written, and every other byte as before. -/
theorem memByte_memSet (m : Memory) (a : Nat) (b : Byte) (c : Nat) :
    memByte (memSet m a b) c = if c = a then b else memByte m c := by
  unfold memSet memByte
  by_cases hb : b = 0
  · simp only [hb, if_true, mdel]
    have := mfind_filter m (fun k => decide (k ≠ a)) c
    rw [this]
    by_cases hc : c = a <;> simp [hc]
  · simp only [hb, if_false]
    by_cases hc : c = a
    · subst hc; simp
    · simp [hc, mfind_mset_ne m b hc]

theorem memWf_iff (m : Memory) : memWf m = true ↔ keysRise m = true ∧ ∀ c ∈ m, c.2 ≠ 0 := by
  simp [memWf]

/-- Writing a byte keeps the canonical form. -/
theorem memWf_memSet {m : Memory} (a : Nat) (b : Byte) (h : memWf m = true) : memWf (memSet m a b) = true := by
  obtain ⟨h1, h2⟩ := (memWf_iff m).mp h
  unfold memSet
  split
  · exact (memWf_iff _).mpr ⟨keysRise_filter _ h1, fun c hc => h2 c (List.mem_filter.mp hc).1⟩
  · rename_i hb
    refine (memWf_iff _).mpr ⟨keysRise_mset _ _ h1, fun c hc => ?_⟩
    rcases mem_mset hc with rfl | hc
    · exact hb
    · exact h2 c hc

/-- Zeroing a range keeps the canonical form. -/
theorem memWf_memZero {m : Memory} (a n : Nat) (h : memWf m = true) : memWf (memZero m a n) = true := by
  obtain ⟨h1, h2⟩ := (memWf_iff m).mp h
  exact (memWf_iff _).mpr ⟨keysRise_filter _ h1, fun c hc => h2 c (List.mem_filter.mp hc).1⟩

/-- A zeroed range reads zero, and every other byte as before. -/
theorem memByte_memZero (m : Memory) (a n c : Nat) :
    memByte (memZero m a n) c = if a ≤ c ∧ c < a + n then 0 else memByte m c := by
  unfold memByte memZero
  rw [mfind_filter m (fun k => decide (k < a ∨ a + n ≤ k)) c]
  by_cases h : a ≤ c ∧ c < a + n
  · rw [if_pos h, if_neg (by simp; omega)]; rfl
  · rw [if_neg h, if_pos (by simp; omega)]

/-- Writing bytes keeps the canonical form. -/
theorem memWf_memWrite {m : Memory} (a : Nat) (b : Bytes) (h : memWf m = true) : memWf (memWrite m a b) = true := by
  induction b generalizing m a with
  | nil => exact h
  | cons x xs ih => exact ih (a + 1) (memWf_memSet a x h)

/-- Bytes read as they were written, and every other byte as before. -/
theorem memByte_memWrite (m : Memory) (a : Nat) (b : Bytes) (c : Nat) :
    memByte (memWrite m a b) c = if a ≤ c ∧ c < a + b.length then (b[c - a]?).getD 0 else memByte m c := by
  induction b generalizing m a with
  | nil => rw [if_neg (by simp)]; rfl
  | cons x xs ih =>
    simp only [memWrite, ih, memByte_memSet, List.length_cons]
    by_cases h1 : a + 1 ≤ c ∧ c < a + 1 + xs.length
    · rw [if_pos h1, if_pos (by omega), show c - a = (c - (a + 1)) + 1 by omega, List.getElem?_cons_succ]
    · rw [if_neg h1]
      by_cases h2 : c = a
      · subst h2
        rw [if_pos rfl, if_pos (by omega)]; simp
      · rw [if_neg h2, if_neg (by omega)]

end Sys2Proof.Machine
end

