-- ==== Sys2Proof/Laws/State.lean ====
section
/-! SUPPORT. Laws of the state: what each update of one element leaves alone, and reading a register after writing it. -/

namespace Sys2Proof.Machine

/-! ## Elements of the span -/

@[simp] theorem setPkg_pkgs (s : State) (k : Nat) (x : Package) : (setPkg s k x).pkgs = mset s.pkgs k x := rfl
@[simp] theorem setPkg_weirs (s : State) (k : Nat) (x : Package) : (setPkg s k x).weirs = s.weirs := rfl
@[simp] theorem setPkg_tcs (s : State) (k : Nat) (x : Package) : (setPkg s k x).tcs = s.tcs := rfl
@[simp] theorem setPkg_rcs (s : State) (k : Nat) (x : Package) : (setPkg s k x).rcs = s.rcs := rfl
@[simp] theorem setPkg_epochChange (s : State) (k : Nat) (x : Package) : (setPkg s k x).epochChange = s.epochChange := rfl
@[simp] theorem setPkg_waits (s : State) (k : Nat) (x : Package) : (setPkg s k x).waits = s.waits := rfl
@[simp] theorem setPkg_epoch (s : State) (k : Nat) (x : Package) : (setPkg s k x).epoch = s.epoch := rfl
@[simp] theorem setPkg_table (s : State) (k : Nat) (x : Package) : (setPkg s k x).table = s.table := rfl
@[simp] theorem setPkg_spanRacks (s : State) (k : Nat) (x : Package) : (setPkg s k x).spanRacks = s.spanRacks := rfl
@[simp] theorem setPkg_free (s : State) (k : Nat) (x : Package) : (setPkg s k x).free = s.free := rfl
@[simp] theorem setPkg_pending (s : State) (k : Nat) (x : Package) : (setPkg s k x).pending = s.pending := rfl
@[simp] theorem pkgOf_setPkg_self (s : State) (k : Nat) (x : Package) : pkgOf (setPkg s k x) k = x := by simp [pkgOf, setPkg]
theorem pkgOf_setPkg_ne (s : State) {k j : Nat} (x : Package) (h : j ≠ k) : pkgOf (setPkg s k x) j = pkgOf s j := by
  simp [pkgOf, setPkg, mget_mset_ne _ _ _ h]
@[simp] theorem weirOf_setPkg (s : State) (k j : Nat) (x : Package) : weirOf (setPkg s k x) j = weirOf s j := rfl
@[simp] theorem tcOf_setPkg (s : State) (k j : Nat) (x : Package) : tcOf (setPkg s k x) j = tcOf s j := rfl
@[simp] theorem rcOf_setPkg (s : State) (k j : Nat) (x : Package) : rcOf (setPkg s k x) j = rcOf s j := rfl
@[simp] theorem setWeir_pkgs (s : State) (k : Nat) (x : Weir) : (setWeir s k x).pkgs = s.pkgs := rfl
@[simp] theorem setWeir_weirs (s : State) (k : Nat) (x : Weir) : (setWeir s k x).weirs = mset s.weirs k x := rfl
@[simp] theorem setWeir_tcs (s : State) (k : Nat) (x : Weir) : (setWeir s k x).tcs = s.tcs := rfl
@[simp] theorem setWeir_rcs (s : State) (k : Nat) (x : Weir) : (setWeir s k x).rcs = s.rcs := rfl
@[simp] theorem setWeir_epochChange (s : State) (k : Nat) (x : Weir) : (setWeir s k x).epochChange = s.epochChange := rfl
@[simp] theorem setWeir_waits (s : State) (k : Nat) (x : Weir) : (setWeir s k x).waits = s.waits := rfl
@[simp] theorem setWeir_epoch (s : State) (k : Nat) (x : Weir) : (setWeir s k x).epoch = s.epoch := rfl
@[simp] theorem setWeir_table (s : State) (k : Nat) (x : Weir) : (setWeir s k x).table = s.table := rfl
@[simp] theorem setWeir_spanRacks (s : State) (k : Nat) (x : Weir) : (setWeir s k x).spanRacks = s.spanRacks := rfl
@[simp] theorem setWeir_free (s : State) (k : Nat) (x : Weir) : (setWeir s k x).free = s.free := rfl
@[simp] theorem setWeir_pending (s : State) (k : Nat) (x : Weir) : (setWeir s k x).pending = s.pending := rfl
@[simp] theorem pkgOf_setWeir (s : State) (k j : Nat) (x : Weir) : pkgOf (setWeir s k x) j = pkgOf s j := rfl
@[simp] theorem weirOf_setWeir_self (s : State) (k : Nat) (x : Weir) : weirOf (setWeir s k x) k = x := by simp [weirOf, setWeir]
theorem weirOf_setWeir_ne (s : State) {k j : Nat} (x : Weir) (h : j ≠ k) : weirOf (setWeir s k x) j = weirOf s j := by
  simp [weirOf, setWeir, mget_mset_ne _ _ _ h]
@[simp] theorem tcOf_setWeir (s : State) (k j : Nat) (x : Weir) : tcOf (setWeir s k x) j = tcOf s j := rfl
@[simp] theorem rcOf_setWeir (s : State) (k j : Nat) (x : Weir) : rcOf (setWeir s k x) j = rcOf s j := rfl
@[simp] theorem setTc_pkgs (s : State) (k : Nat) (x : TrayCtl) : (setTc s k x).pkgs = s.pkgs := rfl
@[simp] theorem setTc_weirs (s : State) (k : Nat) (x : TrayCtl) : (setTc s k x).weirs = s.weirs := rfl
@[simp] theorem setTc_tcs (s : State) (k : Nat) (x : TrayCtl) : (setTc s k x).tcs = mset s.tcs k x := rfl
@[simp] theorem setTc_rcs (s : State) (k : Nat) (x : TrayCtl) : (setTc s k x).rcs = s.rcs := rfl
@[simp] theorem setTc_epochChange (s : State) (k : Nat) (x : TrayCtl) : (setTc s k x).epochChange = s.epochChange := rfl
@[simp] theorem setTc_waits (s : State) (k : Nat) (x : TrayCtl) : (setTc s k x).waits = s.waits := rfl
@[simp] theorem setTc_epoch (s : State) (k : Nat) (x : TrayCtl) : (setTc s k x).epoch = s.epoch := rfl
@[simp] theorem setTc_table (s : State) (k : Nat) (x : TrayCtl) : (setTc s k x).table = s.table := rfl
@[simp] theorem setTc_spanRacks (s : State) (k : Nat) (x : TrayCtl) : (setTc s k x).spanRacks = s.spanRacks := rfl
@[simp] theorem setTc_free (s : State) (k : Nat) (x : TrayCtl) : (setTc s k x).free = s.free := rfl
@[simp] theorem setTc_pending (s : State) (k : Nat) (x : TrayCtl) : (setTc s k x).pending = s.pending := rfl
@[simp] theorem pkgOf_setTc (s : State) (k j : Nat) (x : TrayCtl) : pkgOf (setTc s k x) j = pkgOf s j := rfl
@[simp] theorem weirOf_setTc (s : State) (k j : Nat) (x : TrayCtl) : weirOf (setTc s k x) j = weirOf s j := rfl
@[simp] theorem tcOf_setTc_self (s : State) (k : Nat) (x : TrayCtl) : tcOf (setTc s k x) k = x := by simp [tcOf, setTc]
theorem tcOf_setTc_ne (s : State) {k j : Nat} (x : TrayCtl) (h : j ≠ k) : tcOf (setTc s k x) j = tcOf s j := by
  simp [tcOf, setTc, mget_mset_ne _ _ _ h]
@[simp] theorem rcOf_setTc (s : State) (k j : Nat) (x : TrayCtl) : rcOf (setTc s k x) j = rcOf s j := rfl
@[simp] theorem setRc_pkgs (s : State) (k : Nat) (x : RackCtl) : (setRc s k x).pkgs = s.pkgs := rfl
@[simp] theorem setRc_weirs (s : State) (k : Nat) (x : RackCtl) : (setRc s k x).weirs = s.weirs := rfl
@[simp] theorem setRc_tcs (s : State) (k : Nat) (x : RackCtl) : (setRc s k x).tcs = s.tcs := rfl
@[simp] theorem setRc_rcs (s : State) (k : Nat) (x : RackCtl) : (setRc s k x).rcs = mset s.rcs k x := rfl
@[simp] theorem setRc_epochChange (s : State) (k : Nat) (x : RackCtl) : (setRc s k x).epochChange = s.epochChange := rfl
@[simp] theorem setRc_waits (s : State) (k : Nat) (x : RackCtl) : (setRc s k x).waits = s.waits := rfl
@[simp] theorem setRc_epoch (s : State) (k : Nat) (x : RackCtl) : (setRc s k x).epoch = s.epoch := rfl
@[simp] theorem setRc_table (s : State) (k : Nat) (x : RackCtl) : (setRc s k x).table = s.table := rfl
@[simp] theorem setRc_spanRacks (s : State) (k : Nat) (x : RackCtl) : (setRc s k x).spanRacks = s.spanRacks := rfl
@[simp] theorem setRc_free (s : State) (k : Nat) (x : RackCtl) : (setRc s k x).free = s.free := rfl
@[simp] theorem setRc_pending (s : State) (k : Nat) (x : RackCtl) : (setRc s k x).pending = s.pending := rfl
@[simp] theorem pkgOf_setRc (s : State) (k j : Nat) (x : RackCtl) : pkgOf (setRc s k x) j = pkgOf s j := rfl
@[simp] theorem weirOf_setRc (s : State) (k j : Nat) (x : RackCtl) : weirOf (setRc s k x) j = weirOf s j := rfl
@[simp] theorem tcOf_setRc (s : State) (k j : Nat) (x : RackCtl) : tcOf (setRc s k x) j = tcOf s j := rfl
@[simp] theorem rcOf_setRc_self (s : State) (k : Nat) (x : RackCtl) : rcOf (setRc s k x) k = x := by simp [rcOf, setRc]
theorem rcOf_setRc_ne (s : State) {k j : Nat} (x : RackCtl) (h : j ≠ k) : rcOf (setRc s k x) j = rcOf s j := by
  simp [rcOf, setRc, mget_mset_ne _ _ _ h]
@[simp] theorem pkgOf_free (s : State) (n k : Nat) : pkgOf { s with free := n } k = pkgOf s k := rfl
@[simp] theorem pkgOf_pending (s : State) (l : List Instr) (k : Nat) : pkgOf { s with pending := l } k = pkgOf s k := rfl
@[simp] theorem weirOf_free (s : State) (n k : Nat) : weirOf { s with free := n } k = weirOf s k := rfl
@[simp] theorem weirOf_pending (s : State) (l : List Instr) (k : Nat) : weirOf { s with pending := l } k = weirOf s k := rfl
@[simp] theorem tcOf_free (s : State) (n k : Nat) : tcOf { s with free := n } k = tcOf s k := rfl
@[simp] theorem tcOf_pending (s : State) (l : List Instr) (k : Nat) : tcOf { s with pending := l } k = tcOf s k := rfl
@[simp] theorem rcOf_free (s : State) (n k : Nat) : rcOf { s with free := n } k = rcOf s k := rfl
@[simp] theorem rcOf_pending (s : State) (l : List Instr) (k : Nat) : rcOf { s with pending := l } k = rcOf s k := rfl

/-! ## Fields of a package -/

@[simp] theorem Package.mapBase_mem (p : Package) (f : Base → Base) : (p.mapBase f).mem = p.mem := rfl
@[simp] theorem Package.wr_mem (p : Package) (a v : Nat) : (p.wr a v).mem = p.mem := rfl
@[simp] theorem Package.wrF_mem (p : Package) (a hi lo v : Nat) : (p.wrF a hi lo v).mem = p.mem := rfl
@[simp] theorem Package.count_mem (p : Package) (a : Nat) : (p.count a).mem = p.mem := rfl
@[simp] theorem Package.mapBase_dies (p : Package) (f : Base → Base) : (p.mapBase f).dies = p.dies := rfl
@[simp] theorem Package.wr_dies (p : Package) (a v : Nat) : (p.wr a v).dies = p.dies := rfl
@[simp] theorem Package.wrF_dies (p : Package) (a hi lo v : Nat) : (p.wrF a hi lo v).dies = p.dies := rfl
@[simp] theorem Package.count_dies (p : Package) (a : Nat) : (p.count a).dies = p.dies := rfl
@[simp] theorem Package.mapBase_tl (p : Package) (f : Base → Base) : (p.mapBase f).tl = p.tl := rfl
@[simp] theorem Package.wr_tl (p : Package) (a v : Nat) : (p.wr a v).tl = p.tl := rfl
@[simp] theorem Package.wrF_tl (p : Package) (a hi lo v : Nat) : (p.wrF a hi lo v).tl = p.tl := rfl
@[simp] theorem Package.count_tl (p : Package) (a : Nat) : (p.count a).tl = p.tl := rfl
@[simp] theorem Package.mapBase_fab (p : Package) (f : Base → Base) : (p.mapBase f).fab = p.fab := rfl
@[simp] theorem Package.wr_fab (p : Package) (a v : Nat) : (p.wr a v).fab = p.fab := rfl
@[simp] theorem Package.wrF_fab (p : Package) (a hi lo v : Nat) : (p.wrF a hi lo v).fab = p.fab := rfl
@[simp] theorem Package.count_fab (p : Package) (a : Nat) : (p.count a).fab = p.fab := rfl
@[simp] theorem Package.mapBase_hub (p : Package) (f : Base → Base) : (p.mapBase f).hub = p.hub := rfl
@[simp] theorem Package.wr_hub (p : Package) (a v : Nat) : (p.wr a v).hub = p.hub := rfl
@[simp] theorem Package.wrF_hub (p : Package) (a hi lo v : Nat) : (p.wrF a hi lo v).hub = p.hub := rfl
@[simp] theorem Package.count_hub (p : Package) (a : Nat) : (p.count a).hub = p.hub := rfl
@[simp] theorem Package.mapBase_host (p : Package) (f : Base → Base) : (p.mapBase f).host = p.host := rfl
@[simp] theorem Package.wr_host (p : Package) (a v : Nat) : (p.wr a v).host = p.host := rfl
@[simp] theorem Package.wrF_host (p : Package) (a hi lo v : Nat) : (p.wrF a hi lo v).host = p.host := rfl
@[simp] theorem Package.count_host (p : Package) (a : Nat) : (p.count a).host = p.host := rfl
@[simp] theorem Package.mapBase_pwr (p : Package) (f : Base → Base) : (p.mapBase f).pwr = p.pwr := rfl
@[simp] theorem Package.wr_pwr (p : Package) (a v : Nat) : (p.wr a v).pwr = p.pwr := rfl
@[simp] theorem Package.wrF_pwr (p : Package) (a hi lo v : Nat) : (p.wrF a hi lo v).pwr = p.pwr := rfl
@[simp] theorem Package.count_pwr (p : Package) (a : Nat) : (p.count a).pwr = p.pwr := rfl
@[simp] theorem Package.mapBase_sealed (p : Package) (f : Base → Base) : (p.mapBase f).sealed = p.sealed := rfl
@[simp] theorem Package.wr_sealed (p : Package) (a v : Nat) : (p.wr a v).sealed = p.sealed := rfl
@[simp] theorem Package.wrF_sealed (p : Package) (a hi lo v : Nat) : (p.wrF a hi lo v).sealed = p.sealed := rfl
@[simp] theorem Package.count_sealed (p : Package) (a : Nat) : (p.count a).sealed = p.sealed := rfl
@[simp] theorem Package.mapBase_base (p : Package) (f : Base → Base) : (p.mapBase f).base = f p.base := rfl
@[simp] theorem Package.wr_base (p : Package) (a v : Nat) : (p.wr a v).base = Machine.wr p.base a v := rfl
@[simp] theorem Package.wrF_base (p : Package) (a hi lo v : Nat) : (p.wrF a hi lo v).base = Machine.wrF p.base a hi lo v := rfl
@[simp] theorem Package.count_base (p : Package) (a : Nat) : (p.count a).base = Machine.count p.base a 1 := rfl

/-! ## Fields of a base -/

@[simp] theorem wr_isWeir (b : Base) (a v : Nat) : (wr b a v).isWeir = b.isWeir := rfl
@[simp] theorem wrF_isWeir (b : Base) (a hi lo v : Nat) : (wrF b a hi lo v).isWeir = b.isWeir := rfl
@[simp] theorem wr_rack (b : Base) (a v : Nat) : (wr b a v).rack = b.rack := rfl
@[simp] theorem wrF_rack (b : Base) (a hi lo v : Nat) : (wrF b a hi lo v).rack = b.rack := rfl
@[simp] theorem wr_pos (b : Base) (a v : Nat) : (wr b a v).pos = b.pos := rfl
@[simp] theorem wrF_pos (b : Base) (a hi lo v : Nat) : (wrF b a hi lo v).pos = b.pos := rfl
@[simp] theorem wr_serial (b : Base) (a v : Nat) : (wr b a v).serial = b.serial := rfl
@[simp] theorem wrF_serial (b : Base) (a hi lo v : Nat) : (wrF b a hi lo v).serial = b.serial := rfl
@[simp] theorem wr_shapeW (b : Base) (a v : Nat) : (wr b a v).shapeW = b.shapeW := rfl
@[simp] theorem wrF_shapeW (b : Base) (a hi lo v : Nat) : (wrF b a hi lo v).shapeW = b.shapeW := rfl
@[simp] theorem wr_shapeH (b : Base) (a v : Nat) : (wr b a v).shapeH = b.shapeH := rfl
@[simp] theorem wrF_shapeH (b : Base) (a hi lo v : Nat) : (wrF b a hi lo v).shapeH = b.shapeH := rfl
@[simp] theorem wr_pwr (b : Base) (a v : Nat) : (wr b a v).pwr = b.pwr := rfl
@[simp] theorem wrF_pwr (b : Base) (a hi lo v : Nat) : (wrF b a hi lo v).pwr = b.pwr := rfl
@[simp] theorem wr_kin (b : Base) (a v : Nat) : (wr b a v).kin = b.kin := rfl
@[simp] theorem wrF_kin (b : Base) (a hi lo v : Nat) : (wrF b a hi lo v).kin = b.kin := rfl
@[simp] theorem wr_msp (b : Base) (a v : Nat) : (wr b a v).msp = b.msp := rfl
@[simp] theorem wrF_msp (b : Base) (a hi lo v : Nat) : (wrF b a hi lo v).msp = b.msp := rfl
@[simp] theorem wr_time (b : Base) (a v : Nat) : (wr b a v).time = b.time := rfl
@[simp] theorem wrF_time (b : Base) (a hi lo v : Nat) : (wrF b a hi lo v).time = b.time := rfl
@[simp] theorem wr_ports (b : Base) (a v : Nat) : (wr b a v).ports = b.ports := rfl
@[simp] theorem wrF_ports (b : Base) (a hi lo v : Nat) : (wrF b a hi lo v).ports = b.ports := rfl
@[simp] theorem wr_pins (b : Base) (a v : Nat) : (wr b a v).pins = b.pins := rfl
@[simp] theorem wrF_pins (b : Base) (a hi lo v : Nat) : (wrF b a hi lo v).pins = b.pins := rfl

/-! ## Registers -/

/-- A register reads as it was written, modulo 2^32, and every other register as before. -/
theorem rd_wr (b : Base) (a v c : Nat) : rd (wr b a v) c = if c = a then v % 2 ^ 32 else rd b c := by
  unfold rd wr
  by_cases h : c = a
  · subst h; simp [w32]
  · simp [h, mfind_mset_ne b.regs (w32 v) h]

@[simp] theorem rd_wr_self (b : Base) (a v : Nat) : rd (wr b a v) a = v % 2 ^ 32 := by simp [rd_wr]

theorem rd_wr_ne (b : Base) {a c : Nat} (v : Nat) (h : c ≠ a) : rd (wr b a v) c = rd b c := by simp [rd_wr, h]

@[simp] theorem Package.rd_wr_self (p : Package) (a v : Nat) : (p.wr a v).rd a = v % 2 ^ 32 := by simp [Package.rd]

theorem Package.rd_wr_ne (p : Package) {a c : Nat} (v : Nat) (h : c ≠ a) : (p.wr a v).rd c = p.rd c := by
  simp [Package.rd, Machine.rd_wr_ne p.base v h]

/-! ## The tick -/

@[simp] theorem tick_pending (s : State) : (tick s).pending = s.pending := rfl
@[simp] theorem tick_free (s : State) : (tick s).free = s.free := rfl

end Sys2Proof.Machine
end

