-- ==== Sys2Proof/Laws/Control.lean ====
section
/-! SUPPORT. Laws of control space: what a control write that reaches its page answers. -/

namespace Sys2Proof.Machine

theorem pageOf_add (x off : Nat) (h : off < 0x1000) : pageOf (pageOf x + off) = pageOf x := by
  simp only [pageOf]; omega

theorem offOf_add (x off : Nat) (h : off < 0x1000) : offOf (pageOf x + off) = off := by
  simp only [pageOf, offOf]; omega

theorem pageOf_add_offOf (a : Nat) : pageOf a + offOf a = a := by simp only [pageOf, offOf]; omega

/-- What `Safety.reaches` says. -/
theorem reaches_iff (s : State) (k : Nat) (src : Src) (a : Nat) (kd : PKind) :
    Safety.reaches s k src a kd = true ↔
      src ≠ .endpointB ∧ srcReaches src a = true ∧ faultReason (pkgOf s k) a 4 = 0 ∧
      pageKind (pkgOf s k).hubL1 (clsOf a) (instOf a) = some kd ∧ sealedShut (pkgOf s k) = false ∧
      strikingPage (pkgOf s k).base (pageOf a) = false := by
  simp [Safety.reaches, Safety.arrives, and_assoc]

/-- A write that its source may make, and that breaks no rule of R33, is one write of four bytes. -/
theorem csWrite_four (free : Nat) (p : Package) (src : Src) (a v : Nat) (h1 : src ≠ .endpointB) (h2 : srcReaches src a = true)
    (h3 : faultReason p a 4 = 0) : csWrite free p src a 4 v = write4 free p src a (v % 2 ^ 32) := by
  simp [csWrite, h1, h2, h3]

/-- A write of four bytes, once what its page does with it is known. -/
theorem onCtl_of_tryWrite {s : State} {k : Nat} {src : Src} {a v : Nat} {kd : PKind} (h1 : src ≠ .endpointB)
    (h2 : srcReaches src a = true) (h3 : faultReason (pkgOf s k) a 4 = 0)
    (h4 : pageKind (pkgOf s k).hubL1 (clsOf a) (instOf a) = some kd) :
    onCtl k src a 4 v s =
      match tryWrite s.free (pkgOf s k) src (pageOf a) kd (offOf a) (v % 2 ^ 32) with
      | .ok q => .next (Safety.written s k a q)
      | .error r => .next (Safety.refused s k src a (v % 2 ^ 32) r) := by
  unfold onCtl onPkgFree
  simp only [csWrite_four s.free _ src a v h1 h2 h3, write4, h4]
  cases tryWrite s.free (pkgOf s k) src (pageOf a) kd (offOf a) (v % 2 ^ 32) <;>
    simp [Safety.written, Safety.refused]

/-- A control write that reaches its page: taken by the page's own rules, or refused by them. -/
theorem onCtl_of_reaches {s : State} {k : Nat} {src : Src} {a v : Nat} {kd : PKind} (h : Safety.reaches s k src a kd = true) :
    onCtl k src a 4 v s =
      match (if offOf a < 0x80 then headerWrite s.free (pkgOf s k) src (pageOf a) kd (offOf a) (v % 2 ^ 32)
        else blockWrite (pkgOf s k) src (pageOf a) kd (offOf a) (v % 2 ^ 32)) with
      | .ok q => .next (Safety.written s k a q)
      | .error r => .next (Safety.refused s k src a (v % 2 ^ 32) r) := by
  obtain ⟨h1, h2, h3, h4, h6, h7⟩ := (reaches_iff s k src a kd).mp h
  rw [onCtl_of_tryWrite h1 h2 h3 h4]
  simp [tryWrite, h6, h7]

end Sys2Proof.Machine
end

