-- ==== Sys2Proof/Laws/Events.lean ====
section
/-! SUPPORT. Laws of events: an event of a page, with its capture, its record and everything the record reaches, changes
registers, the hub's ring, the host's messages and the pins, and no memory, no tile, no fabric and no power state. -/

namespace Sys2Proof.Machine

/-- Two packages have the same memory, tiles, fabric interface, die links, power state and seal. -/
def SameWork (p q : Package) : Prop :=
  q.mem = p.mem ∧ q.tl = p.tl ∧ q.fab = p.fab ∧ q.dies = p.dies ∧ q.pwr = p.pwr ∧ q.sealed = p.sealed

theorem SameWork.refl (p : Package) : SameWork p p := ⟨rfl, rfl, rfl, rfl, rfl, rfl⟩

theorem SameWork.trans {p q r : Package} (h : SameWork p q) (g : SameWork q r) : SameWork p r := by
  obtain ⟨a, b, c, d, e, f⟩ := h
  obtain ⟨a', b', c', d', e', f'⟩ := g
  exact ⟨a'.trans a, b'.trans b, c'.trans c, d'.trans d, e'.trans e, f'.trans f⟩

theorem sameWork_mapBase (p : Package) (f : Base → Base) : SameWork p (p.mapBase f) := ⟨rfl, rfl, rfl, rfl, rfl, rfl⟩
theorem sameWork_wr (p : Package) (a v : Nat) : SameWork p (p.wr a v) := ⟨rfl, rfl, rfl, rfl, rfl, rfl⟩
theorem sameWork_wrF (p : Package) (a hi lo v : Nat) : SameWork p (p.wrF a hi lo v) := ⟨rfl, rfl, rfl, rfl, rfl, rfl⟩
theorem sameWork_setVf (p : Package) (v : Nat) (x : Vf) : SameWork p (p.setVf v x) := ⟨rfl, rfl, rfl, rfl, rfl, rfl⟩

theorem sameWork_hostWrite (p : Package) (fn addr : Nat) (data : Bytes) : SameWork p (hostWrite p fn addr data) := by
  unfold hostWrite; split <;> exact ⟨rfl, rfl, rfl, rfl, rfl, rfl⟩

theorem sameWork_hostMsix (p : Package) (fn vec : Nat) : SameWork p (hostMsix p fn vec) := by
  unfold hostMsix; split <;> exact ⟨rfl, rfl, rfl, rfl, rfl, rfl⟩

theorem sameWork_ringAppend (p : Package) (type sev page : Nat) (b : Bytes) :
    SameWork p (ringAppend p type sev page b).1 := by
  unfold ringAppend
  simp only
  repeat' split
  all_goals exact ⟨rfl, rfl, rfl, rfl, rfl, rfl⟩

theorem sameWork_writeShadow (p : Package) (v : Nat) : SameWork p (writeShadow p v) := by
  unfold writeShadow
  simp only
  split
  · exact (sameWork_hostWrite p v _ _).trans (sameWork_setVf _ _ _)
  · exact .refl p

theorem sameWork_vfSignal (p : Package) (v vec : Nat) : SameWork p (vfSignal p v vec) := by
  have h := (sameWork_writeShadow p v).trans (sameWork_hostMsix (writeShadow p v) v vec)
  unfold vfSignal
  simp only
  repeat' split
  all_goals first | exact sameWork_setVf _ _ _ | exact h

theorem sameWork_vfEventLost (p : Package) (v n : Nat) : SameWork p (vfEventLost p v n) :=
  (sameWork_mapBase p _).trans (sameWork_setVf _ _ _)

theorem sameWork_heqWrite (p : Package) (v : Nat) (h t : Bytes) : SameWork p (heqWrite p v h t) :=
  (sameWork_hostWrite p v _ _).trans <| (sameWork_wr _ _ _).trans <| (sameWork_setVf _ _ _).trans (sameWork_vfSignal _ _ _)

theorem sameWork_vfEvent (p : Package) (v : Nat) (h t : Bytes) : SameWork p (vfEvent p v h t) := by
  unfold vfEvent
  split
  · exact sameWork_heqWrite p v h t
  · exact sameWork_vfEventLost p v 1

/-- An optional operation that changes nothing of the work changes nothing of it either way. -/
theorem SameWork.ite {p q r : Package} {c : Prop} [Decidable c] (h : SameWork p q) (g : SameWork p r) :
    SameWork p (if c then q else r) := by
  split
  · exact h
  · exact g

/-- A record's way through its routes. -/
theorem sameWork_sendRecordTo (p : Package) (a bit : Nat) (err forced : Bool) (c0 c2 c3 : Nat) :
    SameWork p (sendRecordTo p a bit err forced c0 c2 c3).1 := by
  unfold sendRecordTo
  dsimp only
  have h := sameWork_ringAppend p 1 (if err then 2 else 0) (a / 0x1000)
    (le 1 (bit + b2n forced * 32) ++ le 1 0 ++ le 4 (if (err && !forced) = true then c0 else 0) ++
      le 4 (if (err && !forced) = true then c2 else 0) ++ le 4 (if (err && !forced) = true then c3 else 0) ++ le 2 0)
  revert h
  generalize ringAppend p 1 _ _ _ = r
  obtain ⟨q, o⟩ := r
  intro h
  have h1 := h.trans (.ite (c := bitOf (q.rd (a + Off.EVT_ROUTE)) 0 = true)
    (sameWork_hostMsix q 0 (fld (q.rd (a + Off.EVT_ROUTE)) 26 16)) (.refl q))
  revert h1
  dsimp only
  generalize (if bitOf (q.rd (a + Off.EVT_ROUTE)) 0 = true then hostMsix q 0 (fld (q.rd (a + Off.EVT_ROUTE)) 26 16) else q) = q1
  intro h1
  have h2 := fun (c : Prop) [Decidable c] (v : Nat) (x y : Bytes) =>
    h1.trans (.ite (c := c) (sameWork_vfEvent q1 v x y) (.refl q1))
  exact .ite ((h2 _ _ _ _).trans (sameWork_mapBase _ _)) (h2 _ _ _ _)

theorem sameWork_sendRecord (p : Package) (a bit : Nat) (err forced : Bool) (c0 c2 c3 : Nat) :
    SameWork p (sendRecord p a bit err forced c0 c2 c3) := by
  have h := sameWork_sendRecordTo p a bit err forced c0 c2 c3
  unfold sendRecord
  simp only
  repeat' split
  · exact h.trans <| (sameWork_wrF _ _ _ _ _).trans (sameWork_sendRecordTo _ _ _ _ _ _ _ _)
  · exact h.trans (sameWork_wrF _ _ _ _ _)
  · exact h

theorem sameWork_setEvtBit (p : Package) (a bit : Nat) (err forced : Bool) (c0 c2 c3 : Nat) :
    SameWork p (setEvtBit p a bit err forced c0 c2 c3) := by
  unfold setEvtBit
  simp only
  split
  · exact (sameWork_wr _ _ _).trans (sameWork_sendRecord _ _ _ _ _ _ _ _)
  · exact sameWork_wr _ _ _

/-- An event of a page moves no memory, no tile, no fabric and no power state. -/
theorem sameWork_raise (p : Package) (a bit : Nat) (c : Capt) : SameWork p (raise p a bit c) := by
  unfold raise
  simp only
  have hw : SameWork p ((((p.wr (a + Off.ERR_CAPT0) (capt0 bit true c)).wr (a + Off.ERR_CAPT1) p.base.gtime).wr
      (a + Off.ERR_CAPT2) c.c2).wr (a + Off.ERR_CAPT3) c.c3) := ⟨rfl, rfl, rfl, rfl, rfl, rfl⟩
  repeat' split
  · exact hw.trans (sameWork_setEvtBit _ _ _ _ _ _ _ _)
  · exact (sameWork_setEvtBit _ _ _ _ _ _ _ _).trans (sameWork_setEvtBit _ _ _ _ _ _ _ _)
  · exact sameWork_setEvtBit _ _ _ _ _ _ _ _

@[simp] theorem raise_mem (p : Package) (a bit : Nat) (c : Capt) : (raise p a bit c).mem = p.mem := (sameWork_raise p a bit c).1
@[simp] theorem raise_tl (p : Package) (a bit : Nat) (c : Capt) : (raise p a bit c).tl = p.tl := (sameWork_raise p a bit c).2.1
@[simp] theorem raise_fab (p : Package) (a bit : Nat) (c : Capt) : (raise p a bit c).fab = p.fab :=
  (sameWork_raise p a bit c).2.2.1
@[simp] theorem raise_dies (p : Package) (a bit : Nat) (c : Capt) : (raise p a bit c).dies = p.dies :=
  (sameWork_raise p a bit c).2.2.2.1
@[simp] theorem raise_pwr (p : Package) (a bit : Nat) (c : Capt) : (raise p a bit c).pwr = p.pwr :=
  (sameWork_raise p a bit c).2.2.2.2.1
@[simp] theorem raise_sealed (p : Package) (a bit : Nat) (c : Capt) : (raise p a bit c).sealed = p.sealed :=
  (sameWork_raise p a bit c).2.2.2.2.2

theorem sameWork_crossPitch (p : Package) (a pitch target : Nat) (src : Option (Nat × Nat)) :
    SameWork p (crossPitch p a pitch target src) := sameWork_raise p a 25 _

theorem sameWork_countFlagged (p : Package) (a n bit : Nat) : SameWork p (countFlagged p a n bit) := by
  unfold countFlagged
  simp only
  split
  · exact .trans ⟨rfl, rfl, rfl, rfl, rfl, rfl⟩ (sameWork_raise _ _ _ _)
  · exact ⟨rfl, rfl, rfl, rfl, rfl, rfl⟩

end Sys2Proof.Machine
end

