-- ==== Sys2Proof/Laws/Frames.lean ====
section
/-! SUPPORT. Laws of the frames a command acts in: each answers a next state, changes one element, and leaves all else alone. -/

namespace Sys2Proof.Machine

/-- Everything of the span but packages, Weirs, tray and rack controllers. -/
structure SameSpan (s t : State) : Prop where
  epochChange : t.epochChange = s.epochChange
  waits : t.waits = s.waits
  epoch : t.epoch = s.epoch
  table : t.table = s.table
  spanRacks : t.spanRacks = s.spanRacks
  pending : t.pending = s.pending

/-- A command of one package: its memory, every other package and every other kind of element stay. -/
theorem onPkg_frame {k : Nat} {f : Package → Package} {s t : State} (h : onPkg k f s = .next t) :
    pkgOf t k = { f (pkgOf s k) with mem := (pkgOf s k).mem } ∧ (∀ j, j ≠ k → pkgOf t j = pkgOf s j) ∧ t.weirs = s.weirs ∧
    t.tcs = s.tcs ∧ t.rcs = s.rcs ∧ t.free = s.free ∧ SameSpan s t := by
  cases h
  exact ⟨by simp, fun j hj => pkgOf_setPkg_ne _ _ hj, rfl, rfl, rfl, rfl, ⟨rfl, rfl, rfl, rfl, rfl, rfl⟩⟩

/-- The same of one that may move bytes of the package's memory. -/
theorem onPkgMem_frame {k : Nat} {f : Package → Package} {s t : State} (h : onPkgMem k f s = .next t) :
    pkgOf t k = f (pkgOf s k) ∧ (∀ j, j ≠ k → pkgOf t j = pkgOf s j) ∧ t.weirs = s.weirs ∧ t.tcs = s.tcs ∧ t.rcs = s.rcs ∧
    t.free = s.free ∧ SameSpan s t := by
  cases h
  exact ⟨by simp, fun j hj => pkgOf_setPkg_ne _ _ hj, rfl, rfl, rfl, rfl, ⟨rfl, rfl, rfl, rfl, rfl, rfl⟩⟩

/-- The same of one that takes a free value. -/
theorem onPkgFree_frame {k : Nat} {f : Nat → Package → Package} {s t : State} (h : onPkgFree k f s = .next t) :
    pkgOf t k = f s.free (pkgOf s k) ∧ (∀ j, j ≠ k → pkgOf t j = pkgOf s j) ∧ t.weirs = s.weirs ∧ t.tcs = s.tcs ∧
    t.rcs = s.rcs ∧ t.free = s.free + 1 ∧ SameSpan s t := by
  cases h
  refine ⟨?_, fun j hj => ?_, rfl, rfl, rfl, rfl, ⟨rfl, rfl, rfl, rfl, rfl, rfl⟩⟩
  · exact pkgOf_setPkg_self s k _
  · exact pkgOf_setPkg_ne s _ hj

/-- A command of one Weir. -/
theorem onWeir_frame {k : Nat} {f : Weir → Weir} {s t : State} (h : onWeir k f s = .next t) :
    weirOf t k = f (weirOf s k) ∧ (∀ j, j ≠ k → weirOf t j = weirOf s j) ∧ t.pkgs = s.pkgs ∧ t.tcs = s.tcs ∧ t.rcs = s.rcs ∧
    t.free = s.free ∧ SameSpan s t := by
  cases h
  exact ⟨by simp, fun j hj => weirOf_setWeir_ne _ _ hj, rfl, rfl, rfl, rfl, ⟨rfl, rfl, rfl, rfl, rfl, rfl⟩⟩

/-- A command of one tray controller. -/
theorem onTc_frame {k : Nat} {f : TrayCtl → TrayCtl} {s t : State} (h : onTc k f s = .next t) :
    tcOf t k = f (tcOf s k) ∧ (∀ j, j ≠ k → tcOf t j = tcOf s j) ∧ t.pkgs = s.pkgs ∧ t.weirs = s.weirs ∧ t.rcs = s.rcs ∧
    t.free = s.free ∧ SameSpan s t := by
  cases h
  exact ⟨by simp, fun j hj => tcOf_setTc_ne _ _ hj, rfl, rfl, rfl, rfl, ⟨rfl, rfl, rfl, rfl, rfl, rfl⟩⟩

/-- A command of one rack controller. -/
theorem onRc_frame {k : Nat} {f : RackCtl → RackCtl} {s t : State} (h : onRc k f s = .next t) :
    rcOf t k = f (rcOf s k) ∧ (∀ j, j ≠ k → rcOf t j = rcOf s j) ∧ t.pkgs = s.pkgs ∧ t.weirs = s.weirs ∧ t.tcs = s.tcs ∧
    t.free = s.free ∧ SameSpan s t := by
  cases h
  exact ⟨by simp, fun j hj => rcOf_setRc_ne _ _ hj, rfl, rfl, rfl, rfl, ⟨rfl, rfl, rfl, rfl, rfl, rfl⟩⟩

/-- A command of what packages and Weirs share: it completes, and controllers and memory stay. -/
theorem onElem_frame (e : Elem) (fp : Package → Package) (fw : Weir → Weir) (s : State) :
    ∃ t, onElem e fp fw s = .next t ∧ t.tcs = s.tcs ∧ t.rcs = s.rcs ∧ t.free = s.free ∧ SameSpan s t ∧
      (∀ j, (pkgOf t j).mem = (pkgOf s j).mem) := by
  cases e with
  | pkg k =>
    refine ⟨_, rfl, rfl, rfl, rfl, ⟨rfl, rfl, rfl, rfl, rfl, rfl⟩, fun j => ?_⟩
    by_cases h : j = k
    · subst h; simp
    · rw [pkgOf_setPkg_ne _ _ h]
  | weir k => exact ⟨_, rfl, rfl, rfl, rfl, ⟨rfl, rfl, rfl, rfl, rfl, rfl⟩, fun j => rfl⟩

/-! ## A position and an element, as a tray controller changes them -/

@[simp] theorem tcOf_modTc (s : State) (k : Nat) (f : TrayCtl → TrayCtl) : tcOf (modTc s k f) k = f (tcOf s k) := by simp [modTc]
@[simp] theorem rcOf_modTc (s : State) (k j : Nat) (f : TrayCtl → TrayCtl) : rcOf (modTc s k f) j = rcOf s j := rfl
@[simp] theorem modTc_pkgs (s : State) (k : Nat) (f : TrayCtl → TrayCtl) : (modTc s k f).pkgs = s.pkgs := rfl
@[simp] theorem modTc_weirs (s : State) (k : Nat) (f : TrayCtl → TrayCtl) : (modTc s k f).weirs = s.weirs := rfl
@[simp] theorem rcOf_modRc (s : State) (k : Nat) (f : RackCtl → RackCtl) : rcOf (modRc s k f) k = f (rcOf s k) := by simp [modRc]
@[simp] theorem tcOf_modRc (s : State) (k j : Nat) (f : RackCtl → RackCtl) : tcOf (modRc s k f) j = tcOf s j := rfl
@[simp] theorem modRc_pkgs (s : State) (k : Nat) (f : RackCtl → RackCtl) : (modRc s k f).pkgs = s.pkgs := rfl
@[simp] theorem modRc_weirs (s : State) (k : Nat) (f : RackCtl → RackCtl) : (modRc s k f).weirs = s.weirs := rfl

/-- A position changed reads so. -/
@[simp] theorem posOf_modPos (s : State) (tc pos : Nat) (f : Position → Position) :
    posOf (modPos s tc pos f) tc pos = f (posOf s tc pos) := by
  simp [posOf, modPos, mupd]

/-- What is reported joins the messages of its rack, after those before it. -/
theorem report_msgs (s : State) (rack : Nat) (name : String) (subject : Nat) :
    (rcOf (report s rack name subject) rack).msgs = (rcOf s rack).msgs ++ [{ name := name, subject := subject, http := 0 }] := by
  simp [report]

/-- A log record leaves every position, element and rack controller alone. -/
theorem logAt_frame (s : State) (tc pos sev code : Nat) (data : Bytes) :
    (logAt s tc pos sev code data).pkgs = s.pkgs ∧ (logAt s tc pos sev code data).weirs = s.weirs ∧
    (logAt s tc pos sev code data).rcs = s.rcs ∧ (∀ p, posOf (logAt s tc pos sev code data) tc p = posOf s tc p) ∧
    (tcOf (logAt s tc pos sev code data) tc).log.getLast? = some (logBytes (tcOf s tc) (logSource tc pos) sev code data) := by
  refine ⟨rfl, rfl, rfl, fun p => ?_, ?_⟩
  · simp [posOf, logAt, logRecord]
  · simp [logAt, logRecord]

end Sys2Proof.Machine
end

