-- ==== Sys2Proof/Laws/Memory.lean ====
section
/-! SUPPORT. Laws of package memory space: what an access within one stack needs, and what every operation on the granules
keeps. -/

namespace Sys2Proof.Machine

/-! ## Exposed DRAM -/

theorem regionOf_dram (p : Package) {c : Nat} (h : c < dramSize) : regionOf p c = some .dram := by simp [regionOf, h]

@[simp] theorem canon_low (p : Package) {c : Nat} (h : c < ilvBase) : canon p c = c := by
  simp only [canon]; rw [if_neg (by omega)]

theorem canonRange_low (p : Package) {off n : Nat} (h : off + n ≤ ilvBase) :
    canonRange p off n = (List.range n).map fun i => off + i := by
  apply List.map_congr_left
  intro i hi
  exact canon_low p (by have := List.mem_range.mp hi; omega)

theorem mem_canonRange_low (p : Package) {off n c : Nat} (h : off + n ≤ ilvBase) :
    c ∈ canonRange p off n ↔ off ≤ c ∧ c < off + n := by
  rw [canonRange_low p h]
  simp only [List.mem_map, List.mem_range]
  constructor
  · rintro ⟨i, hi, rfl⟩; omega
  · rintro ⟨h1, h2⟩; exact ⟨c - off, by omega, by omega⟩

theorem inRegion_dram (p : Package) {off n : Nat} (h0 : 0 < n) (h : off + n ≤ dramSize) : inRegion p off n = true := by
  have h1 : off < dramSize := by omega
  have h2 : off + n - 1 < dramSize := by omega
  have h3 : dramSize ≤ 2 ^ 48 := by decide
  simp [inRegion, regionOf_dram p h1, regionOf_dram p h2, h0]
  omega

/-- A range that lies in stack `s`. -/
def inStack (s off n : Nat) : Prop := s < 8 ∧ s * stackSize ≤ off ∧ off + n ≤ (s + 1) * stackSize

theorem inStack.mem {s off n c : Nat} (h : inStack s off n) (p : Package) (hc : c ∈ canonRange p off n) :
    c < dramSize ∧ stackOf c = s := by
  obtain ⟨h1, h2, h3⟩ := h
  have h4 : (s + 1) * stackSize ≤ 8 * stackSize := Nat.mul_le_mul_right _ (by omega)
  have h5 : 8 * stackSize = dramSize := by decide
  have h6 : dramSize ≤ ilvBase := by decide
  obtain ⟨h7, h8⟩ := (mem_canonRange_low p (by omega)).mp hc
  refine ⟨by omega, ?_⟩
  exact Nat.div_eq_of_lt_le (by omega) (by omega)

/-- Every byte of a range in a stack that serves, and that no waiting write zeroes, is served. -/
theorem memReady_stack (p : Package) {s off n : Nat} (h : inStack s off n) (hs : servesAt p (s * stackSize) = true)
    (hz : ∀ c ∈ canonRange p off n, zeroQueued p c = false) : memReady p off n = true := by
  obtain ⟨h1, _, _⟩ := id h
  have h5 : s * stackSize < dramSize := by
    have : 8 * stackSize = dramSize := by decide
    have : s * stackSize ≤ 7 * stackSize := Nat.mul_le_mul_right _ (by omega)
    have : (0 : Nat) < stackSize := by decide
    omega
  have h6 : stackOf (s * stackSize) = s := Nat.mul_div_cancel _ (by decide)
  simp only [servesAt, h5, if_true, h6] at hs
  refine List.all_eq_true.mpr fun c hc => ?_
  obtain ⟨h3, h4⟩ := h.mem p hc
  simp only [servesAt, h3, if_true, h4, hz c hc, Bool.not_false, Bool.and_true]
  exact hs

/-- A range in a stack that is neither hollow nor offline has no dead byte. -/
theorem deadAt_stack (p : Package) {s off n : Nat} (h : inStack s off n) (hs : stackDead p s = false) :
    ∀ c ∈ canonRange p off n, deadAt p c = false := by
  intro c hc
  obtain ⟨h3, h4⟩ := h.mem p hc
  simp [deadAt, h3, h4, hs]

/-- Exposed DRAM in which no sector is uncorrectable withholds nothing. -/
theorem badAt_dram (p : Package) {c : Nat} (h : c < dramSize) (hb : p.mem.dramBad = []) : badAt p c = false := by
  simp [badAt, h, hb]

/-- Pitch 0 owns every byte for its own accesses (R263). -/
@[simp] theorem ownsRange_zero (p : Package) (off n : Nat) : ownsRange p 0 off n = true := by
  simp [ownsRange, firstForeign, ownsByte]

/-! ## The interleaved alias -/

theorem ilvStack_lt (hash g : Nat) : ilvStack hash g < 8 := by
  unfold ilvStack
  split
  · omega
  · have : ∀ (l : List Nat) (a : Nat), a < 8 → l.foldl (fun s i => s ^^^ (g % 2 ^ 28 / 8 ^ i % 8)) a < 8 := by
      intro l
      induction l with
      | nil => exact fun a h => h
      | cons i l ih => exact fun a h => ih _ (Nat.xor_lt_two_pow (n := 3) h (Nat.mod_lt _ (by decide)))
    exact this _ 0 (by decide)

/-! ## Granules, units and single bytes keep the canonical form -/

theorem memWf_zeroGranule {p : Package} (c : Nat) (h : memWf p.mem.cells = true) :
    memWf (zeroGranule p c).mem.cells = true := by
  unfold zeroGranule
  simp only
  split
  · exact memWf_memZero _ _ h
  · split
    · split
      · rw [raise_mem]; exact memWf_memZero _ _ h
      · exact memWf_memZero _ _ h
    · exact memWf_memZero _ _ h

theorem memWf_putByte {p : Package} (c : Nat) (x : Byte) (h : memWf p.mem.cells = true) :
    memWf (putByte p c x).mem.cells = true := by
  unfold putByte
  apply memWf_memSet
  split
  · exact memWf_zeroGranule c h
  · exact h

theorem cells_stackFails (p : Package) (s reason : Nat) : (stackFails p s reason).mem.cells = p.mem.cells := by
  simp [stackFails]

theorem cells_setStack (p : Package) (s : Nat) (x : Stack) : (p.setStack s x).mem.cells = p.mem.cells := rfl

theorem cells_ite {c : Prop} [Decidable c] {q r : Package} {m : Memory} (hq : q.mem.cells = m) (hr : r.mem.cells = m) :
    (if c then q else r).mem.cells = m := by
  split
  · exact hq
  · exact hr

/-- Finding a sector uncorrectable moves no byte. -/
theorem cells_dramUncorrected (p : Package) (c die : Nat) (patrol : Bool) :
    (dramUncorrected p c die patrol).mem.cells = p.mem.cells := by
  have h : ∀ (a : Nat) (x : Capt) (f : Base → Base) (k : Stack) (n s : Nat),
      ((raise ((p.count n).mapBase f) a 1 x).setStack s k).mem.cells = p.mem.cells := fun a x f k n s => by
    rw [cells_setStack, raise_mem]; rfl
  unfold dramUncorrected
  exact cells_ite ((cells_stackFails _ _ _).trans (h _ _ _ _ _ _)) (h _ _ _ _ _ _)

/-- Finding a line uncorrectable moves no byte. -/
theorem cells_sramUncorrected (p : Package) (c : Nat) : (sramUncorrected p c).mem.cells = p.mem.cells := by
  simp [sramUncorrected]

theorem cells_dramCorrected (p : Package) (c : Nat) : (dramCorrected p c).mem.cells = p.mem.cells := by
  simp [dramCorrected]

theorem cells_sramCorrected (p : Package) (c : Nat) : (sramCorrected p c).mem.cells = p.mem.cells := by
  simp [sramCorrected]

/-- A fold of operations each of which keeps a property keeps it. -/
theorem foldl_keeps {α β : Type} (P : β → Prop) (f : β → α → β) (h : ∀ b a, P b → P (f b a)) (l : List α) (b : β)
    (hb : P b) : P (l.foldl f b) := by
  induction l generalizing b with
  | nil => exact hb
  | cons a l ih => exact ih _ (h b a hb)

/-- What a read notes moves no byte. -/
theorem cells_noteBad (p : Package) (cs : List Nat) (die : Nat) : (noteBad p cs die).mem.cells = p.mem.cells := by
  unfold noteBad
  simp only
  refine foldl_keeps (fun (q : Package) => q.mem.cells = p.mem.cells) _ ?_ _ _ ?_
  · intro q c h
    split
    · rw [cells_dramUncorrected, h]
    · rw [cells_sramUncorrected, h]
  · exact foldl_keeps (fun (q : Package) => q.mem.cells = p.mem.cells) _
      (fun q c h => by split <;> simp only [cells_dramCorrected, cells_sramCorrected, h]) _ _ rfl

/-- A read moves no byte. -/
theorem cells_readMem (p : Package) (die off n : Nat) : (readMem p die off n).1.mem.cells = p.mem.cells :=
  cells_noteBad p _ die

theorem memWf_repairUnit {p : Package} (c : Nat) (h : memWf p.mem.cells = true) :
    memWf (repairUnit p c).mem.cells = true := by
  unfold repairUnit
  split <;> exact h

/-- A write of package memory keeps the canonical form. -/
theorem memWf_writeMem {p : Package} (die off : Nat) (b : List (Option Byte)) (h : memWf p.mem.cells = true) :
    memWf (writeMem p die off b).1.mem.cells = true := by
  unfold writeMem
  simp only
  refine foldl_keeps (fun (q : Package) => memWf q.mem.cells = true) _ (fun q c hq => memWf_repairUnit c hq) _ _ ?_
  refine foldl_keeps (fun (q : Package) => memWf q.mem.cells = true) _ (fun q c hq => memWf_putByte _ _ hq) _ _ ?_
  refine foldl_keeps (fun (q : Package) => memWf q.mem.cells = true) _ ?_ _ _ ?_
  · intro q c hq
    split
    · rw [cells_dramUncorrected]; exact hq
    · rw [cells_sramUncorrected]; exact hq
  · refine foldl_keeps (fun (q : Package) => memWf q.mem.cells = true) _ ?_ _ _ h
    intro q c hq
    split
    · rw [cells_dramCorrected]; exact hq
    · rw [cells_sramCorrected]; exact hq

/-- Memory right after reset has its canonical form. -/
theorem memWf_reset (k : Nat) : memWf (Package.reset k).mem.cells = true := rfl

end Sys2Proof.Machine
end

