-- ==== Sys2Proof/WellFormed.lean ====
section
/-! DEFINITION. Well-formed commands: the numbers name things that a span can hold (R4, R15–R18, R29–R32, R84, R206, R235).
The meanings do not rest on it: a command that is not well formed finds nothing to act on. -/

namespace Sys2Proof

/-- The issuer names a virtual function or a package that can exist (R15, R18, R341). -/
def Src.ok : Src → Bool
  | .vf v => decide (1 ≤ v ∧ v ≤ 16)
  | .fabric pitch rack slot => decide (pitch < 4096 ∧ rack < 16 ∧ slot < 64)
  | _ => true

/-- The element's number is one of 1,024 packages or 288 Weirs (R16, R18). -/
def Elem.ok : Elem → Bool
  | .pkg p => decide (p < 1024)
  | .weir w => decide (w < 288)

/-- The port number is one the element has (R16). -/
def Elem.okPort : Elem → Nat → Bool
  | .pkg _, q => decide (q < 18)
  | .weir _, q => decide (q < 72)

/-- The doorbell's core is one of a tile's two (R86). -/
def TailVia.ok : TailVia → Bool
  | .page src => src.ok
  | .core c => decide (c < 2)

/-- The hopper exists (R84, R328). -/
def HopRef.ok : HopRef → Bool
  | .tile t h => decide (t < 16 ∧ h < 4)
  | .host v h => decide (1 ≤ v ∧ v ≤ 16 ∧ h < 4)

/-- The requester exists (R84, R132). -/
def Requester.ok : Requester → Bool
  | .tileEngine d => decide (d < 16)
  | .core c => decide (c < 32)
  | .linkDie d => decide (d < 2)

/-- The tray exists (R15, R16). -/
def Tray.ok : Tray → Bool
  | .compute c => decide (c < 16)
  | .switch s => decide (s < 9)

/-- A command is well formed: every number in it lies in its range. -/
def Instr.wf : Instr → Bool
  | .controlWrite p src off size val => decide (p < 1024) && src.ok && decide (off < 0x4000000) && decide (size = 4 ∨ size = 8) && decide (val < 2 ^ 64)
  | .controlSpacePacket p port _ => decide (p < 1024) && decide (port < 18)
  | .pageCtrlWrite p src page val => decide (p < 1024) && src.ok && decide (page % 0x1000 = 0 ∧ page < 0x4000000) && decide (val < 2 ^ 32)
  | .evtStatClear p src page val => decide (p < 1024) && src.ok && decide (page % 0x1000 = 0 ∧ page < 0x4000000) && decide (val < 2 ^ 32)
  | .evtForce p src page val => decide (p < 1024) && src.ok && decide (page % 0x1000 = 0 ∧ page < 0x4000000) && decide (val < 2 ^ 32)
  | .strikeCtrlGo p src page val => decide (p < 1024) && src.ok && decide (page % 0x1000 = 0 ∧ page < 0x4000000) && decide (val < 2 ^ 32)
  | .strikeDrainDone p _ => decide (p < 1024)
  | .strikeDrainAbandon p _ => decide (p < 1024)
  | .strikeAbsorbDone p _ => decide (p < 1024)
  | .spanStrikeMessage p rack slot pitch => decide (p < 1024) && decide (rack < 16) && decide (slot < 64) && decide (pitch < 4096)
  | .spanStrikeAnswer p rack slot pitch => decide (p < 1024) && decide (rack < 16) && decide (slot < 64) && decide (pitch < 4096)
  | .spanStrikeResend p pitch => decide (p < 1024) && decide (pitch < 4096)
  | .spanStrikeTimeout p pitch => decide (p < 1024) && decide (pitch < 4096)
  | .latePeerResend p pitch => decide (p < 1024) && decide (pitch < 4096)
  | .setupUncommitResend p g => decide (p < 1024) && decide (g < 2048)
  | .pitchCreate p _ _ => decide (p < 1024)
  | .addTiles p _ _ => decide (p < 1024)
  | .addDram p _ _ => decide (p < 1024)
  | .addFence p _ _ => decide (p < 1024)
  | .strike p _ _ => decide (p < 1024)
  | .query p _ _ => decide (p < 1024)
  | .pitchBadCommand p _ _ => decide (p < 1024)
  | .inputUndervoltage e => e.ok
  | .undervoltageClear e => e.ok
  | .inputOvervoltage e => e.ok
  | .overvoltageClear e => e.ok
  | .inrushLimitEnd e => e.ok
  | .railOutOfRegulation e => e.ok
  | .railRegulated e => e.ok
  | .emberColdStart e => e.ok
  | .powerOnRelease e => e.ok
  | .resetPulseAccepted e _ => e.ok
  | .resetGlitch e _ => e.ok
  | .resetPinRelease e _ => e.ok
  | .hubResetAck p => decide (p < 1024)
  | .resetEscalate p => decide (p < 1024)
  | .strapMeasurement p _ => decide (p < 1024)
  | .refclkPresent e => e.ok
  | .hubSelfTestDone e _ _ => e.ok
  | .imageRequestTimeout e => e.ok
  | .imageSlotRetry e => e.ok
  | .blobRequestRetry e => e.ok
  | .bringupRelease p src => decide (p < 1024) && src.ok
  | .mspRelease p => decide (p < 1024)
  | .bulkReset e => e.ok
  | .dieLinksTrained p _ => decide (p < 1024)
  | .tileTestDone p _ => decide (p < 1024)
  | .dramTrainingDone p _ _ => decide (p < 1024)
  | .portTrainingDone e => e.ok
  | .imageReq tc pos => decide (tc < 480) && decide (pos < 4)
  | .blobReq tc pos => decide (tc < 480) && decide (pos < 4)
  | .settingsReady tc pos => decide (tc < 480) && decide (pos < 4)
  | .readyReport tc pos => decide (tc < 480) && decide (pos < 4)
  | .weirReadyReport tc pos => decide (tc < 480) && decide (pos < 4)
  | .loadNoticeMessage tc pos => decide (tc < 480) && decide (pos < 4)
  | .eventRecordCopy tc pos => decide (tc < 480) && decide (pos < 4)
  | .pitchReply tc pos => decide (tc < 480) && decide (pos < 4)
  | .bulkDone e _ _ => e.ok
  | .bulkUnavailable e _ => e.ok
  | .mspUnknownMessage e _ _ => e.ok
  | .mspRegisterRead e _ _ => e.ok
  | .mspRegisterWrite e _ _ => e.ok
  | .mspRawWrite e _ _ => e.ok
  | .mspRawRead e _ _ => e.ok
  | .mspSelectEnd e _ => e.ok
  | .mspEdgeTimeout e => e.ok
  | .mspErrClr e => e.ok
  | .csGo e _ => e.ok
  | .csTimeout e => e.ok
  | .mspStatusPoll tc pos => decide (tc < 480) && decide (pos < 4)
  | .flitReceive p die _ _ => decide (p < 1024) && decide (die < 20)
  | .flitReplayRequest p die _ _ => decide (p < 1024) && decide (die < 20)
  | .moduleRetrainDone p die _ module _ => decide (p < 1024) && decide (die < 20) && decide (module < 4)
  | .budgetTick p => decide (p < 1024)
  | .budgetMessage p die _ => decide (p < 1024) && decide (die < 20)
  | .dieReport p _ => decide (p < 1024)
  | .budgetFallback p die => decide (p < 1024) && decide (die < 20)
  | .diePowerSample p die _ _ => decide (p < 1024) && decide (die < 20)
  | .dieSilent p die => decide (p < 1024) && decide (die < 20)
  | .clkModeWrite p src val => decide (p < 1024) && src.ok && decide (val < 2 ^ 32)
  | .modeChangeDone p => decide (p < 1024)
  | .hopTailWrite p via t h val => decide (p < 1024) && via.ok && decide (t < 16) && decide (h < 4) && decide (val < 2 ^ 32)
  | .hopRun p src t h val => decide (p < 1024) && src.ok && decide (t < 16) && decide (h < 4) && decide (val < 2 ^ 32)
  | .hopResume p src t h val => decide (p < 1024) && src.ok && decide (t < 16) && decide (h < 4) && decide (val < 2 ^ 32)
  | .descriptorFetch p ref => decide (p < 1024) && ref.ok
  | .descriptorIssue p ref => decide (p < 1024) && ref.ok
  | .nop p ref _ => decide (p < 1024) && ref.ok
  | .copy p ref _ => decide (p < 1024) && ref.ok
  | .fill p ref _ => decide (p < 1024) && ref.ok
  | .matmul p ref _ => decide (p < 1024) && ref.ok
  | .vectorAdd p ref _ => decide (p < 1024) && ref.ok
  | .vectorMul p ref _ => decide (p < 1024) && ref.ok
  | .axpy p ref _ => decide (p < 1024) && ref.ok
  | .vectorMax p ref _ => decide (p < 1024) && ref.ok
  | .vectorMin p ref _ => decide (p < 1024) && ref.ok
  | .expCmd p ref _ => decide (p < 1024) && ref.ok
  | .recip p ref _ => decide (p < 1024) && ref.ok
  | .rsqrt p ref _ => decide (p < 1024) && ref.ok
  | .convert p ref _ => decide (p < 1024) && ref.ok
  | .scale p ref _ => decide (p < 1024) && ref.ok
  | .attend p ref _ => decide (p < 1024) && ref.ok
  | .rwrite p ref _ => decide (p < 1024) && ref.ok
  | .rread p ref _ => decide (p < 1024) && ref.ok
  | .allReduce p ref _ => decide (p < 1024) && ref.ok
  | .reduceScatter p ref _ => decide (p < 1024) && ref.ok
  | .allGather p ref _ => decide (p < 1024) && ref.ok
  | .broadcast p ref _ => decide (p < 1024) && ref.ok
  | .barrier p ref _ => decide (p < 1024) && ref.ok
  | .allToAll p ref _ => decide (p < 1024) && ref.ok
  | .reduceScatterv p ref _ => decide (p < 1024) && ref.ok
  | .allGatherv p ref _ => decide (p < 1024) && ref.ok
  | .allToAllv p ref _ => decide (p < 1024) && ref.ok
  | .collNextSequence p g => decide (p < 1024) && decide (g < 2048)
  | .pegAdd p ref _ => decide (p < 1024) && ref.ok
  | .pegSet p ref _ => decide (p < 1024) && ref.ok
  | .setTarget p ref _ => decide (p < 1024) && ref.ok
  | .remoteBump p ref _ => decide (p < 1024) && ref.ok
  | .descriptorComplete p ref _ => decide (p < 1024) && ref.ok
  | .waitTimeout p ref => decide (p < 1024) && ref.ok
  | .engineFailed p t phys => decide (p < 1024) && decide (t < 16) && decide (phys < 9)
  | .coreRun p src t c val => decide (p < 1024) && src.ok && decide (t < 16) && decide (c < 2) && decide (val < 2 ^ 32)
  | .coreTrap p t c _ _ _ => decide (p < 1024) && decide (t < 16) && decide (c < 2)
  | .corePegSet p t c k val => decide (p < 1024) && decide (t < 16) && decide (c < 2) && decide (k < 512) && decide (val < 2 ^ 32)
  | .corePegSetTarget p t c k val => decide (p < 1024) && decide (t < 16) && decide (c < 2) && decide (k < 512) && decide (val < 2 ^ 32)
  | .corePegAdd p t c k val => decide (p < 1024) && decide (t < 16) && decide (c < 2) && decide (k < 512) && decide (val < 2 ^ 32)
  | .coreWaitArm p t c k val => decide (p < 1024) && decide (t < 16) && decide (c < 2) && decide (k < 512) && decide (val < 2 ^ 32)
  | .pegAllocWrite p src peg val => decide (p < 1024) && src.ok && decide (peg < 8192) && decide (val < 2 ^ 32)
  | .sramAccess p t who _ _ _ => decide (p < 1024) && decide (t < 16) && who.ok
  | .repairAdd p src t val => decide (p < 1024) && src.ok && decide (t < 16) && decide (val < 2 ^ 32)
  | .repairDone p t => decide (p < 1024) && decide (t < 16)
  | .memoryRequest p who _ _ _ => decide (p < 1024) && who.ok
  | .memCfgWrite p src _ val => decide (p < 1024) && src.ok && decide (val < 2 ^ 32)
  | .patrolStep p stack _ => decide (p < 1024) && decide (stack < 8)
  | .stackTempSample p stack _ => decide (p < 1024) && decide (stack < 8)
  | .stackTrainingLost p stack => decide (p < 1024) && decide (stack < 8)
  | .stackRetrainDone p stack _ => decide (p < 1024) && decide (stack < 8)
  | .scrubGranuleDone p _ => decide (p < 1024)
  | .granuleZeroDone p _ _ => decide (p < 1024)
  | .frameReceive e port frame => e.ok && e.okPort port && decide (frame.bytes.length = 640)
  | .frameReplayRequest e port _ => e.ok && e.okPort port
  | .packetIngress p port _ _ => decide (p < 1024) && decide (port < 18)
  | .weirForward w port _ _ => decide (w < 288) && decide (port < 72)
  | .routeEpochWrite p src val => decide (p < 1024) && src.ok && decide (val < 2 ^ 32)
  | .weirEpochWrite w val => decide (w < 288) && decide (val < 2 ^ 32)
  | .portSignalLoss e port _ => e.ok && e.okPort port
  | .portLockLoss e port => e.ok && e.okPort port
  | .downNotice e port => e.ok && e.okPort port
  | .portDisable e port => e.ok && e.okPort port
  | .portDisableDrained e port => e.ok && e.okPort port
  | .portEnable e port => e.ok && e.okPort port
  | .portRelock e port _ => e.ok && e.okPort port
  | .relockTimeout e port => e.ok && e.okPort port
  | .linkHoldExpire p port => decide (p < 1024) && decide (port < 18)
  | .weirHoldExpire w port => decide (w < 288) && decide (port < 72)
  | .trainPhasePass e port => e.ok && e.okPort port
  | .trainPhaseTimeout e port => e.ok && e.okPort port
  | .identityBlock e port _ => e.ok && e.okPort port
  | .trainParkRetry e port => e.ok && e.okPort port
  | .wiringFaultIdentity e port => e.ok && e.okPort port
  | .expectWrite e src port _ _ _ => e.ok && src.ok && e.okPort port
  | .opticsPoll w port _ _ _ _ _ => decide (w < 288) && decide (port < 72)
  | .opticsReadyTimeout w port => decide (w < 288) && decide (port < 72)
  | .timingFrameSend w => decide (w < 288)
  | .timingFrame p port _ _ _ => decide (p < 1024) && decide (port < 18)
  | .timeUnlock p => decide (p < 1024)
  | .timesyncEdge w => decide (w < 288)
  | .packageTimesyncEdge p => decide (p < 1024)
  | .weirSecondsWrite w val => decide (w < 288) && decide (val < 2 ^ 32)
  | .ptpSync rack _ => decide (rack < 16)
  | .rmaPacketSend p conn => decide (p < 1024) && decide (conn < 4096)
  | .rwritePacket p port _ => decide (p < 1024) && decide (port < 18)
  | .rreadPacket p port _ => decide (p < 1024) && decide (port < 18)
  | .pegPacket p port _ => decide (p < 1024) && decide (port < 18)
  | .responsePacket p port _ => decide (p < 1024) && decide (port < 18)
  | .ackTimer p conn => decide (p < 1024) && decide (conn < 4096)
  | .retryTimeout p conn => decide (p < 1024) && decide (conn < 4096)
  | .connCtlWrite p src die val => decide (p < 1024) && src.ok && decide (die < 2) && decide (val < 2 ^ 32)
  | .pitchStalled p pitch => decide (p < 1024) && decide (pitch < 4096)
  | .grpCtlWrite p src die val => decide (p < 1024) && src.ok && decide (die < 2) && decide (val < 2 ^ 32)
  | .push p src die val => decide (p < 1024) && src.ok && decide (die < 2) && decide (val < 2 ^ 32)
  | .pushTimeout p g => decide (p < 1024) && decide (g < 2048)
  | .setup w port _ => decide (w < 288) && decide (port < 72)
  | .setupAnswer p _ => decide (p < 1024)
  | .barrierArrive p g => decide (p < 1024) && decide (g < 2048)
  | .arrive w port _ => decide (w < 288) && decide (port < 72)
  | .go p _ => decide (p < 1024)
  | .collDataSend p g _ => decide (p < 1024) && decide (g < 2048)
  | .data w port _ => decide (w < 288) && decide (port < 72)
  | .result p _ => decide (p < 1024)
  | .breakCmd e _ => e.ok
  | .reject p _ => decide (p < 1024)
  | .arrivalDeadline w g => decide (w < 288) && decide (g < 2048)
  | .dataDeadline w g => decide (w < 288) && decide (g < 2048)
  | .memberDeadline p g => decide (p < 1024) && decide (g < 2048)
  | .hhPostedWrite p src v h val => decide (p < 1024) && src.ok && decide (1 ≤ v ∧ v ≤ 16) && decide (h < 4) && decide (val < 2 ^ 32)
  | .hhRun p src v h val => decide (p < 1024) && src.ok && decide (1 ≤ v ∧ v ≤ 16) && decide (h < 4) && decide (val < 2 ^ 32)
  | .hhResume p src v h val => decide (p < 1024) && src.ok && decide (1 ≤ v ∧ v ≤ 16) && decide (h < 4) && decide (val < 2 ^ 32)
  | .hostEntryFetch p v h _ => decide (p < 1024) && decide (1 ≤ v ∧ v ≤ 16) && decide (h < 4)
  | .hhAccWrite p src v h val => decide (p < 1024) && src.ok && decide (1 ≤ v ∧ v ≤ 16) && decide (h < 4) && decide (val < 2 ^ 32)
  | .hhCfgWrite p src v h val => decide (p < 1024) && src.ok && decide (1 ≤ v ∧ v ≤ 16) && decide (h < 4) && decide (val < 2 ^ 32)
  | .hcqCfgWrite p src v val => decide (p < 1024) && src.ok && decide (1 ≤ v ∧ v ≤ 16) && decide (val < 2 ^ 32)
  | .heqCfgWrite p src v val => decide (p < 1024) && src.ok && decide (1 ≤ v ∧ v ≤ 16) && decide (val < 2 ^ 32)
  | .hcqProdWrite p src v val => decide (p < 1024) && src.ok && decide (1 ≤ v ∧ v ≤ 16) && decide (val < 2 ^ 32)
  | .heqProdWrite p src v val => decide (p < 1024) && src.ok && decide (1 ≤ v ∧ v ≤ 16) && decide (val < 2 ^ 32)
  | .hcqConsWrite p src v val => decide (p < 1024) && src.ok && decide (1 ≤ v ∧ v ≤ 16) && decide (val < 2 ^ 32)
  | .heqConsWrite p src v val => decide (p < 1024) && src.ok && decide (1 ≤ v ∧ v ≤ 16) && decide (val < 2 ^ 32)
  | .shadowWrite p v => decide (p < 1024) && decide (1 ≤ v ∧ v ≤ 16)
  | .msixHoldoffEnd p v vec => decide (p < 1024) && decide (1 ≤ v ∧ v ≤ 16) && decide (vec < 2)
  | .hostLoss p _ => decide (p < 1024)
  | .vfFlr p v => decide (p < 1024) && decide (1 ≤ v ∧ v ≤ 16)
  | .bar2Access p fn _ _ => decide (p < 1024) && decide (fn < 17)
  | .inputPowerSample p _ => decide (p < 1024)
  | .capEvaluation p => decide (p < 1024)
  | .fantailSample p => decide (p < 1024)
  | .inletStale p => decide (p < 1024)
  | .tInWrite p _ => decide (p < 1024)
  | .relearn p src val => decide (p < 1024) && src.ok && decide (val < 2 ^ 32)
  | .brakeAssert p => decide (p < 1024)
  | .brakeRelease p => decide (p < 1024)
  | .loadNoticeArm p src val => decide (p < 1024) && src.ok && decide (val < 2 ^ 32)
  | .noticeInForce p => decide (p < 1024)
  | .noticeExpire p => decide (p < 1024)
  | .thermalTrip e => e.ok
  | .thermalCritical p => decide (p < 1024)
  | .criticalClear p => decide (p < 1024)
  | .coolantPoll tc _ => decide (tc < 480)
  | .inletHotTimeout tc => decide (tc < 480)
  | .flowLowTimeout tc => decide (tc < 480)
  | .flowStillLow tc => decide (tc < 480)
  | .flowLoss tc => decide (tc < 480)
  | .leakDetected tc => decide (tc < 480)
  | .coolantConditionEnd tc _ => decide (tc < 480)
  | .heartbeatFault tc pos => decide (tc < 480) && decide (pos < 4)
  | .kindlingFault tc pos => decide (tc < 480) && decide (pos < 4)
  | .thermtripAssert tc pos => decide (tc < 480) && decide (pos < 4)
  | .tripRepulse tc pos => decide (tc < 480) && decide (pos < 4)
  | .errFatalAssert tc pos => decide (tc < 480) && decide (pos < 4)
  | .errCorrEdge tc pos => decide (tc < 480) && decide (pos < 4)
  | .errCorrPulseEnd e => e.ok
  | .recoveryTimeout tc pos => decide (tc < 480) && decide (pos < 4)
  | .tcRestart tc => decide (tc < 480)
  | .tcCapMessage tc pos _ => decide (tc < 480) && decide (pos < 4)
  | .imageStore tc _ => decide (tc < 480)
  | .tcTrialConfirm tc => decide (tc < 480)
  | .tcTrialFail tc => decide (tc < 480)
  | .prepareRemovalCompute rack c => decide (rack < 16) && decide (c < 16)
  | .prepareRemovalSwitch rack s => decide (rack < 16) && decide (s < 9)
  | .drainWaitExpire rack => decide (rack < 16)
  | .trayInserted rack tray _ => decide (rack < 16) && tray.ok
  | .returnToService rack tray => decide (rack < 16) && tray.ok
  | .resetPackage rack slot => decide (rack < 16) && decide (slot < 64)
  | .clearFault rack tray => decide (rack < 16) && tray.ok
  | .tcContactLoss rack tc => decide (rack < 16) && decide (tc < 30)
  | .powerLimitWrite rack _ => decide (rack < 16)
  | .powerLimitPkgWrite rack slot _ => decide (rack < 16) && decide (slot < 64)
  | .capComputation rack _ => decide (rack < 16)
  | .capRaise rack => decide (rack < 16)
  | .epochStepDone => true
  | .epochOpenRetry => true
  | .epochStepTimeout => true
  | .epochSwitchRetry => true
  | .pmbusPoll tc _ => decide (tc < 480)
  | .psuReadingStale tc _ => decide (tc < 480)
  | .smbalertPoll tc _ => decide (tc < 480)
  | .busRecovery tc _ _ _ _ _ => decide (tc < 480)
  | .isolatorRestore tc _ _ => decide (tc < 480)
  | .busStuckRetry tc _ => decide (tc < 480)
  | .macReceive tc _ _ => decide (tc < 480)
  | .macTransmit tc => decide (tc < 480)
  | .macTransmitDone tc => decide (tc < 480)
  | .attestWiring rack tray _ => decide (rack < 16) && tray.ok
  | .attestSpan _ => true
  | .returnSeal rack slot _ _ => decide (rack < 16) && decide (slot < 64)
  | .sealGo p src val => decide (p < 1024) && src.ok && decide (val < 2 ^ 32)
  | .sealBundleReady p => decide (p < 1024)
  | .sealBurn p src val => decide (p < 1024) && src.ok && decide (val < 2 ^ 32)
  | .sealOffsetWrite p src val => decide (p < 1024) && src.ok && decide (val < 2 ^ 32)
  | .ringSelWrite p src val => decide (p < 1024) && src.ok && decide (val < 2 ^ 32)
  | .heartbeatEdge tc pos => decide (tc < 480) && decide (pos < 4)
  | .partnerRestart e port => e.ok && e.okPort port
  | .ptpLockLoss rack => decide (rack < 16)
  | .weirTimeUnlocked w => decide (w < 288)
  | .planesDrained rack => decide (rack < 16)
  | .d3hot p fn _ => decide (p < 1024) && decide (fn < 17)

end Sys2Proof
end

