-- ==== Sys2Proof/Tests/Slice0.lean ====
section
/-! SUPPORT. Tests on small states: ill-formed terms that WellFormed refuses, values from the manual's walk-throughs, and for
every statement states and operands that meet its hypotheses, with what the command leaves there. -/

namespace Sys2Proof.Tests

open Sys2Proof Sys2Proof.Machine

set_option Elab.async false

/-- What a command's next state satisfies; false of a fault or a refusal. -/
def leaves (r : Res) (f : State → Bool) : Bool :=
  match r with
  | .next t => f t
  | .fault _ => false
  | .refused _ => false

/-- The state after a command; the reset state where it stops. -/
def next (r : Res) : State :=
  match r with
  | .next t => t
  | .fault _ => State.reset
  | .refused _ => State.reset

/-- A command stops with a fault. -/
def stops (r : Res) (f : Fault) : Bool :=
  match r with
  | .fault g => decide (g = f)
  | .next _ => false
  | .refused _ => false

/-- The span whose package 0 is `p`, whose Weir 0 is `w`, whose tray controller 0 is `t`. -/
def one (p : Package) : State := setPkg State.reset 0 p
def oneWeir (w : Weir) : State := setWeir State.reset 0 w
def oneTc (t : TrayCtl) : State := setTc State.reset 0 t

/-- Package 0 and Weir 0 at reset with their power good, in a phase; and running. -/
def baseIn (x : Phase) (b : Base) : Base := { b with pwr := { b.pwr with asserted := false }, kin := { b.kin with phase := x } }
def running (b : Base) : Base :=
  { b with kin := { b.kin with imgRunning := true }, msp := { b.msp with status := w32 (setBit b.msp.status.toNat 8 true) } }
def inPhase (x : Phase) : Package := (Package.reset 0).mapBase (baseIn x)
def live : Package := (inPhase .running).mapBase Tests.running
def weirIn (x : Phase) : Weir := (Weir.reset 0).mapBase (baseIn x)
def weirLive : Weir := (weirIn .running).mapBase Tests.running
/-! ## Step and control space -/

/-- StepRunsFront: a command waits. -/
theorem witness_StepRunsFront : let s : State := { State.reset with pending := [.budgetTick 0] }
    s.pending = .budgetTick 0 :: [] ∧ step s = exec (.budgetTick 0) State.reset := by
  exact ⟨rfl, rfl⟩

/-- CommandsKeepQueue and ElementsApart: a command that answers a next state, about package 2. -/
theorem witness_CommandsKeepQueue : ∃ t, exec (.d3hot 2 1 true) State.reset = .next t ∧
    Safety.home (.d3hot 2 1 true) = some (.pkg 2) ∧ t.pending = [] := ⟨_, rfl, rfl, rfl⟩

/-- StepKeepsMaps: the maps of the reset state rise, and a step answers. -/
theorem witness_StepKeepsMaps : Safety.mapsRise State.reset = true ∧ ∃ t, step State.reset = .next t := ⟨by decide +kernel, _, rfl⟩

/-- ControlWriteStores: EVT_ROUTE of a page of tile 3 by the physical function, and ME_MAP's neighbour on page 0. -/
theorem witness_ControlWriteStores : let a := tilePage 3 1 + Off.EVT_ROUTE
    Safety.reaches State.reset 0 .pf a .tile1 = true ∧ offOf a < 0x80 ∧
    ((rowAt .tile1 (offOf a)).map fun r => r.fields.any fun f => decide (f.acc = .rwl)) = some false ∧
    leaves (exec (.controlWrite 0 .pf a 4 0x00120006) State.reset) (fun t =>
      (pkgOf t 0).rdF a 26 16 == 0x12 && (pkgOf t 0).rdF a 2 0 == 6 && (pkgOf t 0).rd (tilePage 3 1 + Off.SEQ_IN) == 1) = true := by
  decide +kernel

/-- ControlWriteRefused: an unaligned word, endpoint B, another function's page, a sealed package, a striking page, a locked
owner, the open debug boundary. -/
theorem witness_ControlWriteRefused : let a := tilePage 3 1 + Off.EVT_ROUTE
    let struck := one (live.wrF (tilePage 3 1 + Off.PAGE_STAT) 3 2 3)
    let locked := one (live.wrF (tilePage 3 1 + Off.PAGE_CTRL) 2 2 1)
    let shut := one ((inPhase (.kindling 2)).wrF (pg 3 1 + Off.ID_FLAGS) 8 0 0x101)
    faultReason (pkgOf State.reset 0) (a + 2) 4 = 2 ∧ srcReaches .pf a = true ∧ srcReaches (.vf 3) (vfPage 4) = false ∧
    leaves (exec (.controlWrite 0 .pf (a + 2) 4 0) State.reset) (fun t => (pkgOf t 0).rd a == (pkgOf State.reset 0).rd a) = true ∧
    pageKind (pkgOf struck 0).hubL1 (clsOf a) (instOf a) = some .tile1 ∧
    sealedShut (pkgOf struck 0) = false ∧ strikingPage (pkgOf struck 0).base (tilePage 3 1) = true ∧
    Safety.reaches locked 0 .pf (tilePage 3 1 + Off.PITCH_OWNER) .tile1 = true ∧
    bitOf ((pkgOf locked 0).rd (pageOf (tilePage 3 1 + Off.PITCH_OWNER) + Off.PAGE_CTRL)) 2 = true ∧
    leaves (exec (.controlWrite 0 .pf (tilePage 3 1 + Off.PITCH_OWNER) 4 7) locked)
      (fun t => ownerOf (pkgOf t 0).base (tilePage 3 1) == 0) = true ∧
    sealedShut (pkgOf shut 0) = true ∧
    leaves (exec (.controlWrite 0 .pf a 4 0) shut) (fun t => (pkgOf t 0).rdF (tilePage 3 1 + Off.ERR_CAPT2) 31 12 == 1) = true ∧
    Safety.reaches State.reset 0 .pf (tilePage 3 0 + Off.ME_MAP) .tile0 = true ∧
    (let busy := one (live.wrF (tilePage 3 0 + Off.PAGE_CTRL) 0 0 1)
     quiesced (pkgOf busy 0) (tilePage 3 0) = false ∧
     leaves (exec (.controlWrite 0 .pf (tilePage 3 0 + Off.ME_MAP) 4 0x5) busy)
       (fun t => (pkgOf t 0).rdF (tilePage 3 0 + Off.ERR_CAPT2) 31 12 == 1) = true) ∧
    (let opened := one (live.wrF (pg 3 1 + Off.ID_FLAGS) 9 9 1)
     faultReason (pkgOf opened 0) (pg 0x3F 0 + 0x80) 4 = 0 ∧
     Safety.reaches opened 0 .pf (pg 0x3F 0 + 0x80) .debug = true ∧ rowAt .debug 0x80 = none ∧
     leaves (exec (.controlWrite 0 .pf (pg 0x3F 0 + 0x80) 4 1) opened) (fun t =>
       (pkgOf t 0).rd (pg 0x3F 0 + Off.SEQ_IN) == 1 && (pkgOf t 0).rd (pg 0x3F 0 + 0x80) == 0) = true) := by
  decide +kernel

/-- HeaderWrites: a page's ENABLE, an event that is cleared, an event that is forced. -/
theorem witness_HeaderWrites : let page := tilePage 3 1
    let raised := one (raise live page 24 { c2 := 5 })
    Safety.reaches State.reset 0 .pf (page + Off.PAGE_CTRL) .tile1 = true ∧ (pkgOf State.reset 0).dies.changing = false ∧
    leaves (exec (.pageCtrlWrite 0 .pf page 1) State.reset) (fun t => (pkgOf t 0).rdF (page + Off.PAGE_CTRL) 2 0 == 1) = true ∧
    Safety.arrives raised 0 .pf (page + Off.EVT_STAT) .tile1 = true ∧
    bitOf ((pkgOf raised 0).rd (page + Off.ERR_CAPT0)) 5 = true ∧
    leaves (exec (.evtStatClear 0 .pf page (2 ^ 24)) raised) (fun t =>
      (pkgOf t 0).rd (page + Off.EVT_STAT) == 0 && !bitOf ((pkgOf t 0).rd (page + Off.ERR_CAPT0)) 5) = true ∧
    bitOf (evtBits .tile1 (2 ^ 26)) 26 = true ∧
    leaves (exec (.evtForce 0 .pf page (2 ^ 24)) State.reset) (fun t => bitOf ((pkgOf t 0).rd (page + Off.EVT_STAT)) 24) = true := by
  decide +kernel

/-- A packet to control space, from slot 1 of the package's rack; a connection of pitch 0 from there; a management one. -/
def ctlPkt (op : POp) (pitch off : Nat) (b : Bytes) : Pkt :=
  { op := op, pitch := pitch, space := 1, offset := off, payload := b, arg := 4, srcSlot := 1 }
def ctlConn : Package := live.setConn 0 { commit := true, target := true, peerSlot := 1 }

/-- ControlPackets: one of pitch 7 is not served, its strike request is refused; a read and a write of pitch 0 are served. -/
theorem witness_ControlPackets : let off := tilePage 3 1 + Off.EVT_ROUTE
    let sc := tilePage 3 1 + Off.STRIKE_CTRL
    let m : Pkt := { ctlPkt .rwrite 0 off (le 4 6) with mgmt := true, conn := 1 }
    let x := takeDelivered live 0 (ctlPkt .rwrite 7 sc (le 4 5))
    strikeByJob x (ctlPkt .rwrite 7 sc (le 4 5)) = true ∧ strikeByJob x (ctlPkt .rwrite 7 off (le 4 6)) = false ∧
    sealedShut x = false ∧ pageKind x.hubL1 (clsOf sc) (instOf sc) = some .tile1 ∧ faultReason x off 4 = 0 ∧
    leaves (exec (.controlSpacePacket 0 0 (ctlPkt .rwrite 7 off (le 4 6))) (one live)) (fun t =>
      bitOf ((pkgOf t 0).rd (tilePage 3 1 + Off.EVT_STAT)) 25 && (pkgOf t 0).rd off == live.rd off) = true ∧
    leaves (exec (.controlSpacePacket 0 0 (ctlPkt .rwrite 7 sc (le 4 5))) (one live)) (fun t =>
      (pkgOf t 0).rdF (tilePage 3 1 + Off.ERR_CAPT2) 31 12 == 4 && !bitOf ((pkgOf t 0).rd (tilePage 3 1 + Off.EVT_STAT)) 25) = true ∧
    leaves (exec (.controlSpacePacket 0 0 (ctlPkt .rread 0 off [])) (one ctlConn)) (fun t => (pkgOf t 0).rd off == live.rd off) = true ∧
    leaves (exec (.controlSpacePacket 0 0 (ctlPkt .rwrite 0 off (le 4 6))) (one ctlConn)) (fun t => (pkgOf t 0).rd off == 6) = true ∧
    (live.mg 1).genIn = m.gen ∧ (live.mg 1).expectPsn = m.psn ∧ m.conn = m.srcRack * 64 + m.srcSlot ∧
    leaves (exec (.controlSpacePacket 0 0 m) (one live)) (fun t => (pkgOf t 0).rd off == 6 && ((pkgOf t 0).mg 1).expectPsn == 1) = true := by
  decide +kernel


/-! ## Strikes, pitches and resets -/

/-- Pitch 0x2A7 with VF 5 hosted on tile 3, a fence, a range; its commands' bytes (R265). -/
def hosting : Package :=
  let p := assignTile 0x2A7 live 3
  { p with hub := { p.hub with
    hosted := [(0x2A7, 5)], fences := [{ absorb := false, pitch := 0x2A7, rack := 0, slots := 2 }]
    ranges := [{ pitch := 0x2A7, start := 0, len := 0x200000 }] } }

def pitchCmd (op flags pitch : Nat) (rest : Bytes) : Bytes := (le 1 op ++ le 1 flags ++ le 2 pitch ++ zeros 4 ++ rest ++ zeros 32).take 32

/-- A running strike: of tile 3, of the pitch across the span, of the package. -/
def tileStrike : Package := beginStrike hosting (newStrike hosting (tilePage 3 1) 2 2 0x2A7 3 0)
def spanStrike : Package := beginStrike hosting (newStrike hosting 0 4 4 0x2A7 0 0)
def strike0 (p : Package) : Strike := p.hub.strikes.headD (newStrike p 0 0 0 0 0 0)

/-- FenceAndRelease: a fenced page, an absorbing entry, a released pitch, an assigned tile. -/
theorem witness_FenceAndRelease :
    tilePage 3 1 ∈ struckPages hosting (newStrike hosting (tilePage 3 1) 2 2 0x2A7 3 0) ∧
    tileStrike.rdF (tilePage 3 1 + Off.PAGE_STAT) 3 2 = 3 ∧
    (fenceStep hosting (newStrike hosting 0 3 3 0x2A7 0 0)).hub.fences.map (fun f => f.absorb) = [true] ∧
    (releasePitch hosting 0x2A7).hub.ranges = [] ∧ (releasePitch hosting 0x2A7).hub.hosted = [] ∧
    ownerOf hosting.base (tilePage 3 15) = 0x2A7 := by
  decide +kernel

/-- StrikeSteps: a GO that is taken, one refused, a drain with nothing outstanding, an absorb step. -/
theorem witness_StrikeSteps : let page := tilePage 3 1
    let x := { strike0 tileStrike with step := 4 }
    Safety.arrives (one hosting) 0 .pf (page + Off.STRIKE_CTRL) .tile1 = true ∧
    (strikeTarget hosting page 2 (requesterOf .pf)).isSome = true ∧ pageStrikes hosting page = [] ∧
    leaves (exec (.strikeCtrlGo 0 .pf page 5) (one hosting)) (fun t => (pkgOf t 0).hub.strikes.length == 1
      && (pkgOf t 0).rdF (page + Off.STRIKE_CTRL) 3 0 == 5) = true ∧
    fromPitch0 (.vf 5) = false ∧ strikeTarget hosting page 3 0 ≠ none ∧ strikeTarget hosting page 6 0 = none ∧
    leaves (exec (.strikeCtrlGo 0 .pf page 13) (one hosting)) (fun t => (pkgOf t 0).hub.strikes.isEmpty
      && (pkgOf t 0).rdF (page + Off.STRIKE_CTRL) 7 5 == 3) = true ∧
    strikeOf tileStrike 0 = some (strike0 tileStrike) ∧ strikeLive (strike0 tileStrike) = true ∧ (strike0 tileStrike).step = 3 ∧
    strikeOutstanding tileStrike (strike0 tileStrike) = 0 ∧
    leaves (exec (.strikeDrainDone 0 0) (one tileStrike)) (fun t => strikeOf (pkgOf t 0) 0 == some x) = true ∧
    strikeOf (setStrike tileStrike x) 0 = some x ∧ strikeLive x = true ∧
    leaves (exec (.strikeAbsorbDone 0 0) (one (setStrike tileStrike x))) (fun t =>
      (pkgOf t 0).rdF (page + Off.PAGE_STAT) 3 2 == 0) = true := by
  decide +kernel

/-- StrikeSteps: a connection of the pitch with a packet that has no answer keeps the drain step from ending. -/
theorem witness_StrikeSteps_outstanding :
    let p : Package := { hosting with fab := { hosting.fab with conns := [(5, { ({} : Conn) with
      commit := true, pitch := 0x2A7, unacked := [{ ({} : Pkt) with pitch := 0x2A7, psn := 1 }] })] } }
    let q := beginStrike p (newStrike p 0 3 3 0x2A7 0 0)
    strikeOf q 0 = some (strike0 q) ∧ strikeLive (strike0 q) = true ∧ (strike0 q).step = 3 ∧ strikeOutstanding q (strike0 q) = 1 ∧
    leaves (exec (.strikeDrainAbandon 0 0) (one q)) (fun t =>
      (strike0 (pkgOf t 0)).nAbandoned == 1 && (strike0 (pkgOf t 0)).step == 4 && ((pkgOf t 0).conn 5).unacked.isEmpty) = true := by
  decide +kernel

/-- SpanStrikes: messages and answers, the resend, the timeout, a late peer. -/
theorem witness_SpanStrikes : let x := strike0 spanStrike
    let done : Package := setStrike spanStrike { x with released := true, step := 5 }
    let late : Package := setStrike spanStrike { x with released := true, late := true }
    spanPacketIn hosting 2 0 1 0x2A7 = none ∧ mfind 0x2A7 hosting.hub.hosted = some 5 ∧ mfind 7 hosting.hub.hosted = none ∧
    leaves (exec (.spanStrikeMessage 0 0 1 0x2A7) (one hosting)) (fun t =>
      (strike0 (pkgOf t 0)).answerTo == some (0, 1) && (strike0 (pkgOf t 0)).reach == 3) = true ∧
    leaves (exec (.spanStrikeMessage 0 0 1 7) (one hosting)) (fun t => (pkgOf t 0).hub.strikes.isEmpty) = true ∧
    spanPacketIn spanStrike 3 0 1 0x2A7 = none ∧ spanStrikes spanStrike 0x2A7 = [x] ∧ x.peers = [(0, 1)] ∧ x.late = false ∧
    leaves (exec (.spanStrikeAnswer 0 0 1 0x2A7) (one spanStrike)) (fun t => (strike0 (pkgOf t 0)).peers.isEmpty) = true ∧
    leaves (exec (.spanStrikeAnswer 0 0 1 0x2A7) (one done)) (fun t => (pkgOf t 0).hub.strikes.isEmpty) = true ∧
    spanStrikes late 0x2A7 = [{ x with released := true, late := true }] ∧ late.base.gtime < x.t0 + 1002000000 ∧
    leaves (exec (.spanStrikeTimeout 0 0x2A7) (one done)) (fun t => (strike0 (pkgOf t 0)).late) = true ∧
    (let old : Package := { late with base := { late.base with time := { late.base.time with now := x.t0 + 1002000000 } } }
     leaves (exec (.latePeerResend 0 0x2A7) (one old)) (fun t => (pkgOf t 0).hub.strikes.isEmpty) = true) := by
  decide +kernel

/-- PitchCommands: pitch 0x2A8 is created on tile 4 with VF 6, tile 5 and a range and a fence join pitch 0x2A7. -/
theorem witness_PitchCommands :
    let create := pitchCmd 0x10 0 0x2A8 (le 2 0x10 ++ le 1 6)
    let tiles := pitchCmd 0x11 0 0x2A7 (le 2 0x20)
    let dram := pitchCmd 0x12 0 0x2A7 (le 8 0x200000 ++ le 8 0x200000)
    let fence := pitchCmd 0x13 0 0x2A7 (le 1 3 ++ zeros 7 ++ le 8 9)
    let y := hosting.mapBase fun b => takeInbox b 0x83 create
    (takeCommand hosting .msp create).toOption = some y ∧ [create, tiles, dram, fence].map badCommand = [false, false, false, false] ∧
    broughtUp y = true ∧ packageFailed y = false ∧ pitchStriking y 0x2A8 = false ∧ hostedHere y 0x2A8 = false ∧
    unitStriking y (cmdTiles create) [6] = false ∧ ownerOf y.base (vfPage 6) = 0 ∧
    (chooseTiles y false (cmdTiles create) (cmdTiles create) []).toOption = some [4] ∧
    leaves (exec (.pitchCreate 0 .msp create) (one hosting)) (fun t =>
      (pkgOf t 0).vfOf 0x2A8 == 6 && ownerOf (pkgOf t 0).base (tilePage 4 2) == 0x2A8 && ownerOf (pkgOf t 0).base (vfPage 6) == 0x2A8) = true ∧
    leaves (exec (.addTiles 0 .msp tiles) (one hosting)) (fun t => ownerOf (pkgOf t 0).base (tilePage 5 0) == 0x2A7) = true ∧
    leaves (exec (.addDram 0 .msp dram) (one hosting)) (fun t =>
      (pkgOf t 0).hub.ranges == hosting.hub.ranges ++ [{ pitch := 0x2A7, start := 0x200000, len := 0x200000 }]) = true ∧
    leaves (exec (.addFence 0 .msp fence) (one hosting)) (fun t =>
      (pkgOf t 0).hub.fences == hosting.hub.fences ++ [{ absorb := false, pitch := 0x2A7, rack := 3, slots := 9 }]) = true := by
  decide +kernel

/-- PitchCommands: STRIKE, QUERY, a bad command, and commands that fail. -/
theorem witness_PitchCommands_other :
    let strike := pitchCmd 0x14 0 0x2A7 (le 1 3)
    let query := pitchCmd 0x15 0 0 []
    let bad := pitchCmd 0x16 0 0 []
    [strike, query, bad].map badCommand = [false, false, true] ∧
    leaves (exec (.strike 0 .mailbox strike) (one hosting)) (fun t => (strike0 (pkgOf t 0)).replyTo == some (.mailbox, strike)) = true ∧
    leaves (exec (.query 0 .mailbox query) (one hosting)) (fun t => (pkgOf t 0).rd (pfPage + Off.MBOX_REPLY) % 256 == 0x15) = true ∧
    leaves (exec (.pitchBadCommand 0 .mailbox bad) (one hosting)) (fun t =>
      (pkgOf t 0).rdF (pfPage + Off.MBOX_REPLY) 15 8 == 1) = true ∧
    leaves (exec (.pitchCreate 0 .msp (pitchCmd 0x10 0 0x2A7 (le 2 0x10 ++ le 1 6))) (one hosting))
      (fun t => (pkgOf t 0).hub.hosted == [(0x2A7, 5)]) = true ∧
    leaves (exec (.addDram 0 .msp (pitchCmd 0x12 0 0x2A7 (le 8 0x100000 ++ le 8 0x200000))) (one hosting))
      (fun t => (pkgOf t 0).hub.ranges.length == 1) = true := by
  decide +kernel

/-- PitchCommands: each status of a command that is taken and not carried out, and a query that waits for a strike's end. -/
theorem witness_PitchCommands_refused :
    let raw := Package.reset 0
    let create := pitchCmd 0x10 0 0x2A8 (le 2 0x10 ++ le 1 6)
    let late : Package := { hosting with hub := { hosting.hub with quarantine := [(0x2A8, 1)] } }
    let query := pitchCmd 0x15 0 0 []
    let busy : Package := (beginStrike hosting { newStrike hosting pfPage 3 3 0x2A7 0 0 with replyTo := some (.mailbox, query) }).mapBase
      fun b => { b with msp := { b.msp with inbox := mspMessage 0x83 query } }
    let said (p : Package) (c : Instr) (st : Nat) := leaves (exec c (one p)) (fun t => (pkgOf t 0).rdF (pfPage + Off.MBOX_REPLY) 15 8 == st)
    broughtUp raw = false ∧ broughtUp hosting = true ∧ late.base.gtime < mget 0 late.hub.quarantine 0x2A8 ∧
    said raw (.pitchCreate 0 .mailbox create) 8 = true ∧ said raw (.addTiles 0 .mailbox (pitchCmd 0x11 0 0x2A7 (le 2 0x20))) 8 = true ∧
    said raw (.addDram 0 .mailbox (pitchCmd 0x12 0 0x2A7 (le 8 0 ++ le 8 0x200000))) 8 = true ∧
    said raw (.addFence 0 .mailbox (pitchCmd 0x13 0 0x2A7 (le 1 3 ++ zeros 7 ++ le 8 9))) 8 = true ∧
    said hosting (.pitchCreate 0 .mailbox (pitchCmd 0x10 0 0x2A7 (le 2 0x10 ++ le 1 6))) 2 = true ∧
    said late (.pitchCreate 0 .mailbox create) 9 = true ∧
    said hosting (.addDram 0 .mailbox (pitchCmd 0x12 0 0x2A7 (le 8 0x100000 ++ le 8 0x200000))) 7 = true ∧
    said hosting (.addFence 0 .mailbox (pitchCmd 0x13 0 0x2A8 (le 1 3 ++ zeros 7 ++ le 8 9))) 3 = true ∧
    leaves (exec (.addFence 0 .mailbox (pitchCmd 0x13 0 0x2A7 (zeros 8 ++ le 8 9))) (one hosting)) (fun t =>
      (pkgOf t 0).hub.fences == [{ absorb := false, pitch := 0x2A7, rack := 0, slots := 11 }]) = true ∧
    commandRuns busy = true ∧ busy.base.msp.inbox.take (mspMessage 0x83 query).length = mspMessage 0x83 query ∧
    leaves (exec (.query 0 .msp query) (one busy)) (fun t => (pkgOf t 0).base.msp.inbox == mspMessage 0x83 query && (pkgOf t 0).base.msp.outbox == []) = true := by
  decide +kernel

/-- A package that the power-on source holds in reset, as after power-on. -/
def powered (p : Package) : Package := { p with base := { p.base with pwr := { p.base.pwr with asserted := true } } }

/-- Package 0 running at a pin reach of 1 (band 4), its reset pin free. -/
def reachOne : Package := live.wrF (pg 3 0 + Off.FUSE_REACH) 6 4 5

/-- Resets: a pulse of reach 2 and of reach 1, its acknowledgement and escalation, the pin's release. -/
theorem witness_Resets :
    let low : Package := { reachOne with base := { reachOne.base with kin := { reachOne.base.kin with pending1 := true, resetLow := true } } }
    let one1 : Package := { inPhase (.inReset 1) with base := { (inPhase (.inReset 1)).base with
      kin := { (inPhase (.inReset 1)).base.kin with resetLow := true } } }
    live.base.kin.resetLow = false ∧ live.base.pwr.asserted = false ∧ resetReach live.base ≠ 1 ∧ resetReach reachOne.base = 1 ∧
    leaves (exec (.resetPulseAccepted (.pkg 0) .resetN) (one hosting)) (fun t => (pkgOf t 0).hub.hosted.isEmpty
      && (pkgOf t 0).rdF (em Off.LAST_CAUSE) 3 0 == 8 && (pkgOf t 0).rd (em Off.RESET_COUNT) == 1) = true ∧
    leaves (exec (.resetPulseAccepted (.pkg 0) .resetN) (one reachOne)) (fun t => (pkgOf t 0).base.kin.pending1) = true ∧
    leaves (exec (.resetPulseAccepted (.pkg 0) .resetN) (one (powered live))) (fun t => (pkgOf t 0).rd (em Off.RESET_COUNT) == 0) = true ∧
    leaves (exec (.hubResetAck 0) (one low)) (fun t => (pkgOf t 0).base.kin.phase == .inReset 1) = true ∧
    leaves (exec (.resetEscalate 0) (one low)) (fun t => (pkgOf t 0).base.kin.phase == .inReset 2) = true ∧
    leaves (exec (.resetGlitch (.pkg 0) .resetN) (one live)) (fun t => bitOf ((pkgOf t 0).rd (emberPage + Off.EVT_STAT)) 0) = true ∧
    leaves (exec (.resetPulseAccepted (.weir 0) .resetN) (oneWeir weirLive)) (fun t => (weirOf t 0).base.kin.phase == .inReset 3) = true ∧
    leaves (exec (.resetPinRelease (.pkg 0) .resetN) (one one1)) (fun t => (pkgOf t 0).base.kin.phase == .bringup 2) = true := by
  decide +kernel

/-- PowerOn: an undervoltage asserts the source and only holds it once asserted; its end leads through kindling. -/
theorem witness_PowerOn :
    let held : Package := powered (Package.reset 0)
    let w : Weir := { Weir.reset 0 with base := { (Weir.reset 0).base with pwr := { ({} : PowerIn) with asserted := true } } }
    live.base.pwr.asserted = false ∧ live.base.pwr.porst = false ∧ weirLive.base.pwr.asserted = false ∧ weirLive.base.pwr.porst = false ∧
    leaves (exec (.inputUndervoltage (.pkg 0)) (one live)) (fun t => (pkgOf t 0).base.kin.phase == .inReset 3
      && (pkgOf t 0).rd (em Off.RESET_COUNT) == 1) = true ∧
    leaves (exec (.inputUndervoltage (.pkg 0)) (one held)) (fun t => (pkgOf t 0).rd (em Off.RESET_COUNT) == 0) = true ∧
    leaves (exec (.thermalTrip (.weir 0)) (oneWeir weirLive)) (fun t => (weirOf t 0).base.pins.thermtrip) = true ∧
    held.base.pwr = { inrush := held.base.pwr.inrush, asserted := true } ∧ held.base.kin.resetLow = false ∧
    held.base.kin.pending1 = false ∧ held.base.kin.phase = .inReset 3 ∧ held.base.isWeir = false ∧
    leaves (exec (.powerOnRelease (.pkg 0)) (one held)) (fun t => (pkgOf t 0).base.kin.phase == .kindling 2) = true ∧
    w.base.pwr = { inrush := w.base.pwr.inrush, asserted := true } ∧ w.base.isWeir = true ∧ w.base.kin.phase = .inReset 3 ∧
    leaves (exec (.powerOnRelease (.weir 0)) (oneWeir w)) (fun t => (weirOf t 0).base.kin.phase == .kindling 3) = true := by
  decide +kernel

/-! ## Kindling, bring-up, the MSP slave -/

/-- KindlingPhases: a band measured at its window's edges, one repeated, the fifth; a self-test passed and failed. -/
theorem witness_KindlingPhases :
    let p := inPhase (.kindling 2)
    let good := [72, 120, 72, 120, 96, 96, 96, 96]
    let bad := [71, 72, 72, 72, 72, 72, 72, 72]
    let q : Package := { inPhase (.kindling 3) with base := { (inPhase (.kindling 3)).base with
      kin := { (inPhase (.kindling 3)).base.kin with refclk := true } } }
    p.base.kin.phase = .kindling 2 ∧ good.length = 8 ∧ good.map bandOf = List.replicate 8 (some 1) ∧ bandOf 71 = none ∧
    leaves (exec (.strapMeasurement 0 good) (one p)) (fun t => (pkgOf t 0).band == 1 && (pkgOf t 0).base.kin.phase == .kindling 3) = true ∧
    leaves (exec (.strapMeasurement 0 bad) (one p)) (fun t => (pkgOf t 0).rdF (kindlePage + Off.KINDLE_STAT) 5 3 == 1) = true ∧
    leaves (exec (.strapMeasurement 0 bad) (one (p.wrF (kindlePage + Off.KINDLE_STAT) 5 3 4))) (fun t => (pkgOf t 0).band == 15
      && (pkgOf t 0).rdF (pg 3 0 + Off.STRAP_STAT) 14 14 == 1) = true ∧
    (bandHub q.band).getD q.base.kin.hubTried = 0 ∧ bandHub q.band = none ∧
    leaves (exec (.hubSelfTestDone (.pkg 0) 0 true) (one q)) (fun t => (pkgOf t 0).base.kin.phase == .kindling 4) = true ∧
    leaves (exec (.hubSelfTestDone (.pkg 0) 0 false) (one q)) (fun t => (pkgOf t 0).base.kin.hubTried == 1) = true ∧
    leaves (exec (.hubSelfTestDone (.weir 0) 0 true) (oneWeir { weirLive with base := { weirLive.base with
      kin := { weirLive.base.kin with phase := .kindling 3, refclk := true } } }))
      (fun t => (weirOf t 0).base.kin.phase == .kindling 4) = true := by
  decide +kernel

/-- Package 0 in kindling phase 4, its image running or not, so many slots failed. -/
def phase4 (running : Bool) (fails : Nat) : Package :=
  let p := inPhase (.kindling 4)
  { p with base := { p.base with kin := { p.base.kin with imgRunning := running, slotsFailed := fails, imgTries := 1 } } }

/-- A Weir in the same phase. -/
def weirPhase4 (running : Bool) (fails : Nat) : Weir :=
  { weirLive with base := { weirLive.base with kin := { weirLive.base.kin with phase := .kindling 4, imgRunning := running, slotsFailed := fails, imgTries := 1 } } }

/-- ImageAndBlob: slots that fail, an image of another length, blob requests. The signature's outcome is free. -/
theorem witness_ImageAndBlob :
    wantsImage (phase4 false 0).base = true ∧ (phase4 false 0).base.msp.inbox = [] ∧ isSealed (phase4 false 0) = false ∧
    leaves (exec (.imageRequestTimeout (.pkg 0)) (one (phase4 false 0))) (fun t => (pkgOf t 0).base.kin.slot == 1
      && (pkgOf t 0).base.kin.fallback) = true ∧
    leaves (exec (.imageRequestTimeout (.pkg 0)) (one (phase4 false 1))) (fun t => (pkgOf t 0).base.kin.slotsFailed == 2) = true ∧
    leaves (exec (.imageSlotRetry (.pkg 0)) (one (phase4 false 2))) (fun t => (pkgOf t 0).base.kin.slotsFailed == 0) = true ∧
    leaves (exec (.bulkDone (.pkg 0) 1 8) (one (phase4 false 0))) (fun t => (pkgOf t 0).base.kin.imgTries == 2) = true ∧
    leaves (exec (.bulkUnavailable (.pkg 0) 1) (one (phase4 false 0))) (fun t => (pkgOf t 0).base.kin.imgTries == 2) = true ∧
    leaves (exec (.blobRequestRetry (.pkg 0)) (one (phase4 true 0))) (fun t =>
      (pkgOf t 0).rdF (kindlePage + Off.KINDLE_STAT) 23 16 == 1) = true ∧
    wantsImage (weirPhase4 false 0).base = true ∧
    leaves (exec (.imageRequestTimeout (.weir 0)) (oneWeir (weirPhase4 false 0))) (fun t => (weirOf t 0).base.kin.slot == 1) = true ∧
    leaves (exec (.blobRequestRetry (.weir 0)) (oneWeir (weirPhase4 true 0))) (fun t => (weirOf t 0).base.kin.phase == .kindling 4) = true := by
  decide +kernel

/-- ImageAndBlob: bench mode ends on bench defaults, and a blob that is valid. -/
theorem witness_ImageAndBlob_bench :
    let bench := ((phase4 true 0).wrF (pg 3 0 + Off.STRAP_STAT) 3 0 8).wrF (kindlePage + Off.KINDLE_STAT) 23 16 3
    let blob := blobOf 0 []
    let p : Package := { bench with base := { bench.base with msp := { bench.base.msp with bulkIn := blob } } }
    bench.bench = true ∧
    leaves (exec (.blobRequestRetry (.pkg 0)) (one bench)) (fun t => (pkgOf t 0).base.kin.phase == .bringup 1) = true ∧
    wantsBlob p.base = true ∧ readBlob blob 0 [] = some [] ∧ p.base.msp.bulkIn.length = 16 ∧
    leaves (exec (.bulkDone (.pkg 0) 2 16) (one p)) (fun t => (pkgOf t 0).base.kin.phase == .bringup 1) = true := by
  decide +kernel

/-- BringupSteps: the hold, the links, the tiles, the stacks, a Weir's ports. -/
theorem witness_BringupSteps :
    let links := (List.range 48).map fun i => ({ link := i, modules := 15, repaired := [2, 0, 0, 0] } : LinkResult)
    let tiles := [({ die := 0, engines := 0xFFFF, failingLines := [], factory := [] } : TileResult)]
    Safety.reaches (one (inPhase .held)) 0 .pf (kindlePage + Off.BRINGUP_CTL) .kindle = true ∧
    leaves (exec (.mspRelease 0) (one (inPhase .held))) (fun t => (pkgOf t 0).base.kin.phase == .bringup 1) = true ∧
    leaves (exec (.bringupRelease 0 .pf) (one (inPhase .held))) (fun t => (pkgOf t 0).base.kin.phase == .bringup 1) = true ∧
    links.all linkOk = true ∧
    links.length = 48 ∧
    leaves (exec (.dieLinksTrained 0 [{ link := 3, modules := 7, repaired := [] }]) (one (inPhase (.bringup 1))))
      (fun t => (pkgOf t 0).base.kin.phase == .failed) = true ∧
    (passingTiles (inPhase (.bringup 2)) tiles).length = 1 ∧
    leaves (exec (.tileTestDone 0 tiles) (one (inPhase (.bringup 2)))) (fun t => (pkgOf t 0).base.kin.phase == .bringup 3
      && (pkgOf t 0).rd (hubPage 1 + Off.LTILE_COUNT) == 1) = true ∧
    leaves (exec (.tileTestDone 0 []) (one (inPhase (.bringup 2)))) (fun t => (pkgOf t 0).base.kin.phase == .failed) = true ∧
    (inPhase (.bringup 3)).bench = false ∧
    leaves (exec (.dramTrainingDone 0 0xFF 0) (one (inPhase (.bringup 3)))) (fun t => (pkgOf t 0).base.kin.phase == .bringup 4) = true ∧
    portsSettled (inPhase (.bringup 4)).base = true ∧
    (let w : Weir := { weirLive with base := { weirLive.base with kin := { weirLive.base.kin with phase := .bringup 4 } } }
     portsSettled w.base = true ∧
     leaves (exec (.portTrainingDone (.weir 0)) (oneWeir w)) (fun t => (weirOf t 0).base.kin.phase == .running) = true) := by
  decide +kernel

/-- The element's MSP slave with a word in its outbox and an access that runs or does not. -/
def mspIn (b : Base) (busy : Bool) : Base := { b with msp := { b.msp with outbox := [w32 5], csBusy := busy, csAddr := w32 (tilePage 3 1 + Off.EVT_ROUTE), csLo := 6 } }
def mspPkg (busy : Bool) : Package := { live with base := mspIn live.base busy }
def mspWeir (busy : Bool) : Weir := { weirLive with base := mspIn weirLive.base busy }

/-- MspRegisters: a read and a write of registers, raw words, a partial word. -/
theorem witness_MspRegisters : mspTakes (mspPkg false).base = true ∧ mspTakes (mspWeir false).base = true ∧
    leaves (exec (.mspRegisterRead (.pkg 0) 63 2) (one (mspPkg false))) (fun t =>
      (pkgOf t 0).base.msp.lastRead == [0, w32 0x4D500101]) = true ∧
    leaves (exec (.mspRegisterWrite (.pkg 0) 8 [w32 0x40]) (one (mspPkg false))) (fun t => (pkgOf t 0).base.msp.csAddr == w32 0x40) = true ∧
    leaves (exec (.mspRawWrite (.pkg 0) 0 [w32 1, w32 2]) (one (mspPkg false))) (fun t => (pkgOf t 0).base.msp.inbox.length == 2) = true ∧
    leaves (exec (.mspRawWrite (.pkg 0) 32 [w32 1]) (one (mspPkg false))) (fun t => (pkgOf t 0).base.msp.bulkIn.length == 4) = true ∧
    leaves (exec (.mspRawWrite (.pkg 0) 1 [w32 1]) (one (mspPkg false))) (fun t => fld (pkgOf t 0).base.msp.err.toNat 15 8 == 1) = true ∧
    leaves (exec (.mspRawRead (.pkg 0) 0 1) (one (mspPkg false))) (fun t => (pkgOf t 0).base.msp.lastRead == [w32 5]) = true ∧
    mspTakes (inPhase (.inReset 2)).base = false ∧
    leaves (exec (.mspRegisterRead (.pkg 0) 0 2) (one (inPhase (.inReset 2)))) (fun t =>
      (pkgOf t 0).base.msp.lastRead == [w32 0xFFFFFFFF, w32 0xFFFFFFFF]) = true ∧
    leaves (exec (.mspRegisterRead (.weir 0) 0 1) (oneWeir (mspWeir false))) (fun t =>
      (weirOf t 0).base.msp.lastRead == [w32 0x4D500102]) = true := by
  decide +kernel

/-- CsWindow: a GO while BUSY, one without a hub, a read, a fault, a write; the timeout. -/
theorem witness_CsWindow :
    let off : Package := { mspPkg false with base := mspIn (inPhase (.kindling 3)).base false }
    let wrong : Package := { mspPkg false with base := { (mspPkg false).base with msp := { (mspPkg false).base.msp with csAddr := w32 2 } } }
    hubRuns (mspPkg false).base = true ∧ hubRuns off.base = false ∧
    faultReason (mspPkg false) (mspPkg false).base.msp.csAddr.toNat 4 = 0 ∧ faultReason wrong 2 4 = 2 ∧
    leaves (exec (.csGo (.pkg 0) 1) (one (mspPkg true))) (fun t => (pkgOf t 0).base.msp.csResult == 4) = true ∧
    leaves (exec (.csGo (.pkg 0) 1) (one off)) (fun t => (pkgOf t 0).base.msp.csBusy) = true ∧
    leaves (exec (.csGo (.pkg 0) 1) (one (mspPkg false))) (fun t => (pkgOf t 0).base.msp.csLo == 1) = true ∧
    leaves (exec (.csGo (.pkg 0) 1) (one wrong)) (fun t => (pkgOf t 0).base.msp.csResult == 1) = true ∧
    leaves (exec (.csGo (.pkg 0) 3) (one (mspPkg false))) (fun t => (pkgOf t 0).rd (tilePage 3 1 + Off.EVT_ROUTE) == 6) = true ∧
    leaves (exec (.csTimeout (.pkg 0)) (one (mspPkg true))) (fun t => (pkgOf t 0).base.msp.csResult == 3) = true ∧
    hubRuns (mspWeir false).base = true ∧
    (let w : Weir := { mspWeir false with base := { (mspWeir false).base with msp := { (mspWeir false).base.msp with csAddr := w32 0x10000 } } }
     weirRead w 0x10000 4 = some (rd w.base 0x10000) ∧
     leaves (exec (.csGo (.weir 0) 1) (oneWeir w)) (fun t => (weirOf t 0).base.msp.csResult == 0) = true) ∧
    leaves (exec (.csTimeout (.weir 0)) (oneWeir (mspWeir true))) (fun t => (weirOf t 0).base.msp.csResult == 3) = true := by
  decide +kernel

/-! ## Die links, budgets, power and cooling -/

/-- A flit of four slices whose data begin with a header. -/
def sliceFor (b : Bytes) : Bytes := let d := (b ++ zeros 62).take 62; d ++ le 2 (crc16 d)
def flitFor (head : Nat) : Flit := { slices := [sliceFor (le 4 head), sliceFor [], sliceFor [], sliceFor []] }

/-- DieLinks: a flit in turn, one out of its turn, a failed slice, a replay request, a module retrained and one that is not; the
slices of a full flit of data. -/
theorem witness_DieLinks :
    let bad : Flit := { slices := (flitFor 0x100000).slices.set 2 (zeros 64 |>.set 0 1) }
    let i0 : FlitItem := { type := 1, data := le 8 77 }
    let again : Package := live.setLink 0 1 { (live.link 0 1) with retraining := some 2, replay := [(0, i0), (1, i0)], txSeq := 2 }
    let x := live.link 0 1
    let d := flitData (flitFor 0x9100000)
    x.active.length = 4 ∧ (flitFor 0x100000).slices.all sliceOk = true ∧ x.fails = [] ∧
    bad.slices.all sliceOk = false ∧ fld (fieldAt d 0 4) 23 20 = 1 ∧ bitOf (fieldAt d 0 4) 16 = false ∧
    ((x.take d).rxSeq = 1 ∧ mget [] (x.take d).rxBuf 0 = d.drop 4 ∧ mget 0 (x.take d).credits 0 = 9) ∧
    leaves (exec (.flitReceive 0 0 1 (flitFor 0x100000)) (one live)) (fun t => ((pkgOf t 0).link 0 1).rxSeq == 1) = true ∧
    leaves (exec (.flitReceive 0 0 1 (flitFor 0x100005)) (one live)) (fun t => ((pkgOf t 0).link 0 1).rxSeq == 0) = true ∧
    leaves (exec (.flitReceive 0 0 1 bad) (one live)) (fun t => ((pkgOf t 0).link 0 1).asked && ((pkgOf t 0).link 0 1).rxSeq == 0) = true ∧
    ((again.link 0 1).active ≠ [] ∧ (again.link 0 1).replay.all (fun e => decide (e.2.data.length ≤ (again.link 0 1).room)) = true) ∧
    leaves (exec (.flitReplayRequest 0 0 1 0) (one again)) (fun t => ((pkgOf t 0).link 0 1).replay == [(1, i0)]
      && ((pkgOf t 0).link 0 1).sent.length == 1) = true ∧
    ((again.link 0 1).slices 3 i0).all sliceOk = true ∧ (again.link 0 1).waiting = [] ∧
    leaves (exec (.moduleRetrainDone 0 0 1 2 true) (one again)) (fun t => ((pkgOf t 0).link 0 1).retraining == none) = true ∧
    leaves (exec (.moduleRetrainDone 0 0 1 2 false) (one again)) (fun t => bitOf ((pkgOf t 0).link 0 1).fenced 2) = true := by
  decide +kernel

/-- DieLinks: the rings. A leg that crosses between positions 5 and 0, memory die to link die, two tile dies on no ring together. -/
theorem witness_DieLinks_routes :
    ((ringWalk 2 0 true false 3 4).map fun h => h.vc) = [4, 5, 5] ∧ ((ringWalk 2 0 false false 3 1).map fun h => h.vc) = [4, 5, 5] ∧
    ((ringRoute 3 19 17 (2 ^ 11)).map fun h => h.vc / 2) = [3, 1] ∧
    (ringRoute 0 0 15 0).length ≤ 6 ∧ (ringRoute 0 0 15 0).head?.map (fun h => h.die) = some 0 ∧
    (ringRoute 0 0 15 0).getLast?.map (fun h => h.next) = some 15 ∧
    turnTile 16 18 0 = 0 ∧ turnTile 16 19 0x1800 = 7 ∧ turnTile 17 18 0x800 = 13 := by
  decide +kernel

/-- DieBudgets: a first message and an old one, a report, a fallback, samples over and under, a silent tile die and link die. -/
theorem witness_DieBudgets :
    let m := le 1 1 ++ le 1 16 ++ le 2 5 ++ le 2 200 ++ le 2 100 ++ le 2 800 ++ le 1 0 ++ le 1 3
    let p := live.setBudget 16 { (live.budget 16) with seen := true, seq := 5, budget := 200, fallback := 100, tLimit := 800 }
    let r := le 1 2 ++ le 1 16 ++ le 2 0 ++ le 4 77 ++ le 4 88 ++ le 1 0
    let gone (d : Nat) := live.setBudget d { (live.budget d) with missing := 3 }
    let last := live.setBudget 3 { (live.budget 3) with samples := 99, sum := 500, peak := 9 }
    byteAt m 0 = 1 ∧ byteAt m 1 = 16 ∧ (live.budget 16).seen = false ∧ serialGt 16 5 (p.budget 16).seq = false ∧
    leaves (exec (.budgetMessage 0 16 m) (one live)) (fun t => (((pkgOf t 0).budget 16).fallback == 100)) = true ∧
    leaves (exec (.budgetMessage 0 16 m) (one p)) (fun t => (((pkgOf t 0).budget 16).ignored == 1)) = true ∧
    bitOf (byteAt r 12) 2 = false ∧
    leaves (exec (.dieReport 0 r) (one p)) (fun t => (pkgOf t 0).rd (diePowerPage 16 + Off.DIE_POWER) == 77) = true ∧
    (fieldAt (reportBytes p 16) 2 2 = 5 ∧ fieldAt (reportBytes last 3) 4 2 = 5 ∧ fieldAt (reportBytes last 3) 6 2 = 9) ∧
    leaves (exec (.budgetFallback 0 16) (one p)) (fun t => enforced 16 ((pkgOf t 0).budget 16) == 100) = true ∧
    leaves (exec (.diePowerSample 0 16 9999 0) (one p)) (fun t => ((pkgOf t 0).budget 16).held == 1) = true ∧
    leaves (exec (.diePowerSample 0 16 0 800) (one p)) (fun t => ((pkgOf t 0).budget 16).limited) = true ∧
    3 ≠ hubDieId last ∧
    leaves (exec (.diePowerSample 0 3 10 0) (one last)) (fun t => ((pkgOf t 0).budget 3).samples == 0 && ((pkgOf t 0).budget 3).peak == 0) = true ∧
    leaves (exec (.budgetTick 0) (one p)) (fun t => (pkgOf t 0).pwr.budgetSeq == 1) = true ∧
    tileOfDie live 0 = some 0 ∧ hollowPage live.base (tilePage 0 0) = false ∧ ((gone 0).budget 0).silent = false ∧
    leaves (exec (.dieSilent 0 0) (one (gone 0))) (fun t => hollowPage (pkgOf t 0).base (tilePage 0 0)) = true ∧
    ((gone 19).budget 19).missing = 3 ∧ ((gone 19).budget 19).silent = false ∧
    (live.budget 3).missing < 3 := by
  decide +kernel

/-- DieBudgets: the die of no logical tile. -/
theorem witness_DieBudgets_spare :
    let q := ((live.wrF (kindlePage + Off.BRINGUP_STAT) 2 0 7).wrF (hubPage 1 + Off.LTILE_COUNT) 4 0 15).setBudget 15
      { (live.budget 15) with missing := 3 }
    tileOfDie q 15 = none ∧ leaves (exec (.dieSilent 0 15) (one q)) (fun t => ((pkgOf t 0).budget 15).silent) = true := by
  decide +kernel

/-- ClockModeAndLearning: a change with every die quiesced and one without. -/
theorem witness_ClockModeAndLearning :
    let busy := live.wrF (tilePage 3 0 + Off.PAGE_CTRL) 0 0 1
    Safety.reaches (one live) 0 .pf (powerPage + Off.PWR_CTL) .power = true ∧ allDiesQuiesced live = true ∧
    live.rdF (powerPage + Off.PWR_CTL) 0 0 = 0 ∧ allDiesQuiesced busy = false ∧
    leaves (exec (.clkModeWrite 0 .pf 1) (one live)) (fun t => (pkgOf t 0).dies.changing) = true ∧
    leaves (exec (.clkModeWrite 0 .pf 1) (one busy)) (fun t => !(pkgOf t 0).dies.changing) = true ∧
    leaves (exec (.relearn 0 .pf 256) (one live)) (fun t => learning (pkgOf t 0)) = true := by
  decide +kernel

/-- InletStale, PowerCap: a stale inlet and its next write, the cap, a sample. -/
theorem witness_InletStale :
    live.pwr.tInStale = false ∧ Safety.reaches (one live) 0 .cs (pw Off.T_IN) .power = true ∧
    leaves (exec (.inletStale 0) (one live)) (fun t => inletT (pkgOf t 0) == 320 && forecast (pkgOf t 0) 2000 == 320
      && bitOf ((pkgOf t 0).rd (powerPage + Off.EVT_STAT)) 6) = true ∧
    leaves (exec (.tInWrite 0 240) (one live)) (fun t => inletT (pkgOf t 0) == 240) = true ∧
    leaves (exec (.capEvaluation 0) (one live)) (fun t => (pkgOf t 0).rdF (pw Off.CAP_EFF) 10 0 == 400) = true ∧
    leaves (exec (.inputPowerSample 0 800) (one live)) (fun t => (pkgOf t 0).rdF (pw Off.P_IN) 15 0 == 800) = true := by
  decide +kernel

/-- BrakeAndNotices: the brake, its release; a notice that is late, and its end; one with no end. -/
theorem witness_BrakeAndNotices :
    let n : Notice := { atNs := 0, power := 900, pitch := 0, durMs := 5, inForce := false, started := 0 }
    let with' (n : Notice) : State := one { live with pwr := { live.pwr with notice := some n } }
    live.inReset = false ∧ live.base.pins.brake = false ∧ (inPhase (.inReset 3)).inReset = true ∧
    leaves (exec (.brakeAssert 0) (one live)) (fun t => braked (pkgOf t 0) && ((pkgOf t 0).budget 19).halved) = true ∧
    leaves (exec (.brakeRelease 0) (next (exec (.brakeAssert 0) (one live)))) (fun t => !braked (pkgOf t 0)) = true ∧
    Safety.reaches (one live) 0 .pf (pw (Off.LOAD_NOTICE + 12)) .power = true ∧
    leaves (exec (.loadNoticeArm 0 .pf 5) (one live)) (fun t => (pkgOf t 0).pwr.notice.isSome
      && bitOf ((pkgOf t 0).rd (powerPage + Off.EVT_STAT)) 7) = true ∧
    leaves (exec (.noticeInForce 0) (with' n)) (fun t => (pkgOf t 0).rdF (pw Off.NOTICE_GRANT) 16 16 == 1) = true ∧
    leaves (exec (.noticeExpire 0) (with' { n with inForce := true })) (fun t => (pkgOf t 0).pwr.notice == none) = true ∧
    leaves (exec (.noticeExpire 0) (with' { n with durMs := 0 })) (fun t => (pkgOf t 0).pwr.notice.isSome) = true := by
  decide +kernel

/-- PowerCap: the critical condition and its end. -/
theorem witness_PowerCap :
    let hot : Package := { live with pwr := { live.pwr with criticalSince := some 0, capDie := 399 } }
    let cool : Package := { live with pwr := { live.pwr with okSince := some 0 } }
    bitOf (hot.rd (pw Off.THERMAL_STAT)) 1 = false ∧ hot.hub.hosted = [] ∧
    leaves (exec (.thermalCritical 0) (one hot)) (fun t => bitOf ((pkgOf t 0).rd (pw Off.THERMAL_STAT)) 1
      && bitOf ((pkgOf t 0).rd (powerPage + Off.EVT_STAT)) 3) = true ∧
    leaves (exec (.criticalClear 0) (one cool)) (fun t => !bitOf ((pkgOf t 0).rd (pw Off.THERMAL_STAT)) 1) = true ∧
    leaves (exec (.fantailSample 0) (one live)) (fun t => (pkgOf t 0).pwr.samples.length == 1) = true := by
  decide +kernel

/-! ## Memory, tiles, hoppers and pegs -/

/-- Bytes of a descriptor: an opcode, flags, and fields given as place, length, value. -/
def dsc (op fl : Nat) (f : List (Nat × Nat × Nat)) : Bytes :=
  f.foldl (fun b e => b.take e.1 ++ le e.2.1 e.2.2 ++ b.drop (e.1 + e.2.1)) (le 1 op ++ le 1 fl ++ zeros 62)

/-- A running package with tile 0 enabled, its first granules scrubbed, both memory dies enabled and stack 0 trained. -/
def tiled : Package :=
  let p := [tilePage 0 0, tilePage 0 1, tilePage 0 2, tilePage 0 8, pg 0x22 0, pg 0x23 0].foldl
    (fun (p : Package) a => p.wrF (a + Off.PAGE_CTRL) 0 0 1) live
  let p := (p.wr (scrubReg 0 0) 0).wrF (stackPage 0 + Off.STACK_STAT) 0 0 1
  { p with mem := { p.mem with dramClean := [0] } }
def ref0 : HopRef := .tile 0 0
/-- Its hopper 0 holds descriptor 0 in a stage. -/
def holding (s : Stage) (b : Bytes) : Package := tiled.setHop ref0 [{ idx := 0, bytes := b, stage := s }]
def issued (b : Bytes) : Package := holding .issued b
/-- Memory bytes put at an offset. -/
def Package.poke (p : Package) (a : Nat) (b : Bytes) : Package := { p with mem := { p.mem with cells := memWrite p.mem.cells a b } }
/-- The status a finished descriptor 0 of hopper 0 of package 0 carries. -/
def ended (t : State) (st : Nat) : Bool := ((pkgOf t 0).hop ref0).any fun e => decide (e.stage = .finished ∧ e.status = st)
def got (t : State) (a n : Nat) : Bytes := (List.range n).map fun i => byteValue (pkgOf t 0) (a + i)

/-- The manual's address of the interleaved alias, its last byte, and the low-bits setting (R115). -/
theorem test_interleave :
    ilvToExposed 0 0x34800 = 0x2D00006800 ∧ ilvToExposed 1 0 = 0 ∧ ilvToExposed 1 0x47FFFFFFFF = 0x47FFFFFFFF ∧
    ilvToExposed 0 0x47FFFFFFFF < 0x4800000000 ∧ ilvToExposed 1 0x800 = 0x900000000 := by
  decide +kernel

/-- MemoryWrites, PartialSectorWrites, UnscrubbedReads: scrubbed and unscrubbed bytes, a bad sector partly and wholly written, a
hollow stack. -/
theorem witness_MemoryWrites :
    let bad : Package := { tiled with mem := { tiled.mem with cells := memWrite [] 0x40 [7, 8], dramBad := [2] } }
    let gone := tiled.wrF (stackPage 1 + Off.STACK_STAT) 1 1 1
    inRegion tiled 0x47FFFFFFFF 1 = true ∧ inRegion tiled 0x47FFFFFFFF 2 = false ∧ memWf bad.mem.cells = true ∧
    ((writeMem tiled 0 0x1FFFFF [some 9, none]).2 = 0 ∧ byteValue (writeMem tiled 0 0x1FFFFF [some 9, some 4]).1 0x200000 = 4) ∧
    byteValue (writeMem tiled 0 0x200001 [some 9]).1 0x200001 = 9 ∧
    ((writeBytes bad 0 0x41 [1, 2]).2 = St.dataUncorrectable ∧ byteValue (writeBytes bad 0 0x41 [1, 2]).1 0x41 = 8) ∧
    ((writeBytes bad 0 0x5F [1, 2]).2 = St.dataUncorrectable ∧ byteValue (writeBytes bad 0 0x5F [1, 2]).1 0x60 = 2) ∧
    ((writeBytes bad 0 0x40 (List.replicate 32 3)).2 = 0 ∧ byteValue (writeBytes bad 0 0x40 (List.replicate 32 3)).1 0x41 = 3) ∧
    unscrubbed bad 0x200000 = true ∧ unscrubbed bad 0x1FFFFF = false ∧
    nth none (readMem bad 0 0x1FFFFF 2).2.2 1 = some 0 ∧ (readMem bad 0 0x200000 4).2.2 = List.replicate 4 (some 0) ∧
    (deadAt gone 0x900000000 = true ∧ (readMem gone 0 0x900000000 1).2.1 = St.hollowUnit) := by
  decide +kernel

/-- FormatsRoundTrip: the smallest and the largest finite values, an infinity, a NaN, and an integer beyond INT8. -/
theorem witness_FormatsRoundTrip :
    (∀ f ∈ [(0, 1), (0, 0x7F7FFFFF), (0, 0xFF800000), (1, 0x8000), (2, 0x3FF), (3, 0x7E), (4, 0x7B)],
      encodeElem f.1 (decodeElem f.1 f.2) = (f.2, false)) ∧
    decodeElem 0 0x7FC00001 = .nan ∧ encodeElem 0 .nan = (0x7FC00000, false) ∧ decodeElem 3 0xFF = .nan ∧
    (encodeElem 8 (ofInt 128 0) = (127, true) ∧ encodeElem 8 (ofInt (-129) 0) = (128, true) ∧ encodeElem 8 (decodeElem 8 0x80) = (0x80, false)) := by
  decide +kernel

/-- CopyFillVector: a copy from DRAM into a tile, from a bad sector, a fill of nine bytes. -/
theorem witness_CopyAndFill :
    let c := dsc 1 0 [(16, 8, 0x20), (24, 8, 0x8000000000), (32, 4, 33)]
    let p := Package.poke (issued c) 0x20 ((List.range 33).map (BitVec.ofNat 8 ∘ (· + 1)))
    let bad : Package := { p with mem := { p.mem with dramBad := [1] } }
    let f := dsc 2 0 [(16, 8, 0x0807060504030201), (24, 8, 0x800000FFFF), (32, 4, 9)]
    issuedEntry p ref0 0 1 ≠ none ∧ copyReady p { idx := 0, bytes := c } = true ∧ inRegion p 0x20 33 = true ∧
    inRegion p 0x8000000000 33 = true ∧
    leaves (exec (.copy 0 ref0 0) (one p)) (fun t => ended t 0 && got t 0x8000000000 34 == (List.range 33).map (BitVec.ofNat 8 ∘ (· + 1)) ++ [0]) = true ∧
    badAt bad 0x20 = true ∧ (pkgOf (one bad) 0).mem.dramBad = [1] ∧
    inRegion (issued f) 0x800000FFFF 9 = true ∧ issuedEntry (issued f) ref0 0 2 ≠ none ∧
    leaves (exec (.fill 0 ref0 0) (one (issued f))) (fun t => ended t 0 && got t 0x800000FFFF 10 == [1, 2, 3, 4, 5, 6, 7, 8, 1, 0]) = true := by
  decide +kernel

/-- CopyFillVector: each sub-operation on 2.0 and 0.5 (FP32), and one whose second operand is withheld. -/
theorem witness_Vector :
    let v (sub fz : Nat) := dsc 0x20 0 [(16, 4, 0), (20, 4, 0x40), (24, 4, 0x80), (28, 4, 1), (32, 1, sub), (34, 1, fz), (36, 4, 0x3F800000)]
    let p (sub fz : Nat) := Package.poke (issued (v sub fz)) 0x8000000000 (le 4 0x40000000 ++ zeros 60 ++ le 4 0x3F000000)
    let bad : Package := { p 0 0 with mem := { (p 0 0).mem with sramBad := [0x1000000008] } }
    let runs (c : Instr) (sub fz y : Nat) := leaves (exec c (one (p sub fz)))
      (fun t => ended t 0 && got t 0x8000000080 (fmtBits fz / 8) == le (fmtBits fz / 8) y && byteValue (pkgOf t 0) (0x8000000080 + fmtBits fz / 8) == 0)
    issuedEntry (p 0 0) ref0 0 0x20 ≠ none ∧ sramReady ref0 (p 0 0) { idx := 0, bytes := v 0 0 } = true ∧ (vecOf (v 9 1)).sub = 9 ∧
    readStatus (p 0 0) (vecReads 0 (vecOf (v 0 0))) = 0 ∧ readStatus bad (vecReads 0 (vecOf (v 0 0))) = St.dataUncorrectable ∧
    runs (.vectorAdd 0 ref0 0) 0 0 0x40200000 ∧ runs (.vectorMul 0 ref0 0) 1 0 0x3F800000 ∧ runs (.axpy 0 ref0 0) 2 0 0x40200000 ∧
    runs (.vectorMax 0 ref0 0) 3 0 0x40000000 ∧ runs (.vectorMin 0 ref0 0) 4 0 0x3F000000 ∧
    runs (.convert 0 ref0 0) 8 1 0x4000 ∧ runs (.scale 0 ref0 0) 9 0 0x40000000 := by
  decide +kernel

/-- CopyFillVector: EXP, RECIP and RSQRT. -/
theorem witness_VectorFunctions :
    let v (sub : Nat) := dsc 0x20 0 [(16, 4, 0), (24, 4, 0x80), (28, 4, 1), (32, 1, sub)]
    let p (sub : Nat) := Package.poke (issued (v sub)) 0x8000000000 (le 4 0x40800000)
    (vecOf (v 5)).sub = 5 ∧ (vecOf (v 6)).sub = 6 ∧ (vecOf (v 7)).sub = 7 ∧
    leaves (exec (.recip 0 ref0 0) (one (p 6))) (fun t => (pkgOf t 0).tl.pegs == (p 6).tl.pegs) = true ∧
    leaves (exec (.expCmd 0 ref0 0) (one (p 5))) (fun t => ended t 0 && (pkgOf t 0).tl.pegs == (p 5).tl.pegs) = true ∧
    leaves (exec (.rsqrt 0 ref0 0) (one (p 7))) (fun t => ended t 0 && (pkgOf t 0).tl.pegs == (p 7).tl.pegs) = true := by
  decide +kernel

/-- Matmul: 1 × 1 × 2 in BF16 to FP32, withheld, a NOP, an engine's failure. -/
theorem witness_Matmul :
    let m := dsc 0x10 0 [(16, 4, 0), (20, 4, 0x40), (28, 4, 0x80), (32, 2, 1), (34, 2, 1), (36, 2, 2), (38, 1, 0x11), (39, 1, 0), (60, 1, 1)]
    let p := Package.poke (issued m) 0x8000000000 (le 2 0x4000 ++ le 2 0x3F80 ++ zeros 60 ++ le 2 0x4000 ++ le 2 0x3F80)
    let bad : Package := { p with mem := { p.mem with sramBad := [0x1000000008] } }
    let n := issued (dsc 0 0 [])
    let x := matOf m
    issuedEntry p ref0 0 0x10 ≠ none ∧ x.n * 4 ≤ x.sd ∧ sramReady ref0 p { idx := 0, bytes := m } = true ∧
    readStatus p (matReads 0 x) = 0 ∧ readStatus bad (matReads 0 x) = St.dataUncorrectable ∧
    leaves (exec (.matmul 0 ref0 0) (one p)) (fun t => ended t 0 && got t 0x8000000080 5 == le 4 0x40A00000 ++ [0]) = true ∧
    issuedEntry n ref0 0 0 ≠ none ∧ leaves (exec (.nop 0 ref0 0) (one n)) (fun t => ended t 0) = true ∧
    bitOf x.mask 0 = true ∧ 0 ∈ logicalOf p 0 0 ∧
    ref0 ∈ hopsOn p 0 ∧
    maskHollow p 0 x.mask = false ∧ maskHollow (p.wrF (tilePage 0 0 + Off.ME_HOLLOW) 7 0 1) 0 x.mask = true ∧
    leaves (exec (.matmul 0 ref0 0) (one (p.wrF (tilePage 0 0 + Off.ME_HOLLOW) 7 0 1))) (fun t => ended t St.hollowUnit) = true ∧
    leaves (exec (.engineFailed 0 15 8) (one p)) (fun t => mget 0 (pkgOf t 0).tl.fencedEngines 15 == 256) = true := by
  decide +kernel

/-- ATTEND of one query of 64 zeros over one block; and one whose entry is misaligned. -/
def attendDsc : Bytes :=
  dsc 0x30 0 [(16, 4, 0), (20, 4, 0x100), (24, 8, 0x1000), (32, 4, 1), (48, 2, 1), (50, 2, 64), (52, 1, 1), (54, 1, 0x31), (55, 1, 0), (56, 1, 1)]
def attending (ent : Nat) : Package := Package.poke (issued attendDsc) 0x1000 (le 8 ent)

/-- The entry of the block at 1 MiB is none of R127's faults. -/
theorem attending_entry : entryFault (attending 0x100000) 0 (attOf attendDsc) 0x100000 = 0 := by
  have hl : kvBlockLen (attOf attendDsc) = 32768 := by decide +kernel
  have hs : inStack 0 0x100000 (kvBlockLen (attOf attendDsc)) := by rw [hl]; exact ⟨by decide, by decide, by decide⟩
  have hr : inRegion (attending 0x100000) 0x100000 (kvBlockLen (attOf attendDsc)) = true :=
    inRegion_dram _ (by rw [hl]; decide) (by rw [hl]; decide)
  have ha : (canonRange (attending 0x100000) 0x100000 (kvBlockLen (attOf attendDsc))).any (deadAt (attending 0x100000)) = false := by
    rw [List.any_eq_false]
    intro c hc
    simp [deadAt_stack _ hs (by decide +kernel) c hc]
  simp [entryFault, hr, ha]

/-- A run over one block that counts no error and finds no fault. -/
theorem attRun_one {p : Package} {t pitch ent : Nat} {x : Att}
    (h0 : readNoted p (rowBytes (sramBase t + x.q) 1 0 (fmtLen x.fq (x.nq * x.dim))) (p.dieOfTile t) = (p, 0))
    (h1 : readNoted p (canonRange p (x.bt + 8 * 0) 8) (p.dieOfTile t) = (p, 0))
    (h2 : ofLe ((canonRange p (x.bt + 8 * 0) 8).map (byteValue p)) = ent) (h3 : entryFault p pitch x ent = 0)
    (h4 : readNoted p (blockNeeds p x 0 ent) (p.dieOfTile t) = (p, 0)) (h5 : attBlocks x = 1) :
    attRun p t pitch x = { pkg := p, blocks := [ent] } := by
  simp only [attRun, h0, h5, List.range_one, List.foldl_cons, List.foldl_nil, attReach, ne_eq, not_true, if_false, h1, h2, h3, h4,
    List.nil_append]

/-- Attend: what the statement asks holds of a complete table. -/
theorem witness_Attend :
    let p := attending 0x100000
    let x := attOf attendDsc
    let e : HopEntry := { idx := 0, bytes := attendDsc, stage := .issued }
    issuedEntry p ref0 0 0x30 = some e ∧ x.fo = 0 ∧ x.useStats = false ∧
      x.o + x.nq * x.dim * 4 ≤ sramSize ∧ x.stats + 8 * x.nq ≤ sramSize ∧ pitchOfHop p ref0 = 0 ∧
      readStatus p (rowBytes (sramBase 0 + x.q) 1 0 (fmtLen x.fq (x.nq * x.dim))) = 0 ∧ readStatus p (canonRange p x.bt 8) = 0 := by
  decide +kernel

theorem attendReady_one {p : Package} {r : HopRef} {e : HopEntry} {ent : Nat} (h0 : sramReady r p e = true)
    (h1 : memReady p (attOf e.bytes).bt 8 = true) (h2 : attBlocks (attOf e.bytes) = 1)
    (h3 : ofLe ((canonRange p ((attOf e.bytes).bt + 8 * 0) 8).map (byteValue p)) = ent)
    (h4 : (blockNeeds p (attOf e.bytes) 0 ent).all (fun c => servesAt p c && !zeroQueued p c) = true) : attendReady r p e = true := by
  simp only [attendReady, h0, h2, Nat.mul_one, h1, List.range_one, List.all_cons, List.all_nil, h3, h4, Bool.or_true, Bool.and_true]

theorem witness_Attend_ready : attendReady ref0 (attending 0x100000) { idx := 0, bytes := attendDsc, stage := .issued } = true :=
  attendReady_one (ent := 0x100000) (by decide +kernel) (by decide +kernel) (by decide +kernel) (by decide +kernel) (by decide +kernel)

theorem witness_Attend_run : attRun (attending 0x100000) 0 0 (attOf attendDsc) = { pkg := attending 0x100000, blocks := [0x100000] } :=
  attRun_one (ent := 0x100000) (by decide +kernel) (by decide +kernel) (by decide +kernel) attending_entry (by decide +kernel) (by decide +kernel)

/-- Attend: a misaligned entry ends it. -/
theorem witness_AttendFault :
    let p := attending 0x100001
    attendReady ref0 p { idx := 0, bytes := attendDsc } = true ∧ readStatus p (canonRange p 0x1000 8) = 0 ∧
    entryFault p 0 (attOf attendDsc) 0x100001 = St.addressFault ∧ (attRun p 0 0 (attOf attendDsc)).status = St.addressFault := by
  decide +kernel

/-- The tile page of hopper registers reset to a ring of 2^6 slots at 0, with room. -/
def hop0 (off : Nat) : Nat := hopReg 0 0 off
def ringed (head tail : Nat) : Package :=
  ((tiled.wr (hop0 Off.HOP_CFG) 0x106).wr (hop0 Off.HOP_HEAD) head).wr (hop0 Off.HOP_TAIL) tail

/-- Hoppers: a tail at the ring's bound and beyond it, from the page and from a core; RUN and RESUME. -/
theorem witness_HopperRegisters :
    let p := (ringed 0 0).wrF (coreStatReg 0 0) 2 0 1
    let halted := p.wrF (hopStatReg ref0) 0 0 1
    let bit4 (t : State) := bitOf ((pkgOf t 0).rd (tilePage 0 1 + Off.EVT_STAT)) 4
    Safety.reaches (one p) 0 .pf (hop0 Off.HOP_TAIL) .tile1 = true ∧ Safety.reaches (one p) 0 .pf (hop0 Off.HOP_CFG) .tile1 = true ∧
    coreActive p 0 0 = true ∧ strikingPage p.base (tilePage 0 1) = false ∧ ringSize 6 12 6 = 6 ∧
    leaves (exec (.hopTailWrite 0 (.page .pf) 0 0 64) (one p)) (fun t => (pkgOf t 0).rd (hop0 Off.HOP_TAIL) == 64 && !bit4 t) = true ∧
    leaves (exec (.hopTailWrite 0 (.core 0) 0 0 65) (one p)) (fun t => (pkgOf t 0).rd (hop0 Off.HOP_TAIL) == 0 && bit4 t) = true ∧
    leaves (exec (.hopRun 0 .pf 0 0 0x006) (one p)) (fun t => !bitOf ((pkgOf t 0).rd (hop0 Off.HOP_CFG)) 8) = true ∧
    leaves (exec (.hopResume 0 .pf 0 0 0x306) (one halted)) (fun t => !hopHalted (pkgOf t 0) ref0) = true := by
  decide +kernel

/-- Hoppers: a fetch inside the tile and beyond it, an issue, a wait that ends, a completion with its bump. -/
theorem witness_HopperQueue :
    let c := dsc 0 0x0F [(2, 2, 7), (6, 2, 5), (12, 4, 3)]
    let p := Package.poke (ringed 0 1) 0x8000000000 c
    let far := (ringed 0 1).wr (hop0 Off.HOP_BASE) 0x50000000
    let w := ((holding .waiting c).wrF (hop0 Off.HOP_WAIT_LIMIT) 23 0 10).mapBase fun b => { b with time := { b.time with now := 10001 } }
    let f := (holding .finished c).wr (pegAllocReg 5) 0x10000
    bitOf (p.rd (hop0 Off.HOP_CFG)) 8 = true ∧ memReady p 0x8000000000 64 = true ∧ placeFor p ref0 = true ∧
    enabledPage p.base (tilePage 0 1) = true ∧
    hopSlot p 0 0 0 = 0 ∧ sramSize < hopSlot far 0 0 0 + 64 ∧ memReady far 0x8050000000 64 = true ∧
    leaves (exec (.descriptorFetch 0 ref0) (one p)) (fun t => (((pkgOf t 0).hop ref0).map (·.bytes)) == [c]) = true ∧
    leaves (exec (.descriptorFetch 0 ref0) (one far)) (fun t => hopHalted (pkgOf t 0) ref0) = true ∧
    headEntry (holding .decoded c) ref0 ≠ none ∧ issuePage 0 .none = none ∧ engineNum 0 c = none ∧
    engineTakes (holding .decoded attendDsc) 3 ref0 = true ∧ issuePage 0 .attend = some (tilePage 0 8) ∧
    enabledPage (holding .decoded attendDsc).base (tilePage 0 8) = true ∧
    leaves (exec (.descriptorIssue 0 ref0) (one (holding .decoded c))) (fun t => (((pkgOf t 0).hop ref0).map (·.stage)) == [.issued]) = true ∧
    leaves (exec (.waitTimeout 0 ref0) (one w)) (fun t => (pkgOf t 0).rdF (hopStatReg ref0) 15 8 == St.waitTimeout) = true ∧
    pegFor f 0 5 = true ∧ hollowPage f.base (tilePage 0 0) = false ∧
    leaves (exec (.descriptorComplete 0 ref0 0) (one f)) (fun t => ((pkgOf t 0).peg 5).counter == 3) = true ∧
    pegExists f 8192 = false ∧ (completeCore f ref0 0 St.addressFault 0 false).tl.pegs = f.tl.pegs := by
  decide +kernel

/-- PegAddWraps, PegOperations: a wrap, a waiter released and one kept, a PEG descriptor on an owned peg and on one that is not. -/
theorem witness_PegOperations :
    let p := (tiled.setPeg 5 { counter := 0xFFFFFFFF, waiters := [.hopper ref0 2, .core 0 9] }).setHop ref0 [{ idx := 0, bytes := [], stage := .waiting }]
    let d (n : Nat) := issued (dsc 0x60 0 [(16, 1, 0), (18, 2, n), (20, 4, 3)])
    let own := (d 5).wr (pegAllocReg 5) 0x10000
    let q := pegApply p 5 (.add 3)
    (q.peg 5).counter = 2 ∧ (q.peg 5).waiters = [.core 0 9] ∧ ((q.hop ref0).map (·.stage)) = [.decoded] ∧
    issuedEntry own ref0 0 0x60 ≠ none ∧ pegFor own 0 5 = true ∧ pegExists (d 8191) 8191 = true ∧
    leaves (exec (.pegAdd 0 ref0 0) (one own)) (fun t => ended t 0 && ((pkgOf t 0).peg 5).counter == 3) = true ∧
    (let foreign := (d 5).wrF (tilePage 0 0 + Off.PITCH_OWNER) 11 0 7
     pegFor foreign 7 5 = false ∧ leaves (exec (.pegAdd 0 ref0 0) (one foreign)) (fun t => ended t St.crossPitch) = true) := by
  decide +kernel

/-- PegOperations: a core's store to a peg of its own and to another's; PEG_ALLOC staged, kept and refused. -/
theorem witness_CorePegs :
    let p := (tiled.wrF (coreStatReg 0 0) 2 0 1).wr (pegAllocReg 511) 0x10000
    let w := p.setPeg 511 { waiters := [.core 0 9] }
    coreActive p 0 0 = true ∧ bitOf (p.rd (pegAllocReg 511)) 16 = true ∧ fld (p.rd (pegAllocReg 511)) 11 0 = ownerOf p.base (tilePage 0 0) ∧
    leaves (exec (.corePegSet 0 0 0 511 8) (one p)) (fun t => ((pkgOf t 0).peg 511).counter == 8) = true ∧
    leaves (exec (.coreWaitArm 0 0 0 511 8) (one p)) (fun t => ((pkgOf t 0).core 0 0).armed == some (511, 8, false)) = true ∧
    leaves (exec (.corePegSet 0 0 0 510 8) (one p)) (fun t => ((pkgOf t 0).peg 510).counter == 0 && (pkgOf t 0).rdF (coreStatReg 0 0) 15 8 == 7) = true ∧
    Safety.reaches (one w) 0 .pf (pegAllocReg 511) .pegs = true ∧ Safety.reaches (one p) 0 .pf (pegAllocReg 0) .pegs = true ∧
    leaves (exec (.pegAllocWrite 0 .pf 0 0x10007) (one p)) (fun t => (pkgOf t 0).rd (pegAllocReg 0) == 0x10007) = true ∧
    leaves (exec (.pegAllocWrite 0 .pf 511 0) (one w)) (fun t => (pkgOf t 0).rd (pegAllocReg 511) == 0x10000) = true ∧
    leaves (exec (.pegAllocWrite 0 .pf 511 0x10005) (one w)) (fun t => (pkgOf t 0).rd (pegAllocReg 511) == 0x10000) = true := by
  decide +kernel

/-- Cores: a start, a hold, a trap with a handler and one without. -/
theorem witness_Cores :
    let p := tiled.wr (coreReg 15 1 Off.RESET_PC) 0x403
    let q := tiled.wrF (tilePage 15 2 + Off.PAGE_CTRL) 0 0 1
    let run := (tiled.wrF (coreStatReg 15 1) 2 0 1).wrF (coreReg 15 1 Off.CORE_CTRL) 0 0 1
    let handled := run.setCore 15 1 { (run.core 15 1) with mtvec := 0x80000100 }
    Safety.reaches (one p) 0 .pf (coreReg 15 1 Off.CORE_CTRL) .tile2 = true ∧ (p.core 15 1).held = true ∧
    enabledPage q.base (tilePage 15 2) = true ∧ coreActive run 15 1 = true ∧ coreActive (run.wrF (coreStatReg 15 1) 2 2 1) 15 1 = false ∧
    leaves (exec (.coreRun 0 .pf 15 1 1) (one q)) (fun t => !((pkgOf t 0).core 15 1).held && coreRuns (pkgOf t 0) 15 1) = true ∧
    leaves (exec (.coreRun 0 .pf 15 1 0) (one run)) (fun t => ((pkgOf t 0).core 15 1).held && !coreRuns (pkgOf t 0) 15 1) = true ∧
    leaves (exec (.coreTrap 0 15 1 2 0x80000010 0) (one handled)) (fun t => ((pkgOf t 0).core 15 1).pc == 0x80000100 && ((pkgOf t 0).core 15 1).mepc == 0x80000010) = true ∧
    leaves (exec (.coreTrap 0 15 1 2 0x80000010 0) (one run)) (fun t => (pkgOf t 0).rdF (coreStatReg 15 1) 1 0 == 2 && bitOf ((pkgOf t 0).rd (tilePage 15 2 + Off.EVT_STAT)) 1) = true := by
  decide +kernel

/-- MemoryRequests: a read, a write, one that waits for a repair, one for a granule; a core's misaligned access; a stack's request
served and one that waits. -/
theorem witness_MemoryRequests :
    let p := Package.poke tiled 0x8000000010 [5, 6]
    let rep : Package := { p with mem := { p.mem with repairing := [(0, (0, 0))] } }
    let core := p.wrF (coreStatReg 0 1) 2 0 1
    let trapped (x : State) (n : Nat) := (pkgOf x 0).rdF (coreStatReg 0 1) 15 8 == n
    let ran (x : State) (a : Nat) (op : MemOp) := exec (.sramAccess 0 0 (.core 1) a op []) x
    waitAt p 0x8000000010 (.write [1]) = none ∧ waitAt p 0x8000200000 (.write [1]) = some (.granule 0 32) ∧
    waitAt rep 0x8000000011 (.write [9]) = some (.tile 0) ∧ memReady p 0x8000000010 2 = true ∧ 0 < p.tiles ∧
    leaves (exec (.sramAccess 0 0 (.tileEngine 0) 0x10 (.read 2) []) (one p)) (fun t => (pkgOf t 0).mem.lastRead == [5, 6]) = true ∧
    leaves (exec (.sramAccess 0 0 (.tileEngine 0) 0x11 (.write [9]) []) (one p)) (fun t => got t 0x8000000010 2 == [5, 9]) = true ∧
    leaves (exec (.sramAccess 0 0 (.tileEngine 0) 0x11 (.write [9]) []) (one rep)) (fun t => (pkgOf t 0).mem.sramWait.length == 1) = true ∧
    leaves (exec (.sramAccess 0 0 (.tileEngine 0) 0x200000 (.write [9]) []) (one p)) (fun t => (pkgOf t 0).mem.zeroWait.length == 1) = true ∧
    coreActive core 0 1 = true ∧ (core.core 0 1).mtvec = 0 ∧
    leaves (ran (one core) 0x2001FFE (.read 2)) (trapped · 5) = true ∧ leaves (ran (one core) 0x2001FFE (.write [1, 2])) (trapped · 7) = true ∧
    leaves (ran (one core) 0x2002002 (.read 4)) (trapped · 4) = true ∧ leaves (ran (one core) 0x80000012 (.write [1, 2, 3, 4])) (trapped · 6) = true ∧
    leaves (ran (one core) (0x80000000 + sramSize) (.read 8)) (trapped · 5) = true ∧
    leaves (ran (one core) (0x80000000 + sramSize) (.write [1])) (trapped · 7) = true ∧
    leaves (ran (one core) 0xFFF8 (.read 8)) (fun t => (pkgOf t 0).mem.lastRead == zeros 8) = true ∧
    leaves (ran (one (core.wr (hopReg 0 3 Off.HOP_DONE) 9)) 0x01000018 (.read 8)) (fun t => (pkgOf t 0).mem.lastRead == le 8 9) = true ∧
    inRegion p 0x1FFFFF 1 = true ∧ waitAt p 0x1FFFFF (.write [7]) = none ∧ (p.stack 0).waiting = [] ∧ deadAt p 0x1FFFFF = false ∧
    leaves (exec (.memoryRequest 0 (.linkDie 3) 0x1FFFFF (.write [7]) []) (one p)) (fun t => got t 0x1FFFFF 2 == [7, 0]) = true ∧
    leaves (exec (.memoryRequest 0 (.linkDie 3) 0x900000000 (.read 1) []) (one (p.wrF (stackPage 1 + Off.STACK_STAT) 0 0 0)))
      (fun t => ((pkgOf t 0).stack 1).waiting.length == 1) = true := by
  decide +kernel

/-- StacksAndRepair: 81, 84 and 85 °C, training lost, retrained and failed, patrol at the last granule, the scrubber, a zeroed granule. -/
theorem witness_Stacks :
    let hot := tiled.wrF (stackPage 7 + Off.STACK_STAT) 3 3 1
    let lost := tiled.wrF (stackPage 0 + Off.STACK_STAT) 0 0 0
    let twice := lost.setStack 0 { (lost.stack 0) with retries := 2 }
    let last := (tiled.wrF (pg 0x22 0 + Off.PATROL_CFG) 7 0 1).wrF (stackPage 0 + Off.PATROL_POS) 14 0 18431
    let wait : Package := { tiled with mem := { tiled.mem with zeroWait := [(16, 1, { xfer := 0, pos := 0, who := .linkDie 0, off := 0x200000, op := .write [3], errs := [] })] } }
    let stat (t : State) (u : Nat) := (pkgOf t 0).rd (stackPage u + Off.STACK_STAT)
    leaves (exec (.stackTempSample 0 7 (some 85)) (one tiled)) (fun t => bitOf (stat t 7) 3 && bitOf ((pkgOf t 0).rd (stackPage 7 + Off.EVT_STAT)) 3) = true ∧
    leaves (exec (.stackTempSample 0 7 (some 82)) (one hot)) (fun t => bitOf (stat t 7) 3) = true ∧
    leaves (exec (.stackTempSample 0 7 (some 81)) (one hot)) (fun t => !bitOf (stat t 7) 3) = true ∧
    stackDead tiled 0 = false ∧ bitOf (lost.rd (stackPage 0 + Off.STACK_STAT)) 0 = false ∧ (twice.stack 0).retries + 1 = 3 ∧
    leaves (exec (.stackTrainingLost 0 0) (one tiled)) (fun t => !bitOf (stat t 0) 0) = true ∧
    leaves (exec (.stackRetrainDone 0 0 true) (one lost)) (fun t => bitOf (stat t 0) 0) = true ∧
    leaves (exec (.stackRetrainDone 0 0 false) (one lost)) (fun t => ((pkgOf t 0).stack 0).retries == 1) = true ∧
    leaves (exec (.stackRetrainDone 0 0 false) (one twice)) (fun t => bitOf (stat t 0) 1) = true ∧
    last.rdF (pg 0x22 0 + Off.PATROL_CFG) 7 0 = 1 ∧ unscrubbed last (18431 * 0x200000) = true ∧
    leaves (exec (.patrolStep 0 0 []) (one last)) (fun t => (pkgOf t 0).rdF (stackPage 0 + Off.PATROL_POS) 14 0 == 0 && bitOf ((pkgOf t 0).rd (stackPage 0 + Off.EVT_STAT)) 4) = true ∧
    leaves (exec (.granuleZeroDone 0 16 1) (one wait)) (fun t => got t 0x200000 2 == [3, 0] && (pkgOf t 0).mem.zeroWait == []) = true := by
  decide +kernel

/-- StacksAndRepair: the scrubber of tile 0 and of stack 0, MEM_CFG, a repair begun and done. -/
theorem witness_ScrubAndRepair :
    let up := tiled.wrF (kindlePage + Off.BRINGUP_STAT) 2 0 4
    let tl := up.wr (tilePage 0 4 + Off.SCRUB_NEXT) 32
    let off := ([pg 0x22 0, pg 0x23 0].foldl (fun (p : Package) a => p.wrF (a + Off.PAGE_CTRL) 0 0 0) tiled).wrF (tilePage 0 3 + Off.REPAIR_FREE) 7 0 4
    let rep : Package := { off with mem := { off.mem with repairing := [(0, (0, 1))], cells := memWrite [] (0x8000000000 + 64 * 80) [1] } }
    let stk := up.setStack 0 { (up.stack 0) with scrubPos := 18431 }
    scrubRuns tl 0 = true ∧ unscrubbed tl (0x8000000000 + 32 * 0x10000) = true ∧
    leaves (exec (.scrubGranuleDone 0 0) (one tl)) (fun t => !unscrubbed (pkgOf t 0) (0x8000000000 + 32 * 0x10000)) = true ∧ scrubRuns stk 16 = true ∧ unscrubbed stk (18431 * 0x200000) = true ∧
    leaves (exec (.scrubGranuleDone 0 16) (one stk)) (fun t => !unscrubbed (pkgOf t 0) (18431 * 0x200000)) = true ∧
    Safety.reaches (one off) 0 .pf (pg 0x22 0 + Off.MEM_CFG) .mem0 = true ∧ quiesced off (pg 0x22 0) = true ∧ quiesced off (pg 0x23 0) = true ∧
    leaves (exec (.memCfgWrite 0 .pf 0 0x18) (one off)) (fun t => (pkgOf t 0).ilvHash == 1 && bitOf ((pkgOf t 0).rd (stackPage 3 + Off.STACK_STAT)) 2) = true ∧
    Safety.reaches (one off) 0 .pf (tilePage 0 3 + Off.REPAIR_ADD) .tile3 = true ∧ quiesced off (tilePage 0 3) = true ∧ spares off 0 0 = 4 ∧
    leaves (exec (.repairAdd 0 .pf 0 0x100) (one off)) (fun t => (pkgOf t 0).mem.repairing == [(0, (0, 1))]) = true ∧
    leaves (exec (.repairDone 0 0) (one rep)) (fun t => (pkgOf t 0).mem.repairing == [] && got t (0x8000000000 + 64 * 80) 1 == [0] && spares (pkgOf t 0) 0 0 == 3) = true := by
  decide +kernel

/-! ## Ports, packets and time -/

/-- Port `q` of package 0 in a training phase; port 17 of package 0 in a state; the same of Weir 0's port 71. -/
def training (q ph n : Nat) (f : Port → Port) : Package :=
  (live.mapBase fun b => b.setPort q (f { phase := ph })).wrF (portReg live.base q Off.PORT_STAT) 5 4 n
def portIn (q st : Nat) (f : Port → Port) : Package := live.mapBase fun b => setPortState (b.setPort q (f {})) q st
def weirPortIn (q st : Nat) (f : Port → Port) : Weir := weirLive.mapBase fun b => setPortState (b.setPort q (f {})) q st
def port0 (t : State) (q : Nat) : Port := (baseOf t (.pkg 0)).port q
def state0 (t : State) (q : Nat) : Nat := portState (baseOf t (.pkg 0)) q
def wport0 (t : State) (q : Nat) : Port := (baseOf t (.weir 0)).port q
def wstate0 (t : State) (q : Nat) : Nat := portState (baseOf t (.weir 0)) q

/-- Training: each phase of port 17, Identify with the right wiring and the wrong one, Verify with and without EXPECT. -/
theorem witness_TrainingPasses :
    let stat := portReg live.base 17 Off.PORT_STAT
    let ids (w : Nat) := (training 17 2 1 fun x => { x with ids := 3 }).wr (portReg live.base 17 Off.PARTNER_ID) w
    let good := 2 + 17 * 2 ^ 24
    let expect (p : Package) := (p.wr (portReg live.base 17 Off.EXPECT_CTL) 0x100)
    rdF (ids good).base stat 5 4 = 1 ∧ wiringOk (ids good).base 17 = true ∧ wiringOk (ids 0).base 17 = false ∧
    moduleReady live.base 17 = true ∧
    leaves (exec (.trainPhasePass (.pkg 0) 17) (one (training 17 1 1 id))) (fun t => (port0 t 17).phase == 2 && state0 t 17 == 2) = true ∧
    leaves (exec (.trainPhasePass (.pkg 0) 17) (one (ids good))) (fun t => (port0 t 17).phase == 3 && state0 t 17 == 3) = true ∧
    leaves (exec (.trainPhasePass (.pkg 0) 17) (one (ids 0))) (fun t => state0 t 17 == 10) = true ∧
    leaves (exec (.trainPhasePass (.pkg 0) 17) (one (training 17 3 1 id))) (fun t => (port0 t 17).phase == 4) = true ∧
    leaves (exec (.trainPhasePass (.pkg 0) 17) (one (training 17 4 1 id))) (fun t => (port0 t 17).phase == 5) = true ∧
    leaves (exec (.trainPhasePass (.pkg 0) 17) (one (training 17 5 1 id))) (fun t => state0 t 17 == 6) = true ∧
    leaves (exec (.trainPhasePass (.pkg 0) 17) (one (expect (training 17 5 1 id)))) (fun t => state0 t 17 == 7) = true := by
  decide +kernel

/-- Training: a fallback, a failed attempt, the third, a retry, identity blocks, WIRING_FAULT, a late EXPECT. -/
theorem witness_TrainingFails :
    let stat := portReg live.base 17 Off.PORT_STAT
    let fast := (training 17 3 1 id).wrF stat 6 6 1
    let block := le 4 7 ++ zeros 12
    let good := block ++ le 4 (crc32 block)
    let ends (t : State) (n : Nat) := (port0 t 17).phase == 1 && rdF (baseOf t (.pkg 0)) stat 5 4 == n
    rdF fast.base stat 6 6 = 1 ∧
    leaves (exec (.trainPhaseTimeout (.pkg 0) 17) (one fast)) (fun t => (port0 t 17).fellBack && (port0 t 17).phase == 3) = true ∧
    leaves (exec (.trainPhaseTimeout (.pkg 0) 17) (one (training 17 1 2 id))) (fun t => ends t 3) = true ∧
    leaves (exec (.trainPhaseTimeout (.pkg 0) 17) (one (training 17 4 3 id))) (fun t => (port0 t 17).parked && state0 t 17 == 9) = true ∧
    leaves (exec (.partnerRestart (.pkg 0) 17) (one (training 17 2 1 id))) (fun t => ends t 2) = true ∧
    portEnabled ((training 17 0 0 fun x => { x with parked := true }).wrF (portPage 17 + Off.PAGE_CTRL) 0 0 1).base 17 = true ∧
    leaves (exec (.trainParkRetry (.pkg 0) 17) (one ((training 17 0 0 fun x => { x with parked := true }).wrF (portPage 17 + Off.PAGE_CTRL) 0 0 1)))
      (fun t => ends t 1 && (port0 t 17).parkedRetry) = true ∧
    leaves (exec (.wiringFaultIdentity (.pkg 0) 17) (one (portIn 17 10 id))) (fun t => (port0 t 17).idSent == identityBlock live.base 17 && (port0 t 17).idSent.length == 20) = true ∧
    good.length = 20 ∧ fieldAt good 16 4 = crc32 (good.take 16) ∧ fieldAt (zeros 20) 16 4 ≠ crc32 ((zeros 20).take 16) ∧
    leaves (exec (.identityBlock (.pkg 0) 17 good) (one (training 17 2 1 id))) (fun t => (port0 t 17).ids == 1 && rd (baseOf t (.pkg 0)) (portReg live.base 17 Off.PARTNER_ID) == 7) = true ∧
    leaves (exec (.identityBlock (.pkg 0) 17 (zeros 20)) (one (training 17 2 1 fun x => { x with ids := 2 }))) (fun t => (port0 t 17).ids == 0) = true ∧
    Safety.reaches (one (portIn 17 6 id)) 0 .pf (portPage 17 + Off.EXPECT_CTL) .port = true ∧ partnerSerial live.base 17 = 0 ∧
    leaves (exec (.expectWrite (.pkg 0) .pf 17 0 0 true) (one (portIn 17 6 id))) (fun t => state0 t 17 == 7) = true := by
  decide +kernel

/-- Training at a Weir: a module that is not ready, a poll, a module removed, a late EXPECT. -/
theorem witness_Optics :
    let w := (weirLive.mapBase fun b => b.setPort 71 { phase := 1 }).mapBase fun b => wrF b (portReg b 71 Off.PORT_STAT) 5 4 1
    moduleReady w.base 71 = false ∧ w.base.isWeir = true ∧
    leaves (exec (.opticsReadyTimeout 0 71) (oneWeir w)) (fun t => (wport0 t 71).phase == 1 && rdF (baseOf t (.weir 0)) (portReg w.base 71 Off.PORT_STAT) 5 4 == 2) = true ∧
    leaves (exec (.opticsPoll 0 71 40 3 true true false) (oneWeir weirLive)) (fun t => (weirOf t 0).rd (0x20000 + 0x80 * 71 + 0x70) == 0x2833) = true ∧
    leaves (exec (.opticsPoll 0 71 40 67 true true false) (oneWeir weirLive)) (fun t => (weirOf t 0).rd (0x20000 + 0x80 * 71 + 0x70) == 0x2833) = true ∧
    leaves (exec (.opticsPoll 0 71 40 3 false true false) (oneWeir (weirPortIn 71 7 id))) (fun t => wstate0 t 71 == 8) = true ∧
    leaves (exec (.expectWrite (.weir 0) .pf 71 0 0 true) (oneWeir (weirPortIn 71 6 id))) (fun t => wstate0 t 71 == 7) = true := by
  decide +kernel

/-- PortsUpAndDown: loss of signal and of lock, a relock, its failure, a down notice, an expired hold, ENABLE and its end. -/
theorem witness_PortsUpAndDown :
    let up := portIn 17 7 fun x => { x with replay := [{ seq := 3, item := .credit 0 1 }] }
    let held := portIn 17 8 fun x => { x with holdStart := some 0, relocking := true, replay := [{ seq := 3, item := .credit 0 1 }] }
    let drain := portIn 17 7 fun x => { x with draining := true }
    let on := live.wrF (portPage 17 + Off.PAGE_CTRL) 0 0 1
    let off := live.wrF (portPage 17 + Off.PAGE_CTRL) 0 0 0
    let cause (t : State) := rdF (baseOf t (.pkg 0)) (portReg live.base 17 Off.PORT_STAT) 15 12
    leaves (exec (.portSignalLoss (.pkg 0) 17 false) (one up)) (fun t => state0 t 17 == 8 && cause t == 1 && (port0 t 17).replay.length == 1) = true ∧
    leaves (exec (.portLockLoss (.pkg 0) 17) (one up)) (fun t => state0 t 17 == 8 && cause t == 2) = true ∧
    leaves (exec (.portRelock (.pkg 0) 17 true) (one held)) (fun t => state0 t 17 == 7 && (port0 t 17).replay.length == 1) = true ∧
    leaves (exec (.relockTimeout (.pkg 0) 17) (one held)) (fun t => (port0 t 17).phase == 1) = true ∧
    leaves (exec (.downNotice (.pkg 0) 17) (one up)) (fun t => (port0 t 17).replay == [] && cause t == 5 && (port0 t 17).phase == 1) = true ∧
    leaves (exec (.downNotice (.pkg 0) 17) (one drain)) (fun t => !(port0 t 17).draining && (port0 t 17).phase == 0) = true ∧
    leaves (exec (.linkHoldExpire 0 17) (one held)) (fun t => (port0 t 17).replay == [] && state0 t 17 != 8) = true ∧
    leaves (exec (.portDisableDrained (.pkg 0) 17) (one drain)) (fun t => state0 t 17 == 0 && cause t == 6
      && (port0 t 17).replay == [{ seq := 0, item := .down }]) = true ∧
    Safety.reaches (one on) 0 .cs (portPage 17 + Off.PAGE_CTRL) .port = true ∧ on.dies.changing = false ∧
    portEnabled off.base 17 = false ∧ portEnabled on.base 17 = true ∧
    leaves (exec (.portEnable (.pkg 0) 17) (one off)) (fun t => (port0 t 17).phase == 1) = true ∧
    leaves (exec (.portDisable (.pkg 0) 17) (one on)) (fun t => state0 t 17 == 0) = true ∧
    leaves (exec (.portDisable (.pkg 0) 17) (one (up.wrF (portPage 17 + Off.PAGE_CTRL) 0 0 1))) (fun t => state0 t 17 == 7 && (port0 t 17).draining) = true := by
  decide +kernel

/-- PortsUpAndDown at a Weir. -/
theorem witness_WeirPorts :
    let held := weirPortIn 71 8 fun x => { x with holdStart := some 0, relocking := true, replay := [{ seq := 3, item := .credit 0 1 }] }
    leaves (exec (.portSignalLoss (.weir 0) 71 true) (oneWeir (weirPortIn 71 7 id))) (fun t => wstate0 t 71 == 8) = true ∧
    leaves (exec (.weirHoldExpire 0 71) (oneWeir held)) (fun t => (wport0 t 71).replay == [] && wstate0 t 71 != 8) = true ∧
    leaves (exec (.portEnable (.weir 0) 0) (oneWeir weirLive)) (fun t => (wport0 t 0).phase == 1) = true ∧
    leaves (exec (.portDisable (.weir 0) 0) (oneWeir (weirPortIn 0 7 fun x => { x with weirEnable := true }))) (fun t => (wport0 t 0).draining) = true := by
  decide +kernel

/-- A packet to package 0, from package 1 of the same rack: link header, route header, transport header. -/
def fabPkt (next plane dest op : Nat) : Bytes :=
  le 1 1 ++ le 1 40 ++ zeros 6 ++ (le 1 next ++ le 1 dest ++ le 1 0 ++ le 1 1 ++ le 1 plane ++ zeros 3) ++ le 1 (op * 16) ++ zeros 23

/-- The same with a span header of some HOPS, in plane 0. -/
def spanPkt (hops dest op : Nat) : Bytes :=
  le 1 1 ++ le 1 48 ++ zeros 6 ++ (le 1 2 ++ le 1 dest ++ le 1 0 ++ le 1 1 ++ zeros 4) ++ (le 1 3 ++ le 1 0 ++ le 1 hops ++ zeros 5) ++
    le 1 (op * 16) ++ zeros 23

/-- FramesAndPackets: a good frame, one out of order, a bad one, a replay request; a packet taken and a poisoned one. -/
theorem witness_Frames :
    let up := (portIn 17 7 fun x => { x with rxSeq := 255, replay := [{ seq := 3, item := .credit 0 1 }, { seq := 4, item := .credit 1 1 }] }).wr
      (routePage + Off.ROUTE_EPOCH) 4
    let k := fabPkt 3 0 0 1
    let cw (seq : Nat) : Frame := { bytes := frameBytes seq 0 false 2 1 0 0 0 k }
    let bad : Frame := { cw 255 with bytes := (cw 255).bytes.set 20 1 }
    portState up.base 17 = 7 ∧ (cw 255).type = 1 ∧ (cw 255).seq = 255 ∧ (cw 255).vc = 2 ∧ frameOk (cw 255) = true ∧ frameOk bad = false ∧
    leaves (exec (.frameReceive (.pkg 0) 17 (cw 255)) (one up)) (fun t => (port0 t 17).rxSeq == 0 && mget [] (port0 t 17).rx 2 == k) = true ∧
    leaves (exec (.frameReceive (.pkg 0) 17 (cw 0)) (one up)) (fun t => (port0 t 17).rxSeq == 255) = true ∧
    leaves (exec (.frameReceive (.pkg 0) 17 bad) (one up)) (fun t => (port0 t 17).asked && (port0 t 17).rxSeq == 255) = true ∧
    leaves (exec (.frameReceive (.pkg 0) 17 { errors := 16 }) (one up)) (fun t => (port0 t 17).rxSeq == 255
      && rd (baseOf t (.pkg 0)) (portReg live.base 17 Off.UNCORR_CW) == 1) = true ∧
    leaves (exec (.frameReplayRequest (.pkg 0) 17 3) (one up)) (fun t => (port0 t 17).replay.map (·.seq) == [4] && (port0 t 17).sent.length == 1) = true ∧
    (match parsePacket up.base 40 k with | .ok x => x.op == .rread && !epochOpen up.base x.epoch | _ => false) = true ∧
    leaves (exec (.packetIngress 0 17 40 k) (one up)) (fun t => (pkgOf t 0).fab.delivered.length == 1) = true ∧
    (match parsePacket up.base 41 k with | .poison r _ _ => r == 2 | _ => false) = true ∧
    leaves (exec (.packetIngress 0 17 41 k) (one up)) (fun t => bitOf ((pkgOf t 0).rd (linkPage 1 1 + Off.EVT_STAT)) 1) = true := by
  decide +kernel

/-- FramesAndPackets: a Weir's packet on its route, one without, a collective one; the epoch registers. -/
theorem witness_WeirForward :
    let w := ((weirPortIn 5 7 id).wr (slotRoute 0 5) 1).wr 0x10000 4
    let y := weirLive.wr 0x10000 4
    let p := live.wr (routePage + Off.ROUTE_EPOCH) 4
    leaves (exec (.weirForward 0 0 40 (fabPkt 3 0 5 1)) (oneWeir w)) (fun t => (wport0 t 5).queue.length == 1) = true ∧
    (match parsePacket w.base 40 (fabPkt 3 0 5 1) with | .ok x => !epochOpen w.base x.epoch && !weirConsumes w 0 x && (weirPlace w x).2.isSome | _ => false) = true ∧
    (match parsePacket y.base 40 (fabPkt 3 0 5 1) with | .ok x => (weirPlace y x).2.isNone | _ => false) = true ∧
    leaves (exec (.weirForward 0 0 40 (fabPkt 3 0 5 1)) (oneWeir y)) (fun t => (weirOf t 0).rd (weirCounter 0 0xC) == 1) = true ∧
    (match parsePacket y.base 40 (fabPkt 3 0 5 3) with | .ok x => weirConsumes y 0 x && cType x == 0 | _ => false) = true ∧
    leaves (exec (.weirForward 0 0 40 (fabPkt 3 0 5 3)) (oneWeir y)) (fun t => (weirOf t 0).taken.length == 1) = true ∧
    (match parsePacket y.base 48 (spanPkt 7 5 3) with | .ok x => weirConsumes y 0 x && decide (6 < x.hops) | _ => false) = true ∧
    leaves (exec (.weirForward 0 0 48 (spanPkt 7 5 3)) (oneWeir y)) (fun t => (weirOf t 0).rd (weirCounter 0 0xC) == 1) = true ∧
    leaves (exec (.weirForward 0 0 41 (fabPkt 3 0 5 3)) (oneWeir y)) (fun t => (weirOf t 0).rd 0x12004 == 1) = true ∧
    leaves (exec (.weirEpochWrite 0 2) (oneWeir y)) (fun t => (weirOf t 0).rd 0x10000 == 4) = true ∧
    leaves (exec (.weirEpochWrite 0 0) (oneWeir y)) (fun t => (weirOf t 0).rd 0x10000 == 0) = true ∧
    Safety.reaches (one live) 0 .pf (routePage + Off.ROUTE_EPOCH) .route0 = true ∧
    leaves (exec (.routeEpochWrite 0 .pf 0) (one p)) (fun t => (pkgOf t 0).rd (routePage + Off.ROUTE_EPOCH) == 0) = true ∧
    leaves (exec (.routeEpochWrite 0 .pf 6) (one p)) (fun t => (pkgOf t 0).rd (routePage + Off.ROUTE_EPOCH) == 4) = true := by
  decide +kernel

/-- GlobalTime: offsets at the bounds of slewing, a reply, a lost source, edges, the time master. -/
theorem witness_GlobalTime :
    let at5 (n : Nat) := (portIn 17 7 id).mapBase fun b => { b with time := { b.time with now := n } }
    let verify := portIn 17 5 fun x => { x with phase := 5, timingT1 := some 100 }
    let stat (t : State) := (pkgOf t 0).rd (hubPage 3 + Off.TIME_STAT)
    let locked := ((at5 0).wr (hubPage 3 + Off.TIME_STAT) (17 * 256 + 1))
    let now (t : State) := (pkgOf t 0).base.time
    extendTime 0x100000001 (0xFFFFFFFF % 2 ^ 32) = 0xFFFFFFFF ∧ extendTime 0xFFFFFFFF (0x17FFFFFFE % 2 ^ 32) = 0x17FFFFFFE ∧
    sourcePort (at5 0).base = some 17 ∧
    leaves (exec (.timingFrame 0 17 1000 0 false) (one (at5 0))) (fun t => stat t == 17 * 256 + 1 && (now t).slew == 1000 && (now t).now == 0) = true ∧
    leaves (exec (.timingFrame 0 17 1001 0 false) (one (at5 0))) (fun t => (now t).now == 1001) = true ∧
    leaves (exec (.timingFrame 0 17 0 0 false) (one (at5 1001))) (fun t => (now t).now == 1001 && (now t).half == 1001) = true ∧
    leaves (exec (.timingFrame 0 17 7 3 true) (one (verify.mapBase fun b => { b with time := { b.time with now := 304 } }))) (fun t => (port0 t 17).flight == 100) = true ∧
    sourcePort locked.base = some 17 ∧ locked.rdF (hubPage 3 + Off.TIME_STAT) 12 8 = 17 ∧
    leaves (exec (.timeUnlock 0) (one locked)) (fun t => !bitOf (stat t) 0 && bitOf ((pkgOf t 0).rd (hubPage 3 + Off.EVT_STAT)) 1) = true ∧
    leaves (exec (.timeUnlock 0) (one (at5 0))) (fun t => stat t == 17 * 256) = true ∧
    leaves (exec (.packageTimesyncEdge 0) (one (at5 499999999))) (fun t => (now t).half == 499999999) = true ∧
    leaves (exec (.packageTimesyncEdge 0) (one (at5 500000000))) (fun t => (now t).now == 1000000000) = true := by
  decide +kernel

/-- GlobalTime at a Weir and at the time master. -/
theorem witness_WeirTime :
    let armed := weirLive.mapBase fun b => { b with time := { b.time with secondsArmed := some 9 } }
    let near := weirLive.mapBase fun b => { b with time := { b.time with now := 999999000 } }
    leaves (exec (.timesyncEdge 0) (oneWeir armed)) (fun t => (weirOf t 0).base.time.now == 9000000000 && bitOf ((weirOf t 0).rd 0x5000C) 0) = true ∧
    leaves (exec (.timesyncEdge 0) (oneWeir near)) (fun t => (weirOf t 0).base.time.slew == 1000) = true ∧
    leaves (exec (.weirSecondsWrite 0 0xFFFFFFFF) (oneWeir weirLive)) (fun t => (weirOf t 0).base.time.secondsArmed == some 0xFFFFFFFF) = true ∧
    leaves (exec (.timingFrameSend 0) (oneWeir (weirPortIn 63 7 id))) (fun t => (wport0 t 63).timingOut.isSome && !(wport0 t 62).timingOut.isSome) = true ∧
    leaves (exec (.weirTimeUnlocked 0) (next (exec (.timesyncEdge 0) (oneWeir armed)))) (fun t => !bitOf ((weirOf t 0).rd 0x5000C) 0) = true ∧
    leaves (exec (.ptpSync 0 5000) State.reset) (fun t => (rcOf t 0).time.now == 5000 && (rcOf t 0).firstLock) = true ∧
    leaves (exec (.ptpSync 0 7) (next (exec (.ptpSync 0 5000) State.reset))) (fun t => (rcOf t 0).time.slew == 7) = true ∧
    leaves (exec (.ptpLockLoss 0) (next (exec (.ptpSync 0 5000) State.reset))) (fun t => !(rcOf t 0).ptpLocked) = true := by
  decide +kernel

/-! ## Remote access and collectives -/

/-- An ordered connection 4095 to slot 1 by port 17, its route valid, that port ACTIVE; `f` changes the context. -/
def connected (f : Conn → Conn) : Package :=
  let p := (tiled.wrF (linkPage 1 2 + Off.PAGE_CTRL) 0 0 1).mapBase fun b => setPortState b 17 7
  (p.wr (pg 0x38 0x10 + Off.ROUTE_ENTRY + 4) (2 ^ 18 + 2 ^ 17)).setConn 4095
    (f { peerSlot := 1, plane := 8, ordered := true, commit := true, window := 1 })
def conn0 (t : State) (c : Nat) : Conn := (pkgOf t 0).conn c
/-- An RWRITE of 256 bytes, and the operation it queues. -/
def rwDsc (op : Nat) : Bytes := dsc op 0 [(16, 2, 4095), (20, 4, 256), (24, 8, 0x8000000000), (32, 8, 0x1000), (16 + 8 * (op / 0x60), 2, 4095)]
def rwOp : ConnOp := newOp ref0 { idx := 0, bytes := rwDsc 0x40, stage := .issued }

/-- RemoteSource: each operation queued, on a broken connection and on one without its port; a packet sent, and a full window. -/
theorem witness_RemoteSource :
    let at' (op : Nat) (f : Conn → Conn) := (connected f).setHop ref0 [{ idx := 0, bytes := rwDsc op, stage := .issued }]
    let peg := (connected id).setHop ref0 [{ idx := 0, bytes := dsc 0x60 0 [(16, 1, 3), (24, 2, 4095)], stage := .issued }]
    let down := (at' 0x40 id).mapBase fun b => setPortState b 17 0
    let full := connected fun x => { x with queue := [rwOp], window := 0 }
    let ready := connected fun x => { x with queue := [rwOp], psn := 0xFFFFFF }
    let k := requestPkt ready 4095 (ready.conn 4095) rwOp
    issuedEntry (at' 0x40 id) ref0 0 0x40 ≠ none ∧ fieldAt (rwDsc 0x40) 16 2 % 4096 = 4095 ∧
    leaves (exec (.rwrite 0 ref0 0) (one (at' 0x40 id))) (fun t => (conn0 t 4095).queue.length == 1) = true ∧
    leaves (exec (.rread 0 ref0 0) (one (at' 0x41 id))) (fun t => (conn0 t 4095).queue.length == 1) = true ∧
    leaves (exec (.remoteBump 0 ref0 0) (one peg)) (fun t => (conn0 t 4095).queue.length == 1) = true ∧
    leaves (exec (.rwrite 0 ref0 0) (one (at' 0x40 fun x => { x with broken := true }))) (fun t => ended t St.connBroken) = true ∧
    leaves (exec (.rwrite 0 ref0 0) (one down)) (fun t => ended t St.portLoss) = true ∧
    enabledPage ready.base (linkPage 1 2) = true ∧ nextOp (ready.conn 4095) = some rwOp ∧ sendTurn ready 4095 = true ∧ tagFor ready 4095 = true ∧
    (ready.conn 4095).window * 4096 = 4096 ∧ chargeOf k = 256 ∧ pathOf ready 4095 (ready.conn 4095) k = .port 17 ∧ nextLen rwOp = 256 ∧
    leaves (exec (.rmaPacketSend 0 4095) (one ready)) (fun t => (conn0 t 4095).psn == 0 && (conn0 t 4095).unacked.length == 1) = true ∧
    leaves (exec (.rmaPacketSend 0 4095) (one full)) (fun t => (mfind 0 (pkgOf t 0).fab.stalls).isSome && (conn0 t 4095).unacked == []) = true := by
  decide +kernel

/-- RemoteSource: answers, timers, CONN_CTL and a stall reported. -/
theorem witness_RemoteTimers :
    let a : Pkt := { op := .rwrite, psn := 5 }
    let b : Pkt := { op := .rread, psn := 4 }
    let p := connected fun x => { x with unacked := [b, a, { op := .rwrite, psn := 6 }] }
    let owes := connected fun x => { x with target := true, toAck := 1, psn := 9 }
    let last := (p.setConn 4095 { p.conn 4095 with retries := 15 })
    let none' := (connected fun x => { x with commit := false }).mapBase fun b => wr b (linkPage 1 2 + Off.RMA_WIN) 3
    let sel := { none' with fab := { none'.fab with connSel := [(4 + copyOf .pf, 2047)] } }
    let on := { sel with fab := { (connected id).fab with connSel := [(4 + copyOf .pf, 2047)] } }
    let busy := { on with fab := { p.fab with connSel := [(4 + copyOf .pf, 2047)] } }
    let lim := (live.wr (linkPage 0 2 + Off.STALL_LIMIT) 1).mapBase fun b => { b with time := { b.time with now := 1000000 } }
    leaves (exec (.responsePacket 0 17 { op := .response, conn := 4095, psn := 5 }) (one p)) (fun t => (conn0 t 4095).unacked.map (·.psn) == [6]) = true ∧
    leaves (exec (.responsePacket 0 17 { op := .response, conn := 4095, psn := 5, pitch := 1 }) (one p)) (fun t => (conn0 t 4095).unacked.length == 3) = true ∧
    leaves (exec (.ackTimer 0 4095) (one owes)) (fun t => (conn0 t 4095).toAck == 0 && (conn0 t 4095).lastAcked == 8) = true ∧
    (let e := routeEntry p p.epoch ((p.conn 4095).peerRack * 64 + (p.conn 4095).peerSlot)
     bitOf e 18 = true ∧ bitOf e (connPlane 4095 (p.conn 4095)) = true) ∧
    p.rdF (linkPage 1 2 + Off.RMA_RETRY) 19 16 ≤ 15 ∧ 1 ≤ p.rdF (linkPage 1 2 + Off.RMA_RETRY) 19 16 ∧
    leaves (exec (.retryTimeout 0 4095) (one p)) (fun t => (conn0 t 4095).retries == 1 && !(conn0 t 4095).broken) = true ∧
    leaves (exec (.retryTimeout 0 4095) (one last)) (fun t => (conn0 t 4095).broken && (conn0 t 4095).unacked == []) = true ∧
    Safety.reaches (one sel) 0 .pf (linkPage 1 3 + Off.CONN_CTL) .conn = true ∧
    leaves (exec (.connCtlWrite 0 .pf 1 0x12001) (one sel)) (fun t => (conn0 t 4095).commit && (conn0 t 4095).pitch == 1 && (conn0 t 4095).window == 3) = true ∧
    leaves (exec (.connCtlWrite 0 .pf 1 0x12001) (one on)) (fun t => (conn0 t 4095).commit && (conn0 t 4095).pitch == 0) = true ∧
    leaves (exec (.connCtlWrite 0 .pf 1 0x2000) (one busy)) (fun t => (conn0 t 4095).commit) = true ∧
    leaves (exec (.connCtlWrite 0 .pf 1 0x2000) (one on)) (fun t => !(conn0 t 4095).commit) = true ∧
    leaves (exec (.pitchStalled 0 7) (one { lim with fab := { lim.fab with stalls := [(7, (0, 3, 2, false))] } }))
      (fun t => (pkgOf t 0).fab.stalls == [(7, (0, 3, 2, true))] && bitOf ((pkgOf t 0).rd (linkPage 0 2 + Off.EVT_STAT)) 0) = true := by
  decide +kernel

/-- RemoteTarget: a write with its bump, a read, a bump; absent, of another peer, a duplicate. -/
theorem witness_RemoteTarget :
    let tgt (f : Conn → Conn) := (tiled.setConn 4095 (f { peerSlot := 1, ordered := true, commit := true, target := true, psn := 0xFFFFFF }))
    let w : Pkt := { op := .rwrite, conn := 4095, srcSlot := 1, psn := 0xFFFFFF, offset := 0x8000000010, payload := [1, 2], bump := true, last := true, bumpPeg := 8191, arg := 4 }
    let rd' : Pkt := { op := .rread, conn := 4095, srcSlot := 1, psn := 0xFFFFFF, offset := 0x8000000010, arg := 2 }
    let pk : Pkt := { op := .peg, conn := 4095, srcSlot := 1, psn := 0xFFFFFF, bumpPeg := 0, arg := 3 }
    let absent := tgt fun x => { x with commit := false }
    inTurn (tgt id) ((tgt id).conn 4095) 0xFFFFFF = true ∧ inTurn (tgt id) ((tgt id).conn 4095) 5 = false ∧
    inRegion (tgt id) 0x8000000010 2 = true ∧ requestReady (tgt id) 17 w = true ∧ requestReady (tgt id) 17 pk = true ∧ requestReady (tgt id) 17 rd' = true ∧ fenceOk (tgt id) w = true ∧
    strikeAbsorbs (tgt id) 0 (requestTiles (tgt id) w 2) = none ∧ firstForeign (tgt id) 0 0x8000000010 2 = none ∧ pegFor (tgt id) 0 8191 = true ∧
    leaves (exec (.rwritePacket 0 17 w) (one (tgt id))) (fun t => got t 0x8000000010 3 == [1, 2, 0] && ((pkgOf t 0).peg 8191).counter == 4 && (conn0 t 4095).psn == 0) = true ∧
    leaves (exec (.rreadPacket 0 17 rd') (one (tgt id))) (fun t => (conn0 t 4095).psn == 0 && (pkgOf t 0).mem.cells == []) = true ∧
    leaves (exec (.pegPacket 0 17 pk) (one (tgt id))) (fun t => ((pkgOf t 0).peg 0).counter == 3) = true ∧
    leaves (exec (.rwritePacket 0 17 w) (one absent)) (fun t => (pkgOf t 0).mem.cells == [] && bitOf ((pkgOf t 0).rd (linkPage 1 2 + Off.EVT_STAT)) 2) = true ∧
    leaves (exec (.rwritePacket 0 17 { w with srcSlot := 2 }) (one (tgt id))) (fun t => (pkgOf t 0).mem.cells == [] && (conn0 t 4095).psn == 0) = true ∧
    leaves (exec (.rwritePacket 0 17 { w with psn := 5 }) (one (tgt id))) (fun t => (pkgOf t 0).mem.cells == [] && (conn0 t 4095).psn == 0xFFFFFF) = true := by
  decide +kernel

/-! ## Collectives at a member -/

/-- A COLL of an operation on group 0: BF16, SUM, two elements from and to tile 0. -/
def collDsc (op : Nat) : Bytes :=
  dsc 0x50 0 [(16, 2, 0), (18, 1, op), (19, 1, 1), (20, 4, 2), (24, 6, 0x8000000000), (30, 6, 0x8000000100), (42, 6, 0x8000000200), (48, 6, 0x8000000300)]
/-- A committed group 0 of packages 0 and 1 on plane 0, whose port is ACTIVE; hopper 0 holds a COLL. -/
def grouped (op : Nat) (f : Grp → Grp) : Package :=
  let p := (((issued (collDsc op)).wrF (linkPage 0 4 + Off.PAGE_CTRL) 0 0 1).mapBase fun b => setPortState b 0 7).wr (routePage + Off.ROUTE_EPOCH) 4
  p.setGrp 0 (f { commit := true, planes := 1, members := 3, seq := 0xFFFF })
def run0 (f : CollRun → CollRun) : CollRun := f { ref := ref0, idx := 0, seq := 0xFFFF, arrived := true }
def grp0 (t : State) : Grp := (pkgOf t 0).grp 0

/-- MemberCollectives: each operation starts on an idle group and queues behind another. -/
theorem witness_MemberStarts :
    let starts (op : Nat) (c : Instr) := leaves (exec c (one (grouped op id))) (fun t => match (grp0 t).run with | some u => u.seq == 0xFFFF && (grp0 t).queue == [] | none => false)
    let waits (op : Nat) (c : Instr) := leaves (exec c (one (grouped op fun x => { x with run := some (run0 fun u => { u with idx := 9 }) }))) (fun t => (grp0 t).queue == [(ref0, 0)])
    issuedEntry (grouped 8 id) ref0 0 0x50 ≠ none ∧ (colOf (collDsc 8)).op = 8 ∧ enabledPage (grouped 8 id).base (linkPage 0 4) = true ∧
    readStatus (grouped 8 id) (canonRange (grouped 8 id) (colOf (collDsc 8)).counts (4 * grpSize ((grouped 8 id).grp 0))) = 0 ∧
    starts 0 (.allReduce 0 ref0 0) ∧ starts 1 (.reduceScatter 0 ref0 0) ∧ starts 2 (.allGather 0 ref0 0) ∧ starts 3 (.broadcast 0 ref0 0) ∧
    starts 4 (.barrier 0 ref0 0) ∧ starts 5 (.allToAll 0 ref0 0) ∧ starts 6 (.reduceScatterv 0 ref0 0) ∧ starts 7 (.allGatherv 0 ref0 0) ∧
    starts 8 (.allToAllv 0 ref0 0) ∧ waits 8 (.allToAllv 0 ref0 0) := by
  decide +kernel

/-- MemberCollectives: a queued one starts or finds its group broken; a barrier's ARRIVE; DATA; GO of both kinds. -/
theorem witness_MemberRuns :
    let q (b : Bool) := grouped 0 fun x => { x with queue := [(ref0, 0)], broken := b }
    let bar := grouped 4 fun x => { x with run := some (run0 fun u => { u with arrived := false }) }
    let barred := grouped 4 fun x => { x with run := some (run0 id) }
    let reduce := grouped 0 fun x => { x with run := some (run0 id) }
    let sending := grouped 0 fun x => { x with run := some (run0 fun u => { u with phase := 2, toSend := [(0, 0, 2), (0, 2, 2)], lastOwed := [0], outstanding := [(0, 31)] }) }
    let go : Pkt := { op := .coll, conn := 0, psn := 0xFFFF, coll := collHdr 1 0 1 0 false false 0 0 0 0 }
    leaves (exec (.collNextSequence 0 0) (one (q false))) (fun t => (grp0 t).run.isSome && (grp0 t).queue == []) = true ∧
    leaves (exec (.collNextSequence 0 0) (one (q true))) (fun t => ended t St.groupBroken && (grp0 t).seq == 0xFFFF) = true ∧
    portOpen bar.base 0 = true ∧ grpPlanes 0 (bar.grp 0) = [0] ∧
    leaves (exec (.barrierArrive 0 0) (one bar)) (fun t => match (grp0 t).run with | some u => u.arrived | none => false) = true ∧
    pieceIndex 1 0 2 = 0 ∧ grpPlanes 0 (sending.grp 0) = [0] ∧ (runCol barred (run0 id)).useMap = false ∧ (runCol barred (run0 id)).bpegValid = false ∧
    memReady sending (pieceSource (runCol sending (run0 id)) (run0 id) 2 0 0 0) 2 = true ∧
    leaves (exec (.collDataSend 0 0 0) (one sending)) (fun t => match (grp0 t).run with | some u => u.toSend == [(0, 2, 2)] && u.outstanding == [(0, 32)] | none => false) = true ∧
    cType go = 1 ∧ cReduced go = false ∧ strikeAbsorbs barred 0 [] = none ∧
    leaves (exec (.go 0 go) (one barred)) (fun t => ended t 0 && (grp0 t).seq == 0) = true ∧
    leaves (exec (.go 0 go) (one reduce)) (fun t => match (grp0 t).run with | some u => u.phase == 2 && u.lastOwed == [0] | none => false) = true := by
  decide +kernel

/-- MemberCollectives: REJECT, BREAK, a RESULT written where its block belongs, the deadline. -/
theorem witness_MemberEnds :
    let p := grouped 0 fun x => { x with run := some (run0 fun u => { u with phase := 2, toSend := [(0, 0, 4)], lastOwed := [0], expect := [(0, 0, 4)] }) }
    let hdr (ty rank word half : Nat) := collHdr ty 0 1 0 false false rank word half 0
    let k (ty rank word half : Nat) (b : Bytes) : Pkt := { op := .coll, conn := 0, psn := 0xFFFF, coll := hdr ty rank word half, payload := b }
    inRegion p 0x8000000100 4 = true ∧ memReady p 0x8000000100 4 = true ∧ cHalf (k 4 0 0 St.groupBroken []) ≠ St.countMismatch ∧
    cType (k 3 0 0 0 []) = 3 ∧ cRank (k 3 0 0 0 []) = 0 ∧
    (expectBlocks (runCol p (run0 id)) (run0 id) 2 0).find? (fun b => decide (b.1 = 0)) = some (0, 0x8000000100, 4) ∧
    leaves (exec (.result 0 (k 3 0 0 0 [1, 2, 3, 4])) (one p)) (fun t => got t 0x8000000100 5 == [1, 2, 3, 4, 0] && (match (grp0 t).run with | some u => u.got == [(0, 0)] | none => false)) = true ∧
    leaves (exec (.reject 0 (k 5 0 St.sequenceError 0 [])) (one p)) (fun t => ended t St.sequenceError && (grp0 t).run.isNone && (grp0 t).seq == 0xFFFF) = true ∧
    leaves (exec (.breakCmd (.pkg 0) (k 4 0 0 St.groupBroken (le 128 2))) (one p)) (fun t => (grp0 t).broken && (grp0 t).missing == 2) = true ∧
    leaves (exec (.memberDeadline 0 0) (one p)) (fun t => (grp0 t).broken && (grp0 t).missing == 0 && ended t St.groupBroken) = true := by
  decide +kernel

/-- MemberCollectives: GRP_CTL committed, refused while it runs and with other fields; PUSH, its time-out and its answer. -/
theorem witness_Groups :
    let off := grouped 0 fun x => { x with commit := false }
    let busy := grouped 0 fun x => { x with run := some (run0 id) }
    let wait := grouped 0 fun x => { x with busy := true, pushWait := [1024] }
    let ans : Pkt := { op := .coll, conn := 0, plane := 0, coll := collHdr 6 0 0 0 false false 0 0 0 0, payload := pushImage wait 0 0 }
    Safety.reaches (one off) 0 .pf (linkPage 0 4 + Off.GRP_CTL) .grp = true ∧ Safety.reaches (one off) 0 .pf (linkPage 0 4 + Off.GRP_CMD) .grp = true ∧
    leaves (exec (.grpCtlWrite 0 .pf 0 0x50007) (one off)) (fun t => (grp0 t).commit && (grp0 t).pitch == 7 && (grp0 t).countsFirst) = true ∧
    leaves (exec (.grpCtlWrite 0 .pf 0 0x10007) (one busy)) (fun t => (grp0 t).pitch == 0) = true ∧
    leaves (exec (.grpCtlWrite 0 .pf 0 0) (one busy)) (fun t => (grp0 t).commit) = true ∧
    leaves (exec (.push 0 .pf 0 1) (one (grouped 0 id))) (fun t => (grp0 t).busy && (grp0 t).pushWait == [1024, 1] && ((pkgOf t 0).mg 1).queue.length == 22) = true ∧
    leaves (exec (.pushTimeout 0 0) (one wait)) (fun t => (grp0 t).failed && !(grp0 t).busy) = true ∧
    sameImage ans.payload (pushImage wait 0 0) = true ∧
    leaves (exec (.setupAnswer 0 ans) (one wait)) (fun t => !(grp0 t).busy && !(grp0 t).failed) = true := by
  decide +kernel

/-! ## Collectives in a Weir -/

/-- Weir 0 with context 2047: lead plane, root, own rack, slots 0 and 1, sequence 5. -/
def rooted (ctl : Nat) (x : WCtx) : Weir :=
  let w := [(0, 2 ^ 16 + 2 ^ 20 + 2 ^ 21 + ctl), (8, 5), (0xC, 1), (0x10, 3), (0x18, 2 * 2 ^ 16)].foldl
    (fun (w : Weir) e => w.wr (wctxReg 2047 e.1) e.2) weirLive
  w.setCtx 2047 x
def wpkt (ty op rank : Nat) (b : Bytes) : Pkt :=
  { op := .coll, conn := 2047, psn := 5, srcSlot := rank, coll := collHdr ty op 1 0 false false rank 0 0 0, payload := b }
def ctx0 (t : State) : WCtx := (weirOf t 0).ctx 2047

/-- WeirCollectives: SETUP taken and discarded; the first ARRIVE, the last one, one of a stranger; DATA that wait. -/
theorem witness_WeirArrivals :
    let w := rooted 0 {}
    let half := rooted 0 { arrivals := [wpkt 0 0 0 []], arriveStart := some 0 }
    let bare := weirLive
    let setup : Pkt := { wpkt 6 0 0 (le 4 0x10000 ++ le 4 9 ++ le 4 7 ++ le 4 1 ++ le 4 3 ++ zeros 12) with }
    cType setup = 6 ∧ wCommit bare 2047 = false ∧ wCommit w 2047 = true ∧ wRoot w 2047 = true ∧ wLead w 2047 = true ∧ wSlots w 2047 = [0, 1] ∧
    leaves (exec (.setup 0 63 setup) (oneWeir bare)) (fun t => wCommit (weirOf t 0) 2047 && wSeq (weirOf t 0) 2047 == 7 && wSlotMap (weirOf t 0) 2047 == 3) = true ∧
    leaves (exec (.setup 0 64 setup) (oneWeir bare)) (fun t => !wCommit (weirOf t 0) 2047 && (weirOf t 0).rd 0x3000C == 1) = true ∧
    senderOk w 2047 0 (wpkt 0 0 0 []) = true ∧ senderOk w 2047 2 (wpkt 0 0 2 []) = false ∧ liveRanks w 2047 = [0, 1] ∧ weirConsumes w 0 (wpkt 0 0 0 []) = true ∧
    leaves (exec (.arrive 0 2 (wpkt 0 0 2 [])) (oneWeir w)) (fun t => (weirOf t 0).rd 0x30004 == 1) = true ∧
    leaves (exec (.arrive 0 0 (wpkt 0 0 0 [])) (oneWeir w)) (fun t => (ctx0 t).arrivals.length == 1 && wPhase (weirOf t 0) 2047 == 1) = true ∧
    leaves (exec (.arrive 0 1 (wpkt 0 0 1 [])) (oneWeir half)) (fun t => (ctx0 t).goSent && wPhase (weirOf t 0) 2047 == 2) = true ∧
    liveSlots w 2047 = [0, 1] ∧
    leaves (exec (.data 0 0 (wpkt 2 0 0 [1, 2])) (oneWeir w)) (fun t => (ctx0 t).inputs.length == 1 && wPhase (weirOf t 0) 2047 == 2 && wSeq (weirOf t 0) 2047 == 5) = true := by
  decide +kernel

/-- WeirCollectives: a BREAK, both deadlines, the tree, an INT32 sum at the bounds. -/
theorem witness_WeirBreaks :
    let late := rooted 0 { arrivals := [wpkt 0 0 0 []], arriveStart := some 0 }
    let drop := rooted (2 ^ 19) { arrivals := [wpkt 0 0 0 []], arriveStart := some 0 }
    let data := rooted 0 { goSent := true, dataStart := some 0 }
    let brk := { rooted 0 {} with taken := [(0, wpkt 4 0 0 (le 128 2))] }
    cHalf (wpkt 4 0 0 []) ≠ St.countMismatch ∧ wDrop drop 2047 = true ∧ missingRanks late 2047 = [1] ∧
    leaves (exec (.breakCmd (.weir 0) (wpkt 4 0 0 (le 128 2))) (oneWeir brk)) (fun t => wBroken (weirOf t 0) 2047 && wPhase (weirOf t 0) 2047 == 3) = true ∧
    leaves (exec (.arrivalDeadline 0 2047) (oneWeir late)) (fun t => wBroken (weirOf t 0) 2047 && wSeq (weirOf t 0) 2047 == 6) = true ∧
    leaves (exec (.arrivalDeadline 0 2047) (oneWeir drop)) (fun t => !wBroken (weirOf t 0) 2047 && (ctx0 t).dropped == 2) = true ∧
    leaves (exec (.dataDeadline 0 2047) (oneWeir data)) (fun t => wBroken (weirOf t 0) 2047) = true ∧
    combineElem 10 0 0x7FFFFFFF 1 = (0x7FFFFFFF, true) ∧ combineElem 10 0 0x80000000 0xFFFFFFFF = (0x80000000, true) ∧
    combineElem 10 0 0x7FFFFFFF 0 = (0x7FFFFFFF, false) ∧
    treeReduce 10 0 3 [([1], false), ([2], false), ([3], false)] = ([6], false) := by
  decide +kernel

/-! ## The host interface -/

/-- VF 16's page enabled, its hopper 3 committed with a ring of 64 entries and running; ACC, DONE and POSTED given. -/
def hosted (acc dn posted : Nat) : Package :=
  let p := live.wrF (vfPage 16 + Off.PAGE_CTRL) 0 0 1
  [(Off.HH_CFG, 0x10006), (Off.HH_CTL, 1), (Off.HH_ACC, acc), (Off.HH_DONE, dn), (Off.HH_POSTED, posted)].foldl
    (fun (p : Package) e => p.wr (hhReg 16 3 e.1) e.2) p
def hh (t : State) (off : Nat) : Nat := (pkgOf t 0).rd (hhReg 16 3 off)
def evt16 (t : State) (i : Nat) : Bool := bitOf ((pkgOf t 0).rd (vfPage 16 + Off.EVT_STAT)) i
def entry (seq : Nat) : Bytes := zeros 64 ++ le 4 seq ++ zeros 4

/-- HostHoppers: a doorbell at the ring's bound and beyond it, RUN, RESUME, HH_ACC, a commit and its end, entries right and wrong. -/
theorem witness_HostHoppers :
    let p := hosted 0xFFFFFFFF 0xFFFFFFFF 0xFFFFFFFF
    let go := hosted 4 4 5
    let off := p.wr (hhReg 16 3 Off.HH_CFG) 6
    let halted := p.wrF (hhReg 16 3 Off.HH_STAT) 0 0 1
    let d3 := { p with host := { p.host with d3 := [16] } }
    let reach (a : Nat) := Safety.reaches (one p) 0 .pf (hhReg 16 3 a) .vf
    reach Off.HH_POSTED = true ∧ reach Off.HH_CTL = true ∧ reach Off.HH_ACC = true ∧ reach Off.HH_CFG = true ∧ serialDist 32 63 0xFFFFFFFF = 64 ∧
    leaves (exec (.hhPostedWrite 0 .pf 16 3 63) (one p)) (fun t => hh t Off.HH_POSTED == 63 && !evt16 t 7) = true ∧
    leaves (exec (.hhPostedWrite 0 .pf 16 3 64) (one p)) (fun t => hh t Off.HH_POSTED == 0xFFFFFFFF && evt16 t 7) = true ∧
    leaves (exec (.hhPostedWrite 0 .pf 16 3 63) (one d3)) (fun t => hh t Off.HH_POSTED == 0xFFFFFFFF) = true ∧
    leaves (exec (.hhRun 0 .pf 16 3 0) (one p)) (fun t => hh t Off.HH_CTL == 0) = true ∧
    leaves (exec (.hhResume 0 .pf 16 3 3) (one halted)) (fun t => !bitOf (hh t Off.HH_STAT) 0) = true ∧
    leaves (exec (.hhAccWrite 0 .pf 16 3 9) (one off)) (fun t => hh t Off.HH_ACC == 9 && hh t Off.HH_DONE == 9 && hh t Off.HH_POSTED == 9) = true ∧
    leaves (exec (.hhAccWrite 0 .pf 16 3 9) (one p)) (fun t => hh t Off.HH_ACC == 0xFFFFFFFF) = true ∧
    ownerOf off.base (tilePage 15 0) = ownerOf off.base (vfPage 16) ∧
    leaves (exec (.hhCfgWrite 0 .pf 16 3 0x10F0D) (one off)) (fun t => hh t Off.HH_CFG == 0x10F06) = true ∧
    leaves (exec (.hhCfgWrite 0 .pf 16 3 0x10000) (one (off.wrF (tilePage 0 0 + Off.PITCH_OWNER) 11 0 5))) (fun t => hh t Off.HH_CFG == 6) = true ∧
    leaves (exec (.hhCfgWrite 0 .pf 16 3 6) (one (hosted 5 4 5))) (fun t => bitOf (hh t Off.HH_CFG) 16) = true ∧
    leaves (exec (.hhCfgWrite 0 .pf 16 3 6) (one p)) (fun t => !bitOf (hh t Off.HH_CFG) 16) = true ∧
    enabledPage go.base (vfPage 16) = true ∧ placeFor go (.host 16 3) = true ∧
    leaves (exec (.hostEntryFetch 0 16 3 (.data (entry 5))) (one go)) (fun t => hh t Off.HH_ACC == 5) = true ∧
    leaves (exec (.hostEntryFetch 0 16 3 (.data (entry 6))) (one go)) (fun t => hh t Off.HH_ACC == 4 && hopHalted (pkgOf t 0) (.host 16 3) && evt16 t 11) = true ∧
    leaves (exec (.hostEntryFetch 0 16 3 .error) (one go)) (fun t => hh t Off.HH_ACC == 4 && evt16 t 11) = true ∧
    leaves (exec (.hostEntryFetch 0 16 3 .error) (one p)) (fun t => !hopHalted (pkgOf t 0) (.host 16 3)) = true := by
  decide +kernel

/-- HostRings: CFG, PROD and CONS of both rings, the shadow, the end of a holdoff. -/
theorem witness_HostRings :
    let p := hosted 4 4 4
    let r (t : State) (off : Nat) := (pkgOf t 0).rd (vfPage 16 + off)
    let on := (hosted 5 4 5).wr (vfPage 16 + Off.HCQ_CFG) 0x108
    let heq := p.wr (vfPage 16 + Off.HEQ_CFG) 0x106
    let sh := ((p.wr (vfPage 16 + Off.SHADOW_CTL) 1).wr (vfPage 16 + Off.SHADOW_BASE_LO) 0x1040).setVf 16 { (p.vf 16) with shadowDirty := true }
    let hold := p.setVf 16 { (p.vf 16) with pendingVec := [false, true], holdoff := [false, true] }
    Safety.reaches (one p) 0 .pf (vfPage 16 + Off.HCQ_CFG) .vf = true ∧ Safety.reaches (one p) 0 .pf (vfPage 16 + Off.HEQ_PROD) .vf = true ∧
    leaves (exec (.hcqCfgWrite 0 .pf 16 0x3FF0107) (one p)) (fun t => r t Off.HCQ_CFG == 0x3FF0108) = true ∧
    leaves (exec (.hcqCfgWrite 0 .pf 16 8) (one on)) (fun t => r t Off.HCQ_CFG == 0x108) = true ∧
    leaves (exec (.heqCfgWrite 0 .pf 16 0x10F) (one p)) (fun t => r t Off.HEQ_CFG == 0x106) = true ∧
    leaves (exec (.hcqProdWrite 0 .pf 16 7) (one p)) (fun t => r t Off.HCQ_PROD == 7 && r t Off.HCQ_CONS == 7) = true ∧
    leaves (exec (.hcqProdWrite 0 .pf 16 7) (one on)) (fun t => r t Off.HCQ_PROD == 0) = true ∧
    leaves (exec (.heqProdWrite 0 .pf 16 7) (one p)) (fun t => r t Off.HEQ_PROD == 7 && r t Off.HEQ_CONS == 7) = true ∧
    leaves (exec (.heqProdWrite 0 .pf 16 7) (one heq)) (fun t => r t Off.HEQ_PROD == 0) = true ∧
    leaves (exec (.hcqConsWrite 0 .pf 16 0xFFFFFFFF) (one p)) (fun t => r t Off.HCQ_CONS == 0xFFFFFFFF) = true ∧
    leaves (exec (.heqConsWrite 0 .pf 16 3) (one p)) (fun t => r t Off.HEQ_CONS == 3) = true ∧
    leaves (exec (.shadowWrite 0 16) (one p)) (fun t => (pkgOf t 0).host.outMsgs == []) = true ∧
    leaves (exec (.shadowWrite 0 16) (one sh)) (fun t => match (pkgOf t 0).host.outMsgs with | [.write a b] => a == 0x1040 && fieldAt b 24 4 == 4 && b.length == 64 | _ => false) = true ∧
    leaves (exec (.msixHoldoffEnd 0 16 1) (one hold)) (fun t => (pkgOf t 0).host.outMsgs == [.msix 16 1]) = true ∧
    leaves (exec (.msixHoldoffEnd 0 16 0) (one p)) (fun t => (pkgOf t 0).host.outMsgs == []) = true := by
  decide +kernel

/-- VF 16 in D3hot with a vector that waits. -/
def asleep (p : Package) : Package :=
  { (p.setVf 16 { p.vf 16 with pendingVec := [true, false] }) with host := { (p.setVf 16 { p.vf 16 with pendingVec := [true, false] }).host with d3 := [16] } }

/-- HostFunctions: host loss, function level resets with and without an owner, BAR2 inside and outside, D3hot. -/
theorem witness_HostFunctions :
    let p := (hosted 4 4 5).wr (vfPage 16 + Off.HCQ_CFG) 0x108
    let owned := p.wrF (vfPage 16 + Off.PITCH_OWNER) 11 0 5
    let win := (tiled.mapBase fun b => wr64 b (vfPage 16 + Off.VF_WIN_BASE) 0x8000000000)
    leaves (exec (.hostLoss 0 .linkDown) (one p)) (fun t => !bitOf (hh t Off.HH_CTL) 0 && !bitOf (hh t Off.HH_CFG) 16 && hh t Off.HH_POSTED == 5
      && bitOf ((pkgOf t 0).rd (pfPage + Off.EVT_STAT)) 1 && (pkgOf t 0).rd (pfPage + Off.HIF_LOSS_CNT) == 1) = true ∧
    ownerOf owned.base (vfPage 16) = 5 ∧ ownerOf p.base (vfPage 16) = 0 ∧
    leaves (exec (.vfFlr 0 16) (one p)) (fun t => bitOf ((pkgOf t 0).rd (pfPage + Off.EVT_STAT)) 2 && !bitOf (hh t Off.HH_CFG) 16) = true ∧
    leaves (exec (.vfFlr 0 16) (one owned)) (fun t => (pkgOf t 0).hub.strikes.length == 1) = true ∧
    inRegion win (winBase win 16) 2 = true ∧ memReady win (winBase win 16) 2 = true ∧
    piecesOf (winBase win 16) 3 0 2 = [(0, 2)] ∧ waitAt win (winBase win 16) (.write [3, 4]) = none ∧ ownsRange win 0 (winBase win 16) 2 = true ∧
    leaves (exec (.bar2Access 0 16 0 (.write [3, 4])) (one win)) (fun t => got t 0x8000000000 2 == [3, 4]) = true ∧
    leaves (exec (.bar2Access 0 16 1 (.read 1)) (next (exec (.bar2Access 0 16 0 (.write [3, 4])) (one win)))) (fun t => (pkgOf t 0).host.bar2Read == [4]) = true ∧
    leaves (exec (.bar2Access 0 16 0 (.read 2)) (one (win.wrF (vfPage 16 + Off.PITCH_OWNER) 11 0 5))) (fun t => (pkgOf t 0).host.bar2Read == [0, 0] && evt16 t 25) = true ∧
    leaves (exec (.bar2Access 0 16 0 (.read 2)) (one (tiled.mapBase fun b => wr64 b (vfPage 16 + Off.VF_WIN_BASE) 0x5000000000))) (fun t => evt16 t 14) = true ∧
    memReady (tiled.wrF (stackPage 0 + Off.STACK_STAT) 0 0 0) (winBase p 16) 2 = false ∧ ownsRange p 0 (winBase p 16) 2 = true ∧
    leaves (exec (.d3hot 0 16 true) (one p)) (fun t => (pkgOf t 0).host.d3 == [16]) = true ∧
    leaves (exec (.d3hot 0 16 false) (next (exec (.d3hot 0 16 true) (one p)))) (fun t => (pkgOf t 0).host.d3 == []) = true ∧
    leaves (exec (.d3hot 0 16 false) (one (asleep p))) (fun t => (pkgOf t 0).host.outMsgs == [.msix 16 0]
      && nth false ((pkgOf t 0).vf 16).pendingVec 0 == false) = true := by
  decide +kernel

/-- HostHoppers: a package whose descriptor places are all taken. -/
theorem placeFor_full {p : Package} (r : HopRef) (h : 65536 ≤ qdescCount p) : placeFor p r = false := by
  simp only [placeFor, turnAllows, Nat.sub_eq_zero_of_le h, Nat.not_lt_zero, decide_false]

theorem witness_HostHoppers_full (l : List HopEntry) (h : l.length = 65536) :
    placeFor ((hosted 4 4 5).setHop ref0 l) (.host 16 3) = false := by
  refine placeFor_full _ (Nat.le_of_eq ?_)
  have h0 : (hosted 4 4 5).tl.hops = [] := rfl
  have h1 : ((hosted 4 4 5).setHop ref0 l).tl.hops = [(hopKey ref0, l)] := by
    unfold Package.setHop
    rw [h0]
    rfl
  unfold qdescCount
  rw [h1]
  exact h.symm.trans (Nat.zero_add _).symm
/-! ## Tray controllers -/

/-- Position 0 of tray controller 0, and package 0 beside it. -/
def atSlot (x : Position) (p : Package) : State := setTc (one p) 0 { now := 5000, positions := [(0, x)] }
def pos0 (t : State) : Position := posOf t 0 0
def told (t : State) (rack : Nat) (name : String) (subject http : Nat) : Bool :=
  (rcOf t rack).msgs.contains { name := name, subject := subject, http := http }
def lastLog (t : State) (tc : Nat) : Bytes := (tcOf t tc).log.getLast?.getD []

/-- TraySupervision: an edge; faults that start an attempt, that are outranked, and that are the fourth; trips, errors, actions. -/
theorem witness_TraySupervision :
    let seen : Position := { hbSeen := true, lastEdge := 7 }
    let thrice : Position := { hbSeen := true, attempts := [1, 2, 3] }
    let hot : Package := live.mapBase fun b => { b with pins := { b.pins with thermtrip := true } }
    let waiting : Package := live.mapBase fun b => { b with pins := { b.pins with corrPulse := true, corrWait := 1 } }
    elemAt 0 0 = some (.pkg 0) ∧ outranked (atSlot seen live) 0 0 (.pkg 0) = false ∧ sealedElem (atSlot seen live) (.pkg 0) = false ∧
    outranked (atSlot seen hot) 0 0 (.pkg 0) = true ∧ recentAttempts 5000 thrice = [1, 2, 3] ∧
    leaves (exec (.heartbeatEdge 0 0) (atSlot {} live)) (fun t => (pos0 t).hbSeen && (pos0 t).lastEdge == 5000) = true ∧
    leaves (exec (.heartbeatFault 0 0) (atSlot seen hot)) (fun t => ((lastLog t 0).drop 14).take 8 == [0x10, 0, 7, 0, 0, 0, 0, 0])  = true ∧
    leaves (exec (.heartbeatFault 0 0) (atSlot seen live)) (fun t => (pos0 t).attempts == [5000] && (pos0 t).attemptRunning
      && told t 0 "HeartbeatFault" 0 0 && (pkgOf t 0).base.kin.phase == .kindling 2) = true ∧
    leaves (exec (.heartbeatFault 0 0) (atSlot thrice live)) (fun t => (pos0 t).resetHeld && (pos0 t).packageFailed
      && (pkgOf t 0).base.kin.resetLow && told t 0 "PackageFailed" 0 0) = true ∧
    leaves (exec (.kindlingFault 0 0) (atSlot {} live)) (fun t => (pos0 t).attempts == [5000]) = true ∧
    leaves (exec (.kindlingFault 0 0) (atSlot { thrice with hbSeen := false } live)) (fun t => (pos0 t).resetHeld) = true ∧
    leaves (exec (.recoveryTimeout 0 0) (atSlot { attemptRunning := true } live)) (fun t => !(pos0 t).attemptRunning) = true ∧
    leaves (exec (.recoveryTimeout 0 0) (atSlot { thrice with attemptRunning := true } live)) (fun t => (pos0 t).resetHeld) = true ∧
    leaves (exec (.thermtripAssert 0 0) (atSlot { tripAt := some 4 } hot)) (fun t => (pos0 t).tripWaitsClear && told t 0 "ThermalTrip" 0 0) = true ∧
    leaves (exec (.tripRepulse 0 0) (atSlot {} hot)) (fun t => (pos0 t).tripAt == some 5000 && (pos0 t).porstHolds == []) = true ∧
    leaves (exec (.tripRepulse 0 0) (atSlot { tripWaitsClear := true } hot)) (fun t => (pos0 t).tripAt == none) = true ∧
    leaves (exec (.errFatalAssert 0 0) (atSlot {} live)) (fun t => (pos0 t).fatalEdges == 1 && told t 0 "PackageError" 0 0) = true ∧
    leaves (exec (.errCorrEdge 0 0) (atSlot { corrEdges := 2 } live)) (fun t => (pos0 t).corrEdges == 0 && ((lastLog t 0).drop 14).take 6 == [0x21, 0, 3, 0, 0, 0]) = true ∧
    leaves (exec (.errCorrEdge 0 0) (atSlot { corrEdges := 2, corrLogged := some 4000 } live)) (fun t => (pos0 t).corrEdges == 3) = true ∧
    leaves (exec (.errCorrPulseEnd (.pkg 0)) (one waiting)) (fun t => (pkgOf t 0).base.pins.corrPulse && (pkgOf t 0).base.pins.corrWait == 0) = true ∧
    leaves (exec (.errCorrPulseEnd (.pkg 0)) (next (exec (.errCorrPulseEnd (.pkg 0)) (one waiting)))) (fun t => !(pkgOf t 0).base.pins.corrPulse) = true ∧
    leaves (exec (.resetPackage 0 0) (atSlot { thrice with resetHeld := true } live)) (fun t => !(pos0 t).resetHeld && told t 0 "ResetPackage" 0 200) = true ∧
    leaves (exec (.resetPackage 0 64) State.reset) (fun t => told t 0 "ResetPackage" 64 400) = true ∧
    trayThere 0 (.compute 0) = true ∧ trayThere 0 (.compute 16) = false ∧
    leaves (exec (.clearFault 0 (.compute 0)) (next (exec (.leakDetected 0) (one live)))) (fun t => (pos0 t).porstHolds == []
      && (tcOf t 0).cool.conds == [] && told t 0 "ClearFault" 0 200) = true ∧
    leaves (exec (.clearFault 0 (.compute 16)) State.reset) (fun t => told t 0 "ClearFault" 16 400) = true := by
  decide +kernel

/-- The five states of a position (R446). -/
theorem test_position_state :
    let hot : Package := live.mapBase fun b => { b with pins := { b.pins with thermtrip := true } }
    positionState (atSlot { present := false } hot) 0 0 = .absent ∧ positionState (atSlot { hbSeen := true } hot) 0 0 = .tripLatched ∧
    positionState (atSlot {} (Package.reset 0)) 0 0 = .unpowered ∧ positionState (atSlot {} (inPhase (.kindling 4))) 0 0 = .kindling ∧
    positionState (atSlot { hbSeen := true, lastEdge := 7 } live) 0 0 = .hubRunning := by
  decide +kernel

/-- A package, and a Weir, with a whole message at the front of its outbox. -/
def said (type : Nat) (c : Bytes) (p : Package) : Package :=
  p.mapBase fun b => { b with msp := { b.msp with outbox := mspMessage type c } }
def weirSaid (type : Nat) (c : Bytes) : State :=
  oneWeir (weirLive.mapBase fun b => { b with msp := { b.msp with outbox := mspMessage type c } })

/-- TrayMessages: each type of message from package 0, a ready report from Weir 0, and unknown messages at both ends. -/
theorem witness_TrayMessages :
    let img : Bytes := le 4 0x4D495644 ++ le 1 2 ++ zeros 3 ++ le 4 3 ++ le 4 0 ++ le 4 4 ++ zeros 236 ++ [1, 2, 3, 4]
    let sent (type : Nat) (c : Bytes) : State := atSlot {} (said type c live)
    let stored (s : State) : State := modTc s 0 fun t => { t with copies := [(0, img)] }
    let bulk := (said 3 (le 4 8) live).mapBase fun b => { b with msp := { b.msp with bulkOut := [1, 2, 3, 4, 5, 6, 7, 8, 9] } }
    let notice := le 8 1234567 ++ le 2 1700 ++ le 2 5 ++ le 2 20 ++ zeros 2
    let inbox := live.mapBase fun b => { b with msp := { b.msp with inbox := [w32 0x7F000001, 1, 2] } }
    outFront (baseOf (sent 7 (zeros 8)) (.pkg 0)) = some (7, zeros 8) ∧
    leaves (exec (.imageReq 0 0) (stored (sent 1 (le 4 0)))) (fun t => (pkgOf t 0).base.msp.bulkIn == img && imgHeaderOk img && imgPayload img == [1, 2, 3, 4] && (pkgOf t 0).base.msp.outbox == []) = true ∧
    leaves (exec (.imageReq 0 0) (sent 1 (le 4 0))) (fun t => (pkgOf t 0).base.msp.bulkIn == []) = true ∧
    leaves (exec (.blobReq 0 0) (sent 2 (le 4 0))) (fun t => (pkgOf t 0).base.msp.bulkIn.take 4 == [1, 0, 3, 0] && (pkgOf t 0).base.msp.bulkIn.length == 16 + 8 + 5 + 4100) = true ∧
    leaves (exec (.settingsReady 0 0) (atSlot {} bulk)) (fun t => (pkgOf t 0).base.msp.bulkOut == [9] && (pos0 t).savedDram == [1, 2, 3, 4, 5, 6, 7, 8]
      && mget (([], []) : Bytes × Bytes) (rcOf t 0).saved 0 == ([], [1, 2, 3, 4, 5, 6, 7, 8])) = true ∧
    leaves (exec (.readyReport 0 0) (atSlot { attemptRunning := true } (said 4 (le 1 0 ++ le 1 2 ++ zeros 10) live)))
      (fun t => !(pos0 t).attemptRunning && (pos0 t).readyResult == 2 && told t 0 "PackageReset" 0 0) = true ∧
    leaves (exec (.readyReport 0 0) (sent 4 (le 1 0 ++ le 1 3 ++ zeros 10))) (fun t => (pos0 t).attempts == [5000]) = true ∧
    elemAt 16 0 = some (.weir 0) ∧ sealedElem (weirSaid 8 (zeros 8)) (.weir 0) = false ∧
    leaves (exec (.weirReadyReport 16 0) (modPos (weirSaid 8 (le 1 0 ++ le 1 1 ++ zeros 10)) 16 0 fun x => { x with attemptRunning := true }))
      (fun t => (posOf t 16 0).readyResult == 1 && told t 0 "PackageReset" 0 0) = true ∧
    leaves (exec (.weirReadyReport 16 0) (weirSaid 8 (le 1 0 ++ le 1 3 ++ zeros 10))) (fun t => (posOf t 16 0).attempts == [0]) = true ∧
    leaves (exec (.loadNoticeMessage 0 0) (sent 5 notice)) (fun t => match (pos0 t).notice with
      | some n => n.atNs == 1234567 && n.power == 1600 && n.pitch == 5 && n.durMs == 20
      | none => false) = true ∧
    leaves (exec (.eventRecordCopy 0 0) (sent 6 (zeros 13 ++ le 1 2 ++ zeros 18))) (fun t => (tcOf t 0).lseq == 1 && ((lastLog t 0).drop 12).take 4 == [1, 2, 0x30, 0]) = true ∧
    leaves (exec (.pitchReply 0 0) (sent 7 (zeros 8))) (fun t => (pkgOf t 0).base.msp.outbox == []) = true ∧
    leaves (exec (.mspStatusPoll 0 0) (sent 7 (zeros 8))) (fun t => (pkgOf t 0).base.msp.outbox == []) = true ∧
    leaves (exec (.mspStatusPoll 0 0) (atSlot {} live)) (fun t => (tcOf t 0).lseq == 0) = true ∧ outPending live.base.msp = false ∧
    leaves (exec (.mspUnknownMessage (.pkg 0) true 9) (sent 9 (zeros 4))) (fun t => (pkgOf t 0).base.msp.outbox == [] && (tcOf t 0).lseq == 1) = true ∧
    hubRuns inbox.base = true ∧
    leaves (exec (.mspUnknownMessage (.pkg 0) false 0x7F) (one inbox)) (fun t => (pkgOf t 0).base.msp.inbox == [2] && (pkgOf t 0).base.msp.err == 0x100) = true := by
  decide +kernel

/-- TrayImages: a restart, a trial's ends, an image whose magic is wrong, caps. -/
theorem witness_TrayImages :
    let tried : State := setTc State.reset 25 { trial := some 1, trialRollback := 3, slotVersions := [8, 9] }
    let img : Bytes := le 4 0x4D495645 ++ le 1 1 ++ zeros 3 ++ le 4 3 ++ le 4 0 ++ le 4 4 ++ zeros 236 ++ [1, 2, 3, 4]
    let sent900 (s : State) : State := setRc s 0 { capSent := [(0, 900)] }
    let forced : State := sent900 (setTc (one live) 0 { cool := { conds := [2] } })
    (tcOf State.reset 25).trial = none ∧ posCount 25 = 0 ∧
    leaves (exec (.tcRestart 25) State.reset) (fun t => (tcOf t 25).lseq == 1) = true ∧
    leaves (exec (.tcRestart 29) (setRc State.reset 0 { lost := true })) (fun t => !(rcOf t 0).lost) = true ∧
    leaves (exec (.tcRestart 0) (atSlot { hbSeen := true } live)) (fun t => !(pos0 t).hbSeen && (tcOf t 0).activeSlot == 0) = true ∧
    leaves (exec (.tcTrialConfirm 25) tried) (fun t => (tcOf t 25).trial == none && (tcOf t 25).activeSlot == 1 && (tcOf t 25).thermometer == 3) = true ∧
    leaves (exec (.tcTrialConfirm 25) State.reset) (fun t => (tcOf t 25).activeSlot == 0) = true ∧
    leaves (exec (.tcTrialFail 25) State.reset) (fun t => (tcOf t 25).lseq == 0) = true ∧
    leaves (exec (.tcTrialFail 25) tried) (fun t => (tcOf t 25).trial == none && (tcOf t 25).activeSlot == 0 && (tcOf t 25).lseq == 2) = true ∧
    leaves (exec (.tcRestart 25) tried) (fun t => (tcOf t 25).trial == none && (tcOf t 25).activeSlot == 0 && (tcOf t 25).lseq == 2) = true ∧
    imageReason State.reset 25 img = 1 ∧
    leaves (exec (.imageStore 25 img) State.reset) (fun t => (tcOf t 25).copies == [] && ((lastLog t 25).drop 14).take 8 == [0x60, 0, 1, 3, 0, 0, 0, 1]) = true ∧
    copyFor State.reset 0 2 = some 2 ∧ copyFor State.reset 16 3 = some 3 ∧ copyFor State.reset 25 2 = none ∧
    capForced (tcOf forced 0) = true ∧
    leaves (exec (.tcCapMessage 0 0 900) forced) (fun t => (pos0 t).rcCap == 900 && (pkgOf t 0).rd (pw Off.CAP_TC) == live.rd (pw Off.CAP_TC)) = true ∧
    capWasSent forced 0 0 900 = true ∧ capWasSent forced 0 0 901 = false ∧
    leaves (exec (.tcCapMessage 0 0 900) (sent900 (one live))) (fun t => (pos0 t).rcCap == 900 && (pkgOf t 0).rd (pw Off.CAP_TC) == 900) = true := by
  decide +kernel

/-- TrayCoolant: polls with good readings and with lost ones, every condition and its end. -/
theorem witness_TrayCoolant :
    let good : Coolant := { inlet := some 300, outlet := some 400, flow := some 900, supply := some 200, ret := some 150, leak := some false, power := [] }
    let lost : Coolant := { good with inlet := some 600, flow := none, leak := none }
    let cond (l : List Nat) : State := setTc (one live) 0 { cool := { conds := l } }
    posCount 0 = 4 ∧ posCount 25 = 0 ∧ pressureLost good = false ∧ pressureLost { good with ret := some 191 } = true ∧
    hubRuns live.base = true ∧ mspSilent live.base = false ∧ live.base.msp.csBusy = false ∧
    Safety.reaches (one live) 0 .cs (pw Off.T_IN) .power = true ∧
    leaves (exec (.coolantPoll 0 good) (one live)) (fun t => (tcOf t 0).cool.inlet == 300 && (tcOf t 0).cool.flow == 900 && inletT (pkgOf t 0) == 300
      && (tcOf t 0).cool.conds == [] && (tcOf t 0).cool.flowTarget == 200) = true ∧
    leaves (exec (.coolantPoll 0 { good with inlet := some 321 }) (one live)) (fun t => (tcOf t 0).cool.conds == [1]) = true ∧
    leaves (exec (.coolantPoll 0 lost) (one live)) (fun t => (tcOf t 0).cool.inlet == 320 && (tcOf t 0).cool.faulty == [0, 2, 5]
      && (tcOf t 0).cool.conds == [4, 5] && (pos0 t).porstHolds == [3, 2]) = true ∧
    leaves (exec (.coolantPoll 16 { good with power := [1000] }) State.reset) (fun t => (tcOf t 16).cool.flowTarget == 300) = true ∧
    leaves (exec (.coolantPoll 25 good) State.reset) (fun t => t.tcs == []) = true ∧
    leaves (exec (.inletHotTimeout 0) (one live)) (fun t => (tcOf t 0).cool.conds == [2] && (pkgOf t 0).rd (pw Off.CAP_TC) == 400) = true ∧
    leaves (exec (.flowLowTimeout 0) (one live)) (fun t => (tcOf t 0).cool.conds == [3] && (tcOf t 0).cool.valveFull) = true ∧
    leaves (exec (.flowStillLow 0) (cond [3])) (fun t => (tcOf t 0).cool.flowCap && (pkgOf t 0).rd (pw Off.CAP_TC) == 400) = true ∧
    leaves (exec (.flowStillLow 0) (one live)) (fun t => !(tcOf t 0).cool.flowCap) = true ∧
    leaves (exec (.flowLoss 0) (one live)) (fun t => (tcOf t 0).cool.valveOpen && (posOf t 0 3).porstHolds == [3] && told t 0 "FlowLoss" 0 0) = true ∧
    leaves (exec (.flowLoss 0) (cond [4])) (fun t => (pos0 t).porstHolds == []) = true ∧
    leaves (exec (.leakDetected 0) (one live)) (fun t => (tcOf t 0).cool.isolationClosed && (posOf t 0 3).porstHolds == [2] && (pkgOf t 0).base.pwr.porst
      && told t 0 "LeakDetected" 0 0) = true ∧
    leaves (exec (.leakDetected 0) (cond [5])) (fun t => (pos0 t).porstHolds == []) = true ∧
    leaves (exec (.coolantConditionEnd 0 1) (cond [1])) (fun t => (tcOf t 0).cool.conds == []) = true ∧
    leaves (exec (.coolantConditionEnd 0 2) (cond [2])) (fun t => (tcOf t 0).cool.conds == [] && (pkgOf t 0).rd (pw Off.CAP_TC) == 800) = true ∧
    leaves (exec (.coolantConditionEnd 0 3) (next (exec (.flowStillLow 0) (cond [3])))) (fun t => !(tcOf t 0).cool.flowCap && (pkgOf t 0).rd (pw Off.CAP_TC) == 800) = true ∧
    leaves (exec (.coolantConditionEnd 0 4) (cond [4])) (fun t => (tcOf t 0).cool.conds == [4]) = true := by
  decide +kernel

/-- Sideband: a shelf's PSUs, recovery of a segment, the MAC's rings. -/
theorem witness_Sideband :
    let shelf (t : TrayCtl) : State := setTc State.reset 25 t
    let owned : MacDesc := { own := true, bufLen := 1522 }
    let frame : Bytes := zeros 64
    let rx : TrayCtl := { now := 9, mac := { rxRing := [owned, owned] } }
    let tx (d : MacDesc) : TrayCtl := { mac := { txRing := [d] } }
    let off : TrayCtl := { segs := [(1, { isolatorOff := true })] }
    isShelf 25 = true ∧ (segOf (tcOf State.reset 25) 2).stuck = false ∧ (tcOf State.reset 25).psuHealthy.length = 6 ∧
    leaves (exec (.pmbusPoll 25 [some false, none]) State.reset) (fun t => (tcOf t 25).psuHealthy == [false, true, true, true, true, true]
      && !(tcOf t 25).psuLost.contains 0 && (tcOf t 25).psuLost.contains 1) = true ∧
    leaves (exec (.psuReadingStale 25 1) (shelf { psuLost := [1] })) (fun t => (tcOf t 25).psuHealthy == [true, false, true, true, true, true]) = true ∧
    leaves (exec (.smbalertPoll 25 true) State.reset) (fun t => (tcOf t 25).smbalert) = true ∧
    leaves (exec (.busRecovery 25 2 true false (some 9) 0x42) State.reset) (fun t => (segOf (tcOf t 25) 2).clocks == 9
      && ((lastLog t 25).drop 14).take 6 == [0x80, 0, 2, 1, 9, 0x42]) = true ∧
    leaves (exec (.busRecovery 25 0 true false none 0x42) State.reset) (fun t => (segOf (tcOf t 25) 0).stage == 3 && (segOf (tcOf t 25) 0).isolatorOff) = true ∧
    leaves (exec (.busRecovery 25 0 true true none 0x42) State.reset) (fun t => (segOf (tcOf t 25) 0).clocks == 0 && (segOf (tcOf t 25) 0).isolatorOff) = true ∧
    leaves (exec (.isolatorRestore 25 1 true) (shelf off)) (fun t => (segOf (tcOf t 25) 1).stage == 0) = true ∧
    leaves (exec (.isolatorRestore 25 1 false) (shelf off)) (fun t => (segOf (tcOf t 25) 1).stage == 4 && (segOf (tcOf t 25) 1).stuck) = true ∧
    leaves (exec (.busStuckRetry 25 1) (next (exec (.isolatorRestore 25 1 false) (shelf off)))) (fun t => (segOf (tcOf t 25) 1).isolatorOff) = true ∧
    rx.mac.linkUp = true ∧ (descAt rx.mac.rxRing rx.mac.rxHead).own = true ∧ frame.length = 64 ∧ etherType frame ≠ 0x8808 ∧
    leaves (exec (.macReceive 25 frame true) (shelf rx)) (fun t => ((tcOf t 25).mac.rxRing.map fun d => (d.own, d.last, d.frameLen)) ==
      [(false, true, 64), (true, false, 0)] && (tcOf t 25).mac.rxHead == 1) = true ∧
    leaves (exec (.macReceive 25 frame true) State.reset) (fun t => (tcOf t 25).mac.rxNobufStart == 1) = true ∧
    leaves (exec (.macReceive 25 (zeros 63) true) (shelf rx)) (fun t => (tcOf t 25).mac.rxErr == 1 && (tcOf t 25).mac.rxHead == 0) = true ∧
    leaves (exec (.macTransmit 25) (shelf (tx { own := true, first := true, last := true }))) (fun t => (tcOf t 25).mac.sending == some 1) = true ∧
    leaves (exec (.macTransmit 25) (shelf (tx { own := true, last := true }))) (fun t => (tcOf t 25).mac.txMalformed == 1
      && (nth ({} : MacDesc) (tcOf t 25).mac.txRing 0).malformed) = true ∧
    leaves (exec (.macTransmitDone 25) (next (exec (.macTransmit 25) (shelf (tx { own := true, first := true, last := true })))))
      (fun t => (tcOf t 25).mac.sending == none && (nth ({} : MacDesc) (tcOf t 25).mac.txRing 0).sent) = true := by
  decide +kernel

/-! ## The rack controller -/

/-- RackCaps: set points at their limits, a computation that lowers one cap and raises another, a shortfall, CAP_RAISE. -/
theorem witness_RackCaps :
    let two : State := setPkg (one live) 1 ((Package.reset 1).mapBase fun b => Tests.running (baseIn .running b))
    let sent : State := setRc two 0 { capSent := [(0, 1600), (1, 500)], setPoint := 50000 }
    let dark : State := (List.range 4).foldl (fun s i => setTc s (25 + i) { psuHealthy := [] }) sent
    leaves (exec (.powerLimitWrite 0 50000) State.reset) (fun t => (rcOf t 0).setPoint == 50000 && told t 0 "PowerLimit" 50000 200) = true ∧
    leaves (exec (.powerLimitWrite 0 128000) State.reset) (fun t => (rcOf t 0).setPoint == 128000) = true ∧
    leaves (exec (.powerLimitWrite 0 49999) State.reset) (fun t => told t 0 "PowerLimit" 49999 400) = true ∧
    leaves (exec (.powerLimitWrite 0 128001) State.reset) (fun t => told t 0 "PowerLimit" 128001 400) = true ∧
    leaves (exec (.powerLimitPkgWrite 0 63 400) State.reset) (fun t => mget 0 (rcOf t 0).req 63 == 400 && told t 0 "PowerLimitPkg" 63 200) = true ∧
    leaves (exec (.powerLimitPkgWrite 0 63 1601) State.reset) (fun t => told t 0 "PowerLimitPkg" 63 400) = true ∧
    (List.range 64).filter (takesCap sent 0) = [0, 1] ∧ supply sent 0 = 132000 ∧ supply dark 0 = 0 ∧
    leaves (exec (.capComputation 0 45715) sent) (fun t => mget 0 (rcOf t 0).capSent 0 == 999 && mget 0 (rcOf t 0).capSent 1 == 500
      && (rcOf t 0).capRaise == [(1, 999)]) = true ∧
    leaves (exec (.capRaise 0) (next (exec (.capComputation 0 45715) sent))) (fun t => mget 0 (rcOf t 0).capSent 1 == 999 && (rcOf t 0).capRaise == []) = true ∧
    leaves (exec (.capComputation 0 45715) (modRc sent 0 fun x => { x with lost := true })) (fun t => mget 0 (rcOf t 0).capSent 0 == 1600) = true ∧
    leaves (exec (.capComputation 0 0) dark) (fun t => mget 0 (rcOf t 0).capSent 0 == 400 && told t 0 "PowerShortfall" 0 0) = true ∧
    400 * [700, 1600].length ≤ 1500 ∧ capLevel 1500 [700, 1600] = 800 ∧ ((rcOf sent 0).capRaise.map Prod.fst).Nodup := by
  decide +kernel

/-- TraySwaps: a compute and a switch tray removed, refused, inserted and asked back; a tray lost. -/
theorem witness_TraySwaps :
    let gone (n : Nat) : State := setRc State.reset 0 { trays := [(n, .absent)] }
    let seated : State := setRc State.reset 0 { trays := [(16, .inserted)], attested := [16] }
    let up : State := one (live.mapBase fun b => setPortState b 0 7)
    removalAnswer State.reset 0 (.compute 0) = 200 ∧ removalAnswer (gone 0) 0 (.compute 0) = 400 ∧
    leaves (exec (.prepareRemovalCompute 0 0) (gone 0)) (fun t => told t 0 "PrepareRemoval" 0 400) = true ∧
    leaves (exec (.prepareRemovalCompute 0 0) State.reset) (fun t => trayState t 0 0 == .draining && (rcOf t 0).swap == some (.compute 0, 3)
      && t.epochChange.isSome && told t 0 "PrepareRemoval" 0 200) = true ∧
    removalAnswer State.reset 0 (.switch 8) = 200 ∧ removalAnswer (gone 24) 0 (.switch 8) = 400 ∧
    leaves (exec (.prepareRemovalSwitch 0 8) (gone 24)) (fun t => told t 0 "PrepareRemoval" 24 400) = true ∧
    leaves (exec (.prepareRemovalSwitch 0 8) (one live)) (fun t => trayState t 0 24 == .draining && (rcOf t 0).swap == some (.switch 8, 2)
      && (pkgOf t 0).rd (hubPage 2 + Off.DRAIN_PLANES) == 0x30000) = true ∧
    planesDrained (next (exec (.prepareRemovalSwitch 0 8) (one live))) 0 = true ∧ planesDrained State.reset 0 = false ∧
    leaves (exec (.planesDrained 0) (next (exec (.prepareRemovalSwitch 0 8) (one live)))) (fun t => (rcOf t 0).swap == some (.switch 8, 3) && t.epochChange.isSome) = true ∧
    leaves (exec (.drainWaitExpire 0) (next (exec (.prepareRemovalSwitch 0 8) State.reset))) (fun t => (rcOf t 0).swap == some (.switch 8, 3)) = true ∧
    leaves (exec (.planesDrained 0) State.reset) (fun t => t.epochChange == none) = true ∧
    trayState (gone 0) 0 0 = .absent ∧ trayThere 0 (.compute 15) = true ∧
    leaves (exec (.trayInserted 0 (.compute 0) [0, 77]) (gone 0)) (fun t => trayState t 0 0 == .inserted && (pos0 t).present && (posOf t 0 1).serial == 77
      && !(posOf t 0 2).present && serialOf (pkgOf t 1).base == 77 && told t 0 "WiringAttestationRequired" 0 0) = true ∧
    leaves (exec (.trayInserted 0 (.compute 0) [0, 77]) State.reset) (fun t => trayState t 0 0 == .inService) = true ∧
    trayState seated 0 16 = .inserted ∧ changing seated = false ∧ swappingOther seated 0 (.switch 0) = false ∧
    leaves (exec (.returnToService 0 (.switch 0)) seated) (fun t => t.epochChange.isSome && told t 0 "ReturnToService" 16 200) = true ∧
    leaves (exec (.returnToService 0 (.compute 0)) (setRc State.reset 0 { trays := [(0, .inserted)] })) (fun t => told t 0 "ReturnToService" 0 409) = true ∧
    leaves (exec (.returnToService 0 (.switch 9)) seated) (fun t => told t 0 "ReturnToService" 25 400) = true ∧
    leaves (exec (.tcContactLoss 0 25) State.reset) (fun t => t.rcs == []) = true ∧ controllersLost seated = false ∧
    leaves (exec (.tcContactLoss 0 29) State.reset) (fun t => (rcOf t 0).lost && controllersLost t && removalAnswer t 0 (.compute 0) == 409) = true ∧
    trayOf 16 = some (.switch 0) ∧ (facingPorts up 0 (.switch 0)).contains (.pkg 0, 0) = true ∧ portUp (baseOf up (.pkg 0)) 0 = true ∧
    leaves (exec (.tcContactLoss 0 16) up) (fun t => t.rcs == []) = true ∧
    (facingPorts State.reset 0 (.switch 0)).all (fun x => !portUp (baseOf State.reset x.1) x.2) = true ∧
    leaves (exec (.tcContactLoss 0 16) State.reset) (fun t => trayState t 0 16 == .absent && t.epochChange.isSome && told t 0 "TrayLost" 16 0) = true := by
  decide +kernel

/-- EpochChanges: a change of a span with one running package and one running Weir, asked again, timed out and completed. -/
theorem witness_EpochChanges :
    let span : State := setWeir (one (live.wr (routePage + Off.ROUTE_EPOCH) 0)) 0 (weirLive.wr 0x10000 0)
    let c (n : Nat) (done : List Nat) : EpochChange := { n := 1, step := n, members := [0, 1024], done := done, edits := [], after := .nothing }
    let at' (x : EpochChange) : State := { span with epochChange := some x }
    leaves (exec .epochStepDone span) (fun t => t.epochChange == none) = true ∧
    leaves (exec .epochStepDone { (span) with waits := [([], After.nothing)] }) (fun t => t.epochChange.isSome && t.waits == []) = true ∧
    takesPart span 0 = true ∧ takesPart span 1024 = true ∧
    stepDone (at' (c 3 [0, 1024])) (c 3 [0, 1024]) = true ∧ stepDone (at' (c 1 [0])) (c 1 [0]) = false ∧
    leaves (exec .epochStepDone (at' (c 3 [0, 1024]))) (fun t => (t.epochChange.map EpochChange.step) == some 4 && (pkgOf t 0).rd (routePage + Off.ROUTE_EPOCH) % 2 == 1) = true ∧
    leaves (exec .epochStepDone (at' (c 1 [0]))) (fun t => t.epochChange == some (c 1 [0])) = true ∧
    leaves (exec .epochStepDone (at' (c 5 [0, 1024]))) (fun t => t.epoch == 1 && t.epochChange == none && told t 0 "EpochChangeDone" 1 0) = true ∧
    leaves (exec .epochOpenRetry (at' (c 1 [0]))) (fun t => t.epochChange == some (c 1 [0, 1024])) = true ∧
    leaves (exec .epochSwitchRetry (at' (c 4 [0]))) (fun t => t.epochChange == some (c 4 [0, 1024])) = true ∧
    leaves (exec .epochOpenRetry (at' (c 4 [0]))) (fun t => t.epochChange == some (c 4 [0])) = true ∧
    leaves (exec .epochSwitchRetry (at' (c 1 [0]))) (fun t => t.epochChange == some (c 1 [0])) = true ∧
    leaves (exec .epochStepTimeout (at' (c 1 [0]))) (fun t => t.epochChange == none && t.epoch == 0 && told t 0 "EpochChangeFailed" 1 0) = true ∧
    leaves (exec .epochStepTimeout (at' (c 4 [0]))) (fun t => t.epochChange == some (c 4 [0])) = true := by
  decide +kernel

/-- AttestationAndSeal: attestation of a tray and of a span, a seal's command, its start by a source that may not, its burn, offsets, a ring selection. -/
theorem witness_AttestationAndSeal :
    let sealed (n : Nat) : Package := live.wrF (hubPage 4 + Off.SEAL_STAT) 2 0 n
    let st (t : State) : Nat := (pkgOf t 0).rdF (hubPage 4 + Off.SEAL_STAT) 2 0
    let bundled : Package := { live with sealed := { live.sealed with bundle := (List.range 64).map fun i => BitVec.ofNat 8 i } }
    let ring : Package := { live with hub := { live.hub with ring := [(5, [7])] } }
    attestAnswer State.reset 0 (.compute 0) 0 = 200 ∧ attestAnswer State.reset 0 (.compute 0) 1 = 409 ∧
    leaves (exec (.attestWiring 0 (.compute 0) 1) State.reset) (fun t => told t 0 "AttestWiring" 0 409) = true ∧
    leaves (exec (.attestWiring 0 (.compute 0) 0) State.reset) (fun t => (rcOf t 0).attested == [0] && t.free == 1) = true ∧
    spanOk State.reset [(0, 0), (1, 0)] = true ∧ spanOk State.reset [(1, 0)] = false ∧
    leaves (exec (.attestSpan [(0, 0), (1, 0)]) State.reset) (fun t => t.spanRacks == [0, 1] && t.epochChange.isSome && told t 0 "AttestSpan" 2 200) = true ∧
    leaves (exec (.attestSpan [(1, 0)]) State.reset) (fun t => told t 0 "AttestSpan" 1 409 && t.spanRacks == [0]) = true ∧
    leaves (exec (.attestSpan [(0, 0), (1, 0)]) (modRc State.reset 0 fun x => { x with lost := true })) (fun t => told t 0 "AttestSpan" 2 409) = true ∧
    leaves (exec (.attestSpan [(1, 0)]) (setWeir State.reset 18 ((Weir.reset 18).mapBase fun b => Tests.running (baseIn .running (b.setPort 71 { weirEnable := true })))))
      (fun t => !((weirOf t 18).base.port 71).weirEnable && t.spanRacks == [0]) = true ∧
    sealAnswer (one live) 0 0 1 0 = 200 ∧ sealAnswer (one live) 0 0 0 0 = 400 ∧ sealAnswer (one live) 0 64 1 0 = 400 ∧
    leaves (exec (.returnSeal 0 0 0 0) (one live)) (fun t => told t 0 "ReturnSeal" 0 400 && st t == 0) = true ∧
    Safety.reaches (one live) 0 .cs (hubPage 4 + Off.SEAL_CTL) .hubSeal = true ∧ Safety.reaches (one live) 0 .pf (hubPage 4 + Off.SEAL_CTL) .hubSeal = true ∧
    leaves (exec (.sealGo 0 .pf 1) (one live)) (fun t => st t == 0) = true ∧
    bitOf 1 0 = true ∧ bitOf 2 1 = true ∧
    leaves (exec (.sealBurn 0 .cs 2) (one (sealed 3))) (fun t => st t == 5 && (pkgOf t 0).rdF (pg 3 1 + Off.ID_FLAGS) 3 0 == 1) = true ∧
    leaves (exec (.sealOffsetWrite 0 .cs 0x80000) (one bundled)) (fun t => (pkgOf t 0).rd (hubPage 4 + Off.SEAL_DATA + 28) == 0) = true ∧
    leaves (exec (.sealOffsetWrite 0 .cs 0x20) (one bundled)) (fun t => (pkgOf t 0).rd (hubPage 4 + Off.SEAL_DATA + 4) == 0x27262524) = true ∧
    leaves (exec (.ringSelWrite 0 .pf 5) (one ring)) (fun t => mget [] (pkgOf t 0).hub.ringLatch (copyOf .pf) == [7]) = true ∧
    sealState (sealed 2) = 2 ∧ sealState live = 0 ∧
    leaves (exec (.sealBundleReady 0) (one live)) (fun t => st t == 0) = true := by
  decide +kernel
/-! ## Values of the manual's walk-throughs -/

/-- The page of tile 5, a page of pegs, a route entry, and the power page stand where the manual computes them (R11, R150, R163, R348). -/
theorem test_addresses :
    tilePage 5 0 + Off.PAGE_STAT = 0x150000C ∧ pegAllocReg (11 * 512 + 6) = 0x300B418 ∧ routePage + Off.ROUTE_EPOCH = 0x3800080 ∧
    pg 0x38 (0x10 + 4 * 1 + 10 / 256) + Off.ROUTE_ENTRY + 4 * (10 % 256) = 0x3814428 ∧
    pg 0x38 (0x10 + 4 * 1 + 330 / 256) + Off.ROUTE_ENTRY + 4 * (330 % 256) = 0x3815528 ∧ pw Off.CAP_TC = 0x200084 := by
  decide +kernel

/-- The fields of the MATMUL of tile 1's stage (R95, R99). -/
theorem test_matmul_fields :
    let d : Bytes := [0x10, 0x07, 0x25, 0x00, 0x04, 0x00, 0x06, 0x00, 0x25, 0, 0, 0, 1, 0, 0, 0, 0, 0, 4, 0x10, 0, 0, 0, 0, 0, 0, 0, 0, 0, 0, 0x10, 0x10,
      0x40, 0, 0, 0x10, 0, 0x10, 0x93, 3, 0, 0x10, 0, 0, 0, 8, 0, 0, 0, 0x10, 0, 0, 0, 0, 0, 0, 0, 0, 0x80, 0, 0xFF, 0, 0, 0]
    d.length = 64 ∧ dOp d = 0x10 ∧ dWait d = true ∧ dBump d = true ∧ dOrder d = true ∧ dTag d = 0x25 ∧ dWaitPeg d = 4 ∧ dBumpPeg d = 6 ∧
    dWaitValue d = 37 ∧ dBumpAdd d = 1 ∧ (matOf d).a = 0x10040000 ∧ (matOf d).d = 0x10100000 ∧ (matOf d).m = 64 ∧
    (matOf d).n = 4096 ∧ (matOf d).k = 4096 ∧ (matOf d).fa = 3 ∧ (matOf d).fb = 9 ∧ (matOf d).scB = 0x800000 := by
  decide +kernel

/-- A peg that wraps: 3 is waited for and not reached, the wrapped value is (R138). -/
theorem test_peg_wrap : waitPasses 0xFFFFFFFE 0xFFFFFFFE = true ∧ waitPasses 0xFFFFFFFE 0xFFFFFFFF = false ∧ waitPasses 0 0xFFFFFFFD = true ∧
    waitPasses 0 0 = true ∧ waitPasses 0 1 = false := by
  decide +kernel

/-- The BF16 tree over ports 3, 9, 17 and 40, and without port 9; FP8 sums that saturate and that overflow (R248, R249). -/
theorem test_reduction_tree :
    treeReduce 1 0 4 [([0x4380], false), ([0x3F80], false), ([0x3F80], false), ([0xC380], false)] = ([0x3F80], false) ∧
    treeReduce 1 0 3 [([0x4380], false), ([0x3F80], false), ([0xC380], false)] = ([0], false) ∧
    (combineElem 1 0 0x3F80 0xC380).1 = 0xC37F ∧ (combineElem 3 0 0x7E 0x60).1 = 0x7E ∧ (combineElem 4 0 0x7B 0x70).1 = 0x7C := by
  decide +kernel

/-- The log record of a hung hub: its first 24 bytes (R381). -/
theorem test_hung_hub :
    let p : Package := ((Package.reset 9).mapBase fun b => Tests.running (baseIn .running b)).wr (em Off.RESET_COUNT) 0x43
    let s : State := setTc (setPkg State.reset 9 p) 2
      { lseq := 0x12C40, now := 0x0000020000000000 + 8500000, positions := [(1, { hbSeen := true, lastEdge := 0x0000020000000000 })] }
    elemAt 2 1 = some (.pkg 9) ∧
    leaves (exec (.heartbeatFault 2 1) s) (fun t => ((tcOf t 2).log.headD []).take 24 ==
      [0x40, 0x2C, 1, 0, 0x20, 0xB3, 0x81, 0, 0, 2, 0, 0, 2, 2, 0x10, 0, 0, 0, 0, 0, 0x43, 0, 0, 0]
      && told t 0 "HeartbeatFault" 9 0 && (pkgOf t 9).rd (em Off.RESET_COUNT) == 0x44) = true := by
  decide +kernel

/-- WireForms: a collective packet of a span, and an RWRITE with an extension header and a payload, read as sent. -/
theorem witness_WireForms :
    let b : Base := { isWeir := true, pos := 3 }
    let k : Pkt :=
      { cls := 3, dl := 1, epoch := 1, pitch := 4095, destRack := 15, destSlot := 63, srcRack := 15, srcSlot := 63, ordered := true
        plane := 3, spanDim := some 1, hops := 6, originTime := 0xFFFFFFFF, op := .coll, conn := 2047, psn := 0xFFFF
        coll := List.replicate 17 0xA5, payload := [1, 2] }
    let w : Pkt :=
      { plane := 3, op := .rwrite, mgmt := true, conn := 1023, psn := 0xFFFFFF, offset := 2 ^ 48 - 2, space := 3, gen := 255
        bumpPeg := 8191, arg := 7, ext := le 1 0x20 ++ le 1 8 ++ zeros 6, payload := [9, 8] }
    Safety.wirePacket k = true ∧ Safety.wirePacket w = true ∧ parsePacket b (pktLen k) (pktBytes k) = .ok k ∧
    parsePacket b (pktLen w) (pktBytes w) = .ok w := by
  decide +kernel

/-- The check values of the two CRCs over the nine digits (R61, R184). -/
theorem test_crcs :
    let d : Bytes := [0x31, 0x32, 0x33, 0x34, 0x35, 0x36, 0x37, 0x38, 0x39]
    crc32 d = 0xCBF43926 ∧ crc16 d = 0x29B1 := by
  decide +kernel

/-- The example of FIPS 197, appendix B (R375). -/
theorem test_aes :
    aesBlock [0x2B, 0x7E, 0x15, 0x16, 0x28, 0xAE, 0xD2, 0xA6, 0xAB, 0xF7, 0x15, 0x88, 0x09, 0xCF, 0x4F, 0x3C]
      [0x32, 0x43, 0xF6, 0xA8, 0x88, 0x5A, 0x30, 0x8D, 0x31, 0x31, 0x98, 0xA2, 0xE0, 0x37, 0x07, 0x34] =
      [0x39, 0x25, 0x84, 0x1D, 0x02, 0xDC, 0x09, 0xFB, 0xDC, 0x11, 0x85, 0x97, 0x19, 0x6A, 0x0B, 0x32] := by
  decide +kernel

/-- An idle queue and one command at its front. -/
theorem test_step : step State.reset = .next State.reset ∧
    step { State.reset with pending := [.epochStepDone, .epochOpenRetry] } = .next { State.reset with pending := [.epochOpenRetry] } :=
  ⟨rfl, rfl⟩

/-! ## Ill-formed commands, one for each check -/

theorem test_wf_numbers : Instr.wf (.budgetTick 1024) = false ∧ Instr.wf (.weirEpochWrite 288 0) = false ∧ Instr.wf (.coolantConditionEnd 480 1) = false ∧
    Instr.wf (.imageReq 0 4) = false ∧ Instr.wf (.ptpLockLoss 16) = false ∧ Instr.wf (.tcContactLoss 0 30) = false ∧
    Instr.wf (.resetPackage 0 64) = false ∧ Instr.wf (.budgetTick 1023) = true := by
  decide

theorem test_wf_parts : Instr.wf (.inputUndervoltage (.pkg 1024)) = false ∧ Instr.wf (.inputUndervoltage (.weir 288)) = false ∧
    Instr.wf (.downNotice (.pkg 0) 18) = false ∧ Instr.wf (.downNotice (.weir 0) 72) = false ∧ Instr.wf (.downNotice (.weir 0) 71) = true ∧
    Instr.wf (.prepareRemovalCompute 0 16) = false ∧ Instr.wf (.prepareRemovalSwitch 0 9) = false ∧ Instr.wf (.clearFault 0 (.compute 16)) = false ∧
    Instr.wf (.clearFault 0 (.switch 9)) = false ∧ Instr.wf (.flitReplayRequest 0 20 0 0) = false ∧ Instr.wf (.repairDone 0 16) = false := by
  decide

theorem test_wf_issuers : Instr.wf (.strikeCtrlGo 0 (.vf 0) 0 0) = false ∧ Instr.wf (.strikeCtrlGo 0 (.vf 17) 0 0) = false ∧
    Instr.wf (.strikeCtrlGo 0 (.fabric 4096 0 0) 0 0) = false ∧ Instr.wf (.strikeCtrlGo 0 (.fabric 0 16 0) 0 0) = false ∧
    Instr.wf (.strikeCtrlGo 0 (.fabric 0 0 64) 0 0) = false ∧ Instr.wf (.strikeCtrlGo 0 .pf 0x800 0) = false ∧
    Instr.wf (.strikeCtrlGo 0 .pf 0x4000000 0) = false ∧ Instr.wf (.strikeCtrlGo 0 .pf 0 (2 ^ 32)) = false ∧
    Instr.wf (.strikeCtrlGo 0 .pf 0x3FFF000 0) = true ∧ Instr.wf (.controlWrite 0 .pf 0x4000000 4 0) = false ∧
    Instr.wf (.controlWrite 0 .pf 0 2 0) = false ∧ Instr.wf (.controlWrite 0 .pf 0 8 (2 ^ 64)) = false := by
  decide

theorem test_wf_engines : Instr.wf (.hopTailWrite 0 (.core 2) 0 0 0) = false ∧ Instr.wf (.hopTailWrite 0 (.page (.vf 0)) 0 0 0) = false ∧
    Instr.wf (.hopTailWrite 0 (.core 0) 0 4 0) = false ∧ Instr.wf (.descriptorFetch 0 (.tile 16 0)) = false ∧ Instr.wf (.descriptorFetch 0 (.tile 0 4)) = false ∧
    Instr.wf (.descriptorFetch 0 (.host 0 0)) = false ∧ Instr.wf (.descriptorFetch 0 (.host 17 0)) = false ∧ Instr.wf (.descriptorFetch 0 (.host 1 4)) = false ∧
    Instr.wf (.engineFailed 0 0 9) = false ∧ Instr.wf (.corePegSet 0 0 2 0 0) = false ∧ Instr.wf (.corePegSet 0 0 0 512 0) = false ∧
    Instr.wf (.pegAllocWrite 0 .pf 8192 0) = false ∧ Instr.wf (.stackTrainingLost 0 8) = false ∧ Instr.wf (.ackTimer 0 4096) = false ∧
    Instr.wf (.pushTimeout 0 2048) = false ∧ Instr.wf (.pitchStalled 0 4096) = false ∧ Instr.wf (.msixHoldoffEnd 0 1 2) = false ∧
    Instr.wf (.msixHoldoffEnd 0 0 0) = false ∧ Instr.wf (.vfFlr 0 17) = false ∧ Instr.wf (.d3hot 0 17 true) = false ∧ Instr.wf (.push 0 .pf 2 0) = false := by
  decide

end Sys2Proof.Tests
end

section
/-! PROOFS. The values at reset, and what an accepted AttestSpan does where a rack it names has lost its controller. -/

namespace Sys2Proof.Machine

/-! ## Registers at reset -/

@[simp] theorem pkgOf_reset (k : Nat) : pkgOf State.reset k = Package.reset k := rfl

/-- A package at reset stores no register, so each field reads its stated reset value (R13). -/
@[simp] theorem rdF_reset (k a hi lo : Nat) : (Package.reset k).rdF a hi lo = fld (pkgReset a) hi lo := rfl

/-- Settles O4: no register is stored at reset, so each one read is a value of the register table, the same in every package. -/
theorem resetValues : Obligations.ResetValues := by
  unfold Obligations.ResetValues
  have hepoch : fld (pkgReset (routePage + Off.ROUTE_EPOCH)) 2 0 = 6 := by decide
  have hcapTc : fld (pkgReset (pw Off.CAP_TC)) 10 0 = 800 := by decide
  have hcapHost : fld (pkgReset (pw Off.CAP_HOST)) 10 0 = 1600 := by decide
  have hfunctions : fld (pkgReset (pfPage + Off.HIF_CFG)) 4 0 = 16 := by decide
  have hreach : fld (pkgReset (tilePage 3 1 + Off.STRIKE_CTRL)) 3 1 = 2 := by decide
  have hroute : fld (pkgReset (tilePage 3 1 + Off.EVT_ROUTE)) 2 0 = 1 := by decide
  refine ⟨rfl, rfl, rfl, fun k => ?_⟩
  simp only [pkgOf_reset, rdF_reset, true_and]
  exact ⟨hepoch, hcapTc, hcapHost, hfunctions, hreach, hroute⟩

/-! ## What attesting a Weir leaves alone -/

/-- Two states have the same rack controllers, and the same of the span but its packages, Weirs and tray controllers. -/
def SameRacks (s t : State) : Prop := t.rcs = s.rcs ∧ SameSpan s t

theorem SameRacks.refl (s : State) : SameRacks s s := ⟨rfl, rfl, rfl, rfl, rfl, rfl, rfl⟩

theorem SameRacks.trans {s t u : State} (h : SameRacks s t) (g : SameRacks t u) : SameRacks s u := by
  obtain ⟨hrcs, hspan⟩ := h
  obtain ⟨grcs, gspan⟩ := g
  exact ⟨grcs.trans hrcs, gspan.1.trans hspan.1, gspan.2.trans hspan.2, gspan.3.trans hspan.3, gspan.4.trans hspan.4,
    gspan.5.trans hspan.5, gspan.6.trans hspan.6⟩

/-- A fold of operations each of which leaves the racks alone leaves them alone. -/
theorem SameRacks.foldl {α : Type} {f : State → α → State} (h : ∀ s a, SameRacks s (f s a)) (l : List α) (s : State) :
    SameRacks s (l.foldl f s) :=
  foldl_keeps (SameRacks s) f (fun t a ht => ht.trans (h t a)) l s (.refl s)

theorem sameRacks_tcWeirWrite (s : State) (k a v : Nat) : SameRacks s (tcWeirWrite s k a v) :=
  ⟨rfl, rfl, rfl, rfl, rfl, rfl, rfl⟩

theorem sameRacks_attestEnd_weir (s : State) (k q serial partner : Nat) :
    SameRacks s (attestEnd s (.weir k) q serial partner) := ⟨rfl, rfl, rfl, rfl, rfl, rfl, rfl⟩

theorem sameRacks_attestWeir (s : State) (k : Nat) : SameRacks s (attestWeir s k) :=
  (sameRacks_tcWeirWrite s k _ _).trans (SameRacks.foldl (fun t q => sameRacks_attestEnd_weir t k q _ _) _ _)

/-! ## Changes of a span that has lost a rack controller -/

theorem controllersLost_of_mem {s : State} {r : Nat} (hr : r ∈ s.spanRacks) (hlost : (rcOf s r).lost = true) :
    controllersLost s = true := List.any_eq_true.mpr ⟨r, hr, hlost⟩

/-- While a rack controller of the span is lost, a change that is asked for waits (R21). -/
theorem askChange_of_controllersLost {s : State} (h : controllersLost s = true) (edits : List Edit) (after : After) :
    askChange s edits after = { s with waits := s.waits ++ [(edits, after)] } := by
  simp [askChange, h]

/-- An answer does not change which rack controllers are lost. -/
theorem rcAnswer_lost (s : State) (rack : Nat) (name : String) (subject http r : Nat) :
    (rcOf (rcAnswer s rack name subject http) r).lost = (rcOf s r).lost := by
  by_cases h : r = rack
  · subst h; simp [rcAnswer]
  · simp [rcAnswer, modRc, rcOf_setRc_ne _ _ h]

/-- An accepted AttestSpan that brings into the span a rack whose controller is lost starts no epoch change: AttestSpan is refused only
where a rack of the span as it was has lost its controller, and its change is asked for in the span as it becomes (R21, R457). -/
theorem attestSpan_epochChange_of_lost {s : State} {coords : List (Nat × Nat)} {r : Nat} (hc : changing s = false)
    (hr : removing s = false) (hl : controllersLost s = false) (hok : spanOk s coords = true) (hr16 : r < 16)
    (hnamed : r ∈ spanOf coords) (hlost : (rcOf s r).lost = true) :
    ∃ t, exec (.attestSpan coords) s = .next t ∧ t.epochChange = none := by
  let racks := (List.range 16).filter (spanOf coords).contains
  let u := (weirsIn { s with spanRacks := racks } racks).foldl attestWeir { s with spanRacks := racks }
  have hexec : exec (.attestSpan coords) s =
      .next (askChange (rcAnswer u 0 "AttestSpan" coords.length 200) [] (.spanned racks)) := by
    simp [exec, execAttestSpan, hc, hr, hl, hok, u, racks]
  obtain ⟨hrcs, hspan⟩ : SameRacks { s with spanRacks := racks } u := .foldl sameRacks_attestWeir _ _
  have hmem : r ∈ racks := by simp [racks, hr16, hnamed]
  have hulost : controllersLost (rcAnswer u 0 "AttestSpan" coords.length 200) = true := by
    refine controllersLost_of_mem (r := r) (hspan.spanRacks ▸ hmem) ?_
    rw [rcAnswer_lost, rcOf, hrcs]
    exact hlost
  obtain ⟨hnone, -⟩ : s.epochChange = none ∧ s.waits = [] := by simpa [changing] using hc
  refine ⟨_, hexec, ?_⟩
  rw [askChange_of_controllersLost hulost]
  exact hspan.epochChange.trans hnone

/-- Refutes O59: in a span of rack 0 alone, where the controller of rack 1 is lost (as TC_CONTACT_LOSS of its management tray leaves it
from reset), AttestSpan of racks 0 and 1 is accepted, and its change waits: no epoch change runs. -/
theorem not_attestationAndSeal : ¬ Obligations.AttestationAndSeal := by
  unfold Obligations.AttestationAndSeal
  rintro ⟨-, hspan, -⟩
  let s : State := modRc State.reset 1 fun x => { x with lost := true }
  have hc : changing s = false := by decide
  have hr : removing s = false := by decide
  have hl : controllersLost s = false := by decide
  have hok : spanOk s [(0, 0), (1, 0)] = true := by decide
  obtain ⟨-, -, haccept⟩ := hspan s [(0, 0), (1, 0)]
  obtain ⟨t, ht, -, hsome, -⟩ := haccept hc hr hl hok
  obtain ⟨u, hu, hnone⟩ := attestSpan_epochChange_of_lost (r := 1) hc hr hl hok (by decide) (by decide) (by decide)
  obtain rfl : t = u := by simpa [ht] using hu
  simp [hnone] at hsome

end Sys2Proof.Machine
end

section
/-! PROOFS. The mapping of interleaved memory, its inverse, and that each byte is reached once (R115). -/

namespace Sys2Proof.Machine

/-- The 3-bit field `i` of a granule number of interleaved memory (R115). -/
def ilvField (g i : Nat) : Nat := g % 2 ^ 28 / 8 ^ i % 8

theorem ilvStack_eq_fields (hash g : Nat) : ilvStack hash g =
    if hash = 1 then g % 8 else ilvField g 0 ^^^ ilvField g 1 ^^^ ilvField g 2 ^^^ ilvField g 3 ^^^ ilvField g 4 ^^^
      ilvField g 5 ^^^ ilvField g 6 ^^^ ilvField g 7 ^^^ ilvField g 8 ^^^ ilvField g 9 := by
  simp only [ilvStack, List.range, List.range.loop, List.foldl, Nat.zero_xor, ilvField]

theorem ilvField_zero (g : Nat) : ilvField g 0 = g % 8 := by simp only [ilvField]; omega

/-- The fields above the lowest do not see it. -/
theorem ilvField_succ (g i : Nat) : ilvField g (i + 1) = ilvField (g / 8 * 8) (i + 1) := by
  have h : g % 2 ^ 28 / 8 = g / 8 * 8 % 2 ^ 28 / 8 := by omega
  have hpow : 8 ^ (i + 1) = 8 * 8 ^ i := Nat.pow_succ'
  simp only [ilvField, hpow, ← Nat.div_div_eq_div_mul, h]

/-- The eight granules of a group lie on stacks that differ in the low bits of their numbers alone. -/
theorem ilvStack_eq_xor (hash g : Nat) : ilvStack hash g = ilvStack hash (g / 8 * 8) ^^^ g % 8 := by
  rw [ilvStack_eq_fields, ilvStack_eq_fields hash (g / 8 * 8)]
  split
  · simp
  · rw [ilvField_succ g 0, ilvField_succ g 1, ilvField_succ g 2, ilvField_succ g 3, ilvField_succ g 4, ilvField_succ g 5,
      ilvField_succ g 6, ilvField_succ g 7, ilvField_succ g 8, ilvField_zero, ilvField_zero]
    simp only [Nat.mul_mod_left, Nat.zero_xor]
    ac_rfl

/-- The interleaved offset that reaches an exposed one: the inverse of `ilvToExposed`. -/
def exposedToIlv (hash c : Nat) : Nat :=
  let group := c % stackSize / 0x800
  (group * 8 + (ilvStack hash (group * 8) ^^^ c / stackSize)) * 0x800 + c % 0x800

theorem ilvStack_group (hash : Nat) {group j : Nat} (hj : j < 8) :
    ilvStack hash (group * 8 + j) = ilvStack hash (group * 8) ^^^ j := by
  rw [ilvStack_eq_xor, show (group * 8 + j) / 8 = group by omega, show (group * 8 + j) % 8 = j by omega]

theorem xor_xor_cancel (a b : Nat) : a ^^^ (a ^^^ b) = b := by rw [← Nat.xor_assoc, Nat.xor_self, Nat.zero_xor]

theorem xor_lt_eight {a b : Nat} (ha : a < 8) (hb : b < 8) : a ^^^ b < 8 := Nat.xor_lt_two_pow (n := 3) ha hb

theorem ilvToExposed_lt {hash x : Nat} (hx : x < dramSize) : ilvToExposed hash x < dramSize := by
  have hs := ilvStack_lt hash (x / 0x800)
  simp only [ilvToExposed, dramSize, stackSize] at *
  omega

theorem exposedToIlv_lt {hash c : Nat} (hc : c < dramSize) : exposedToIlv hash c < dramSize := by
  have hs := xor_lt_eight (ilvStack_lt hash (c % stackSize / 0x800 * 8)) (b := c / stackSize)
    (by simp only [dramSize, stackSize] at *; omega)
  simp only [exposedToIlv, dramSize, stackSize] at *
  omega

theorem exposedToIlv_ilvToExposed (hash : Nat) {x : Nat} (hx : x < dramSize) :
    exposedToIlv hash (ilvToExposed hash x) = x := by
  have hstack : ilvToExposed hash x / stackSize = ilvStack hash (x / 0x800) := by
    simp only [ilvToExposed, dramSize, stackSize] at *; omega
  have hgroup : ilvToExposed hash x % stackSize / 0x800 = x / 0x800 / 8 := by
    simp only [ilvToExposed, dramSize, stackSize] at *; omega
  have hbyte : ilvToExposed hash x % 0x800 = x % 0x800 := by
    simp only [ilvToExposed, stackSize]; omega
  simp only [exposedToIlv, hstack, hgroup, hbyte]
  rw [ilvStack_eq_xor hash (x / 0x800), xor_xor_cancel]
  omega

theorem ilvToExposed_exposedToIlv (hash : Nat) {c : Nat} (hc : c < dramSize) :
    ilvToExposed hash (exposedToIlv hash c) = c := by
  have hs := xor_lt_eight (ilvStack_lt hash (c % stackSize / 0x800 * 8)) (b := c / stackSize)
    (by simp only [dramSize, stackSize] at *; omega)
  have hgranule : exposedToIlv hash c / 0x800 =
      c % stackSize / 0x800 * 8 + (ilvStack hash (c % stackSize / 0x800 * 8) ^^^ c / stackSize) := by
    simp only [exposedToIlv]; omega
  have hbyte : exposedToIlv hash c % 0x800 = c % 0x800 := by simp only [exposedToIlv]; omega
  simp only [ilvToExposed, hgranule, hbyte, ilvStack_group hash hs, xor_xor_cancel]
  simp only [stackSize] at *
  omega

theorem ilvToExposed_inj {hash x y : Nat} (hx : x < dramSize) (hy : y < dramSize)
    (h : ilvToExposed hash x = ilvToExposed hash y) : x = y := by
  rw [← exposedToIlv_ilvToExposed hash hx, h, exposedToIlv_ilvToExposed hash hy]

/-- Settles O26: within a group of eight granules the stacks are the granules' low bits xored with one number, so each stack has
one of them, and `exposedToIlv` undoes the mapping. -/
theorem interleaveOnce : Obligations.InterleaveOnce := by
  unfold Obligations.InterleaveOnce
  refine ⟨fun hash x _ hx => ⟨by omega, ?_, ilvToExposed_lt hx⟩, fun hash k _ _ u hu => ?_,
    fun hash x y _ hx hy h => ilvToExposed_inj hx hy h,
    fun hash c _ hc => ⟨exposedToIlv hash c, exposedToIlv_lt hc, ilvToExposed_exposedToIlv hash hc⟩, by decide⟩
  · simp only [ilvToExposed, ilvStack_eq_fields]
    rfl
  · have hbase := ilvStack_lt hash (k * 8)
    refine ⟨ilvStack hash (k * 8) ^^^ u, xor_lt_eight hbase hu, ?_, fun i hi h => ?_⟩
    · rw [Nat.mul_comm 8, ilvStack_group hash (xor_lt_eight hbase hu), xor_xor_cancel]
    · rw [← h, Nat.mul_comm 8, ilvStack_group hash hi, xor_xor_cancel]

end Sys2Proof.Machine
end

section
/-! PROOFS. A write of DRAM: what is put, what is lost with an uncorrectable sector, and how it ends (R120, R283). -/

namespace Sys2Proof.Machine

/-! ## The bytes of an access are distinct -/

theorem regionOf_eq_ilv {p : Package} {x : Nat} (h : regionOf p x = some .ilv) : ilvBase ≤ x ∧ x < ilvBase + dramSize := by
  unfold regionOf at h
  split at h
  · simp at h
  · split at h
    · assumption
    · split at h <;> simp at h

theorem lt_ilvBase_of_regionOf {p : Package} {x : Nat} (h : (regionOf p x).isSome = true) (hne : regionOf p x ≠ some .ilv) :
    x < ilvBase := by
  have hdram : dramSize ≤ ilvBase := by decide
  have hsram : sramBase 16 ≤ ilvBase := by decide
  unfold regionOf at h hne
  split at h
  · omega
  · split at h
    · rename_i hlow hin
      exact absurd (by rw [if_neg hlow, if_pos hin]) hne
    · split at h
      · omega
      · simp at h

/-- An access inside one region lies below interleaved memory, or within it. -/
theorem inRegion_side {p : Package} {off n : Nat} (h : inRegion p off n = true) :
    off + n ≤ ilvBase ∨ ilvBase ≤ off ∧ off + n ≤ ilvBase + dramSize := by
  simp only [inRegion, Bool.and_eq_true, decide_eq_true_eq] at h
  obtain ⟨⟨⟨⟨hpos, hsome⟩, hends⟩, -⟩, -⟩ := h
  by_cases hilv : regionOf p off = some .ilv
  · have hlast := regionOf_eq_ilv (hends ▸ hilv)
    exact .inr ⟨(regionOf_eq_ilv hilv).1, by omega⟩
  · have hlast := lt_ilvBase_of_regionOf (hends ▸ hsome) (hends ▸ hilv)
    exact .inl (by omega)

/-- An access reaches each byte once. -/
theorem canon_inj {p : Package} {off n i j : Nat} (h : inRegion p off n = true) (hi : i < n) (hj : j < n)
    (heq : canon p (off + i) = canon p (off + j)) : i = j := by
  rcases inRegion_side h with hlow | ⟨hbase, htop⟩
  · rw [canon_low p (by omega), canon_low p (by omega)] at heq
    omega
  · rw [canon, canon, if_pos (by omega), if_pos (by omega)] at heq
    have := ilvToExposed_inj (by omega) (by omega) heq
    omega

/-! ## Bytes of DRAM as they are zeroed and written -/

/-- Two packages hold the same cells, and the same granules of DRAM are scrubbed. -/
def SameStore (p q : Package) : Prop := q.mem.cells = p.mem.cells ∧ q.mem.dramClean = p.mem.dramClean

theorem SameStore.refl (p : Package) : SameStore p p := ⟨rfl, rfl⟩

theorem SameStore.trans {p q r : Package} (h : SameStore p q) (g : SameStore q r) : SameStore p r :=
  ⟨g.1.trans h.1, g.2.trans h.2⟩

theorem SameStore.unscrubbed {p q : Package} (h : SameStore p q) {c : Nat} (hc : c < dramSize) :
    unscrubbed q c = unscrubbed p c := by
  simp [Machine.unscrubbed, hc, h.2]

theorem SameStore.byteValue {p q : Package} (h : SameStore p q) {c : Nat} (hc : c < dramSize) : byteValue q c = byteValue p c := by
  simp [Machine.byteValue, h.unscrubbed hc, h.1]

/-- What a fold of operations that each keep the store leaves of it. -/
theorem SameStore.foldl {α : Type} {f : Package → α → Package} (h : ∀ p a, SameStore p (f p a)) (l : List α) (p : Package) :
    SameStore p (l.foldl f p) :=
  foldl_keeps (SameStore p) f (fun q a hq => hq.trans (h q a)) l p (.refl p)

theorem zeroGranule_base {p : Package} {c : Nat} (hc : c < dramSize) : (zeroGranule p c).base = p.base := by
  simp [zeroGranule, hc]

theorem zeroGranule_cells {p : Package} {c : Nat} (hc : c < dramSize) :
    (zeroGranule p c).mem.cells = memZero p.mem.cells (dramGranule c * 0x200000) 0x200000 := by
  simp [zeroGranule, granuleRange, dramGranule, hc]

theorem unscrubbed_zeroGranule {p : Package} {c d : Nat} (hc : c < dramSize) (hd : d < dramSize) :
    unscrubbed (zeroGranule p c) d = (unscrubbed p d && decide (dramGranule d ≠ dramGranule c)) := by
  simp only [unscrubbed, zeroGranule, hc, hd, if_true]
  split <;> rename_i hclean
  · by_cases hg : dramGranule d = dramGranule c
    · simpa [hg] using hclean
    · simp [hg]
  · by_cases hg : dramGranule d = dramGranule c <;> simp [hg]

theorem byteValue_zeroGranule {p : Package} {c d : Nat} (hc : c < dramSize) (hd : d < dramSize) :
    byteValue (zeroGranule p c) d = if dramGranule d = dramGranule c then 0 else byteValue p d := by
  simp only [byteValue, unscrubbed_zeroGranule hc hd, zeroGranule_cells hc, memByte_memZero]
  by_cases hg : dramGranule d = dramGranule c
  · have hin : dramGranule c * 0x200000 ≤ d ∧ d < dramGranule c * 0x200000 + 0x200000 := by simp only [dramGranule] at *; omega
    simp [hg, hin]
  · have hout : ¬(dramGranule c * 0x200000 ≤ d ∧ d < dramGranule c * 0x200000 + 0x200000) := by
      simp only [dramGranule] at *; omega
    simp [hg, hout]

theorem putByte_base {p : Package} {c : Nat} (x : Byte) (hc : c < dramSize) : (putByte p c x).base = p.base := by
  unfold putByte
  split
  · exact zeroGranule_base hc
  · rfl

/-- A byte put reads as it was put, and every other byte of DRAM as before: what zeroing its granule hides read as zero. -/
theorem byteValue_putByte {p : Package} {c d : Nat} (x : Byte) (hc : c < dramSize) (hd : d < dramSize) :
    byteValue (putByte p c x) d = if d = c then x else byteValue p d := by
  let q := if unscrubbed p c then zeroGranule p c else p
  have hput : byteValue (putByte p c x) d = if unscrubbed q d then 0 else if d = c then x else memByte q.mem.cells d := by
    rw [← memByte_memSet]; rfl
  have hclean : unscrubbed q c = false := by
    by_cases hu : unscrubbed p c = true <;> simp [q, hu, unscrubbed_zeroGranule hc hc]
  have hbefore : byteValue q d = byteValue p d := by
    by_cases hu : unscrubbed p c = true
    · simp only [q, hu, if_true, byteValue_zeroGranule hc hd]
      split <;> rename_i hg
      · have : unscrubbed p d = unscrubbed p c := by simp [unscrubbed, hc, hd, hg]
        simp [byteValue, this, hu]
      · rfl
    · simp [q, hu]
  rw [hput, ← hbefore]
  by_cases hdc : d = c
  · subst hdc; simp [hclean]
  · simp [hdc, byteValue]

/-- The bytes of a list put one after another. -/
def putAll (p : Package) (l : List (Nat × Byte)) : Package := l.foldl (fun p t => putByte p t.1 t.2) p

theorem putAll_base {l : List (Nat × Byte)} (p : Package) (hl : ∀ t ∈ l, t.1 < dramSize) : (putAll p l).base = p.base := by
  induction l generalizing p with
  | nil => rfl
  | cons t l ih =>
    obtain ⟨ht, hl⟩ := List.forall_mem_cons.mp hl
    exact (ih _ hl).trans (putByte_base t.2 ht)

theorem byteValue_putAll_of_notMem {l : List (Nat × Byte)} (p : Package) {d : Nat} (hl : ∀ t ∈ l, t.1 < dramSize)
    (hd : d < dramSize) (hn : ∀ t ∈ l, t.1 ≠ d) : byteValue (putAll p l) d = byteValue p d := by
  induction l generalizing p with
  | nil => rfl
  | cons t l ih =>
    obtain ⟨ht, hl⟩ := List.forall_mem_cons.mp hl
    obtain ⟨htd, hn⟩ := List.forall_mem_cons.mp hn
    refine (ih _ hl hn).trans ?_
    rw [byteValue_putByte t.2 ht hd, if_neg (Ne.symm htd)]

/-- A byte put reads as it was put, where the list gives it one value. -/
theorem byteValue_putAll_of_mem {l : List (Nat × Byte)} (p : Package) {d : Nat} {x : Byte} (hl : ∀ t ∈ l, t.1 < dramSize)
    (hd : (d, x) ∈ l) (hone : ∀ t ∈ l, t.1 = d → t.2 = x) : byteValue (putAll p l) d = x := by
  have hdram : d < dramSize := hl _ hd
  induction l generalizing p with
  | nil => simp at hd
  | cons t l ih =>
    obtain ⟨ht, htail⟩ := List.forall_mem_cons.mp hl
    by_cases hlater : ∃ y, (d, y) ∈ l
    · obtain ⟨y, hy⟩ := hlater
      obtain rfl : y = x := hone _ (List.mem_cons_of_mem _ hy) rfl
      exact ih _ htail hy fun t ht => hone t (List.mem_cons_of_mem _ ht)
    · have hhead : (d, x) = t := (List.mem_cons.mp hd).resolve_right fun h => hlater ⟨x, h⟩
      subst hhead
      refine (byteValue_putAll_of_notMem _ htail hdram fun t ht htd => hlater ⟨t.2, htd ▸ ht⟩).trans ?_
      rw [byteValue_putByte x hdram hdram, if_pos rfl]

theorem sameStore_repairUnit (p : Package) (c : Nat) : SameStore p (repairUnit p c) := by
  unfold repairUnit; split <;> exact ⟨rfl, rfl⟩

theorem repairUnit_base (p : Package) (c : Nat) : (repairUnit p c).base = p.base := by
  unfold repairUnit; split <;> rfl

/-! ## What a write finds in error -/

theorem mem_dedup {l : List Nat} {x : Nat} : x ∈ dedup l ↔ x ∈ l := by
  have h : ∀ acc : List Nat, x ∈ l.foldl (fun acc y => if acc.contains y then acc else acc ++ [y]) acc ↔ x ∈ acc ∨ x ∈ l := by
    induction l with
    | nil => simp
    | cons y l ih =>
      intro acc
      rw [List.foldl_cons, ih]
      split <;> rename_i hy
      · have : y ∈ acc := by simpa using hy
        constructor
        · rintro (h | h) <;> simp [h]
        · rintro (h | h)
          · exact .inl h
          · rcases List.mem_cons.mp h with rfl | h
            · exact .inl this
            · exact .inr h
      · simp [or_assoc]
  simpa [dedup] using h []

theorem mem_stackFails (p : Package) (s reason : Nat) : (stackFails p s reason).mem = p.mem := by simp [stackFails]

/-- Finding a sector uncorrectable changes nothing of the memory but what its stack remembers. -/
theorem mem_dramUncorrected (p : Package) (c die : Nat) (patrol : Bool) :
    ∃ x, (dramUncorrected p c die patrol).mem = { p.mem with stackSt := x } := by
  have h : ∀ (a : Nat) (c : Capt) (f : Base → Base) (k : Stack) (n s : Nat),
      ((raise ((p.count n).mapBase f) a 1 c).setStack s k).mem = { p.mem with stackSt := mset p.mem.stackSt s k } :=
    fun a c f k n s => by rw [Package.setStack, raise_mem]; rfl
  unfold dramUncorrected
  exact iteInduction (motive := fun q : Package => ∃ x, q.mem = { p.mem with stackSt := x })
    (fun _ => ⟨_, (mem_stackFails _ _ _).trans (h _ _ _ _ _ _)⟩) (fun _ => ⟨_, h _ _ _ _ _ _⟩)

theorem sameStore_dramUncorrected (p : Package) (c die : Nat) (patrol : Bool) :
    SameStore p (dramUncorrected p c die patrol) := by
  obtain ⟨x, hx⟩ := mem_dramUncorrected p c die patrol
  simp [SameStore, hx]

theorem sameStore_noteUncorrected (die : Nat) (p : Package) (c : Nat) :
    SameStore p (if c < dramSize then dramUncorrected p c die false else sramUncorrected p c) := by
  split
  · exact sameStore_dramUncorrected p c die false
  · simp [SameStore, sramUncorrected]

theorem sameStore_noteCorrected (p : Package) (c : Nat) :
    SameStore p (if c < dramSize then dramCorrected p c else sramCorrected p c) := by
  split
  · simp [SameStore, dramCorrected]
  · simp [SameStore, sramCorrected]

/-! ## A write of plain bytes -/

/-- A byte of a write of `cs` is lost: its word or sector is partly covered and uncorrectable (R85, R120). -/
def lostAt (p : Package) (cs : List Nat) (c : Nat) : Bool := !unscrubbed p c && unitBad p c && !coversUnit cs c

/-- The targets of a write that are not lost, and the units of those that are. -/
def keptTargets (p : Package) (off : Nat) (b : Bytes) : List (Nat × Byte) :=
  (targets p off (b.map some)).filter fun t => !lostAt p (canonRange p off b.length) t.1
def lostUnits (p : Package) (off : Nat) (b : Bytes) : List Nat :=
  dedup (((targets p off (b.map some)).filter fun t => lostAt p (canonRange p off b.length) t.1).map fun t => rmwUnit t.1)

/-- A selection that takes every element is a map. -/
theorem filterMap_eq_map_of_some {α β : Type} {f : α → Option β} {g : α → β} {l : List α} (h : ∀ a ∈ l, f a = some (g a)) :
    l.filterMap f = l.map g := by
  induction l with
  | nil => rfl
  | cons a l ih =>
    obtain ⟨ha, hl⟩ := List.forall_mem_cons.mp h
    rw [List.filterMap_cons_some ha, ih hl, List.map_cons]

theorem targets_map_some (p : Package) (off : Nat) (b : Bytes) :
    targets p off (b.map some) = (List.range b.length).map fun i => (canon p (off + i), nth 0 b i) := by
  unfold targets
  rw [List.length_map]
  refine filterMap_eq_map_of_some fun i hi => ?_
  have hlen : i < b.length := List.mem_range.mp hi
  simp [nth, hlen]

theorem map_fst_targets (p : Package) (off : Nat) (b : Bytes) :
    (targets p off (b.map some)).map (fun t => t.1) = canonRange p off b.length := by
  simp [targets_map_some, canonRange, Function.comp_def]

/-- A write that meets no hollow unit: what it notes of errors keeps the store, then the bytes it keeps are put, then units are
encoded anew. -/
theorem writeBytes_of_alive {p : Package} (die : Nat) {off : Nat} {b : Bytes}
    (halive : ∀ c ∈ canonRange p off b.length, deadAt p c = false) :
    ∃ noted fixed, SameStore p noted ∧ writeBytes p die off b =
      (List.foldl repairUnit (putAll noted (keptTargets p off b)) fixed,
        if (lostUnits p off b).any (deadAt noted) then 6 else if (lostUnits p off b).isEmpty then 0 else 8) := by
  have hlive : (targets p off (b.map some)).filter (fun t => !deadAt p t.1) = targets p off (b.map some) := by
    refine List.filter_eq_self.mpr fun t ht => ?_
    rw [halive t.1 (map_fst_targets p off b ▸ List.mem_map_of_mem ht)]
    rfl
  unfold writeBytes writeMem
  simp only [hlive, map_fst_targets, Nat.lt_irrefl, decide_false, Bool.false_or]
  refine ⟨_, _, ?_, rfl⟩
  exact (SameStore.foldl sameStore_noteCorrected _ _).trans (SameStore.foldl (sameStore_noteUncorrected die) _ _)

theorem mem_keptTargets {p : Package} {off : Nat} {b : Bytes} {t : Nat × Byte} :
    t ∈ keptTargets p off b ↔
      (∃ i < b.length, (canon p (off + i), nth 0 b i) = t) ∧ lostAt p (canonRange p off b.length) t.1 = false := by
  simp [keptTargets, targets_map_some]

theorem mem_lostUnits {p : Package} {off : Nat} {b : Bytes} {u : Nat} :
    u ∈ lostUnits p off b ↔
      ∃ c ∈ canonRange p off b.length, lostAt p (canonRange p off b.length) c = true ∧ rmwUnit c = u := by
  rw [lostUnits, mem_dedup, targets_map_some]
  generalize lostAt p (canonRange p off b.length) = lost
  simp only [canonRange, List.mem_map, List.mem_filter, List.mem_range]
  constructor
  · rintro ⟨t, ⟨⟨i, hi, rfl⟩, hlost⟩, rfl⟩
    exact ⟨_, ⟨i, hi, rfl⟩, hlost, rfl⟩
  · rintro ⟨c, ⟨i, hi, rfl⟩, hlost, rfl⟩
    exact ⟨(canon p (off + i), nth 0 b i), ⟨⟨i, hi, rfl⟩, hlost⟩, rfl⟩

/-! ## Sectors of DRAM -/

theorem lostAt_dram (p : Package) (cs : List Nat) {c : Nat} (hc : c < dramSize) : lostAt p cs c =
    (!unscrubbed p c && p.mem.dramBad.contains (c / 32) && !((List.range 32).all fun i => cs.contains (c / 32 * 32 + i))) := by
  simp only [lostAt, unitBad, coversUnit, rmwSize, rmwUnit, hc, if_true]

/-- A sector is lost whole. -/
theorem lostAt_sector (p : Package) (cs : List Nat) {c d : Nat} (hc : c < dramSize) (hd : d < dramSize) (h : d / 32 = c / 32) :
    lostAt p cs d = lostAt p cs c := by
  have hgranule : dramGranule d = dramGranule c := by simp only [dramGranule]; omega
  simp only [lostAt_dram p cs hc, lostAt_dram p cs hd, h, unscrubbed, hc, hd, if_true, hgranule]

theorem deadAt_congr {p q : Package} (h : q.base = p.base) (c : Nat) : deadAt q c = deadAt p c := by
  simp [deadAt, stackDead, Package.rd, h]

theorem deadAt_rmwUnit (p : Package) {c : Nat} (hc : c < dramSize) : deadAt p (rmwUnit c) = deadAt p c := by
  have hunit : c / 32 * 32 < dramSize := by omega
  have hstack : stackOf (c / 32 * 32) = stackOf c := by simp only [stackOf, stackSize]; omega
  simp [deadAt, rmwUnit, hc, hunit, hstack]

section
variable {p : Package} (die : Nat) {off : Nat} {b : Bytes}
  (hdram : ∀ c ∈ canonRange p off b.length, c < dramSize ∧ deadAt p c = false)
include hdram

theorem keptTargets_dram : ∀ t ∈ keptTargets p off b, t.1 < dramSize := by
  intro t ht
  obtain ⟨⟨i, hi, rfl⟩, -⟩ := mem_keptTargets.mp ht
  exact (hdram _ (List.mem_map_of_mem (List.mem_range.mpr hi))).1

/-- A sector that the write loses keeps every byte. -/
theorem byteValue_writeBytes_of_lost {c d : Nat} (hc : c < dramSize) (hd : d ∈ canonRange p off b.length) (hsector : d / 32 = c / 32)
    (hlost : lostAt p (canonRange p off b.length) d = true) : byteValue (writeBytes p die off b).1 c = byteValue p c := by
  obtain ⟨noted, fixed, hnoted, hwrite⟩ := writeBytes_of_alive die fun d hd => (hdram d hd).2
  have hkept : ∀ t ∈ keptTargets p off b, t.1 ≠ c := by
    rintro t ht rfl
    have hfound := (mem_keptTargets.mp ht).2
    rw [← lostAt_sector p _ hc (hdram d hd).1 hsector, hlost] at hfound
    contradiction
  calc byteValue (writeBytes p die off b).1 c
      = byteValue (putAll noted (keptTargets p off b)) c := by
        rw [hwrite]; exact (SameStore.foldl sameStore_repairUnit fixed _).byteValue hc
    _ = byteValue noted c := byteValue_putAll_of_notMem noted (keptTargets_dram hdram) hc hkept
    _ = byteValue p c := hnoted.byteValue hc

/-- A byte that the write does not lose takes its value. -/
theorem byteValue_writeBytes_of_kept (hin : inRegion p off b.length = true) {i : Nat} (hi : i < b.length)
    (hkept : lostAt p (canonRange p off b.length) (canon p (off + i)) = false) :
    byteValue (writeBytes p die off b).1 (canon p (off + i)) = nth 0 b i := by
  obtain ⟨noted, fixed, -, hwrite⟩ := writeBytes_of_alive die fun d hd => (hdram d hd).2
  have hc : canon p (off + i) < dramSize := (hdram _ (List.mem_map_of_mem (List.mem_range.mpr hi))).1
  have hone : ∀ t ∈ keptTargets p off b, t.1 = canon p (off + i) → t.2 = nth 0 b i := by
    intro t ht hti
    obtain ⟨⟨j, hj, rfl⟩, -⟩ := mem_keptTargets.mp ht
    rw [canon_inj hin hj hi hti]
  calc byteValue (writeBytes p die off b).1 (canon p (off + i))
      = byteValue (putAll noted (keptTargets p off b)) (canon p (off + i)) := by
        rw [hwrite]; exact (SameStore.foldl sameStore_repairUnit fixed _).byteValue hc
    _ = nth 0 b i := byteValue_putAll_of_mem noted (keptTargets_dram hdram) (mem_keptTargets.mpr ⟨⟨i, hi, rfl⟩, hkept⟩) hone

/-- A write that loses a sector and makes no stack fail ends DATA_UNCORRECTABLE. -/
theorem status_writeBytes_of_lost {c : Nat} (hc : c ∈ canonRange p off b.length)
    (hlost : lostAt p (canonRange p off b.length) c = true)
    (halive : ∀ d ∈ canonRange p off b.length, deadAt (writeBytes p die off b).1 d = false) :
    (writeBytes p die off b).2 = St.dataUncorrectable := by
  obtain ⟨noted, fixed, -, hwrite⟩ := writeBytes_of_alive die fun d hd => (hdram d hd).2
  have hbase : (writeBytes p die off b).1.base = noted.base := by
    rw [hwrite]
    exact foldl_keeps (fun q : Package => q.base = noted.base) _ (fun q u hq => (repairUnit_base q u).trans hq) _ _
      (putAll_base noted (keptTargets_dram hdram))
  have hsome : (lostUnits p off b).isEmpty = false :=
    List.isEmpty_eq_false_iff_exists_mem.mpr ⟨_, mem_lostUnits.mpr ⟨c, hc, hlost, rfl⟩⟩
  have hnone : (lostUnits p off b).any (deadAt noted) = false := by
    rw [List.any_eq_false]
    intro u hu
    obtain ⟨d, hd, -, rfl⟩ := mem_lostUnits.mp hu
    rw [deadAt_rmwUnit noted (hdram d hd).1, ← deadAt_congr hbase, halive d hd]
    exact Bool.false_ne_true
  simp [hwrite, hsome, hnone, St.dataUncorrectable]

end

/-- Settles O28: what a write keeps and what it loses go by whole sectors, so no byte of a lost sector is put; what it keeps it puts
once, since an access reaches each byte once. -/
theorem partialSectorWrites : Obligations.PartialSectorWrites := by
  unfold Obligations.PartialSectorWrites
  intro p die off b hin hdram cs lost
  have hlostAt : ∀ c < dramSize, lost c = lostAt p cs c := fun c hc => (lostAt_dram p cs hc).symm
  refine ⟨?_, ?_, ?_⟩
  · rintro c hc ⟨d, hd, hsector, hlost⟩
    rw [hlostAt d (hdram d hd).1] at hlost
    exact byteValue_writeBytes_of_lost die hdram hc hd hsector hlost
  · rintro ⟨c, hc, hlost⟩ halive
    rw [hlostAt c (hdram c hc).1] at hlost
    exact status_writeBytes_of_lost die hdram hc hlost halive
  · intro i hi hkept
    rw [hlostAt _ (hdram _ (List.mem_map_of_mem (List.mem_range.mpr hi))).1] at hkept
    exact byteValue_writeBytes_of_kept die hdram hin hi hkept

end Sys2Proof.Machine
end

section
/-! PROOFS. The scrubber where the hub records a hosted pitch under a number that no virtual function has (R284, R335). -/

namespace Sys2Proof.Machine

/-- A package whose tile 0 scrubs granule 1440 next with SCRUB_COUNT at 1, and whose hub records a hosted pitch 1, the owner of the
tile's scrub page, under the virtual function number 0xC04. No page of a virtual function has that number: `vfPage` of it is the
tile's scrub page itself, and HEQ_LOST stands there at the register of the scrub map that holds granule 1440. -/
def strayHost : Package :=
  let a := tilePage 0 4
  let p : Package := { Package.reset 0 with hub := { hosted := [(1, 0xC04)] } }
  let p := (p.mapBase fun b => { b with kin := { b.kin with phase := .running } }).wrF (kindlePage + Off.BRINGUP_STAT) 2 0 4
  let p := ((p.wrF (a + Off.PITCH_OWNER) 11 0 1).wrF (a + Off.EVT_ROUTE) 1 1 1).wrF (a + Off.EVT_EN) 0 0 1
  let p := (p.wr (a + Off.SCRUB_COUNT) 1).wr (a + Off.SCRUB_NEXT) 1440
  (p.wr (scrubReg 0 1440) 1).wr (a + Off.HEQ_CFG) 0

/-- SCRUB_DONE is then an event record that `strayHost` loses, and counting it sets the granule's bit again. -/
theorem unscrubbed_scrubGranuleDone_strayHost :
    unscrubbed (scrubGranuleDone strayHost 0) (sramBase 0 + 1440 * 0x10000) = true := by decide +kernel

/-- Refutes O39: in the package `strayHost` the scrubber of tile 0 zeroes granule 1440, and the granule is marked unscrubbed
afterwards. The statement lets the hub record any number as a virtual function; PITCH_CREATE takes it from one byte of its command,
so such a record would need a state that no run from reset makes. -/
theorem not_stacksAndRepair : ¬ Obligations.StacksAndRepair := by
  unfold Obligations.StacksAndRepair
  rintro ⟨-, hscrub, -⟩
  let s : State := setPkg State.reset 0 strayHost
  have hpkg : pkgOf s 0 = strayHost := pkgOf_setPkg_self _ _ _
  have hruns : scrubRuns (pkgOf s 0) 0 = true := by decide
  have hnext : (pkgOf s 0).rd (tilePage 0 4 + Off.SCRUB_NEXT) = 1440 := by decide
  have hset : unscrubbed (pkgOf s 0) (sramBase 0 + 1440 * 0x10000) = true := by decide
  obtain ⟨t, ht, hclean, -⟩ := hscrub s 0 0 1440 (by decide) hruns hnext (by decide) hset
  obtain ⟨hdone, -⟩ := onPkgMem_frame (f := fun x => scrubGranuleDone x 0) ht
  obtain ⟨hscrubbed, -⟩ := hclean (sramBase 0 + 1440 * 0x10000) (by decide) (by decide)
  rw [hdone, hpkg, unscrubbed_scrubGranuleDone_strayHost] at hscrubbed
  contradiction

end Sys2Proof.Machine
end

section
/-! PROOFS. A request packet at its target where the hub records a hosted pitch under a number that no virtual function has (R217, R335). -/

namespace Sys2Proof.Machine

/-- The package `strayHost`, its sixteen logical tiles numbered, as the target of an ordered connection of pitch 0 from package 1 of its
rack. -/
def strayTarget : Package :=
  (strayHost.wrF (hubPage 1 + Off.LTILE_COUNT) 4 0 16).setConn 0 { commit := true, target := true, ordered := true, peerSlot := 1 }

/-- An RWRITE of one byte, the next one in turn on that connection, into granule 1440 of tile 0. -/
def strayWrite : Pkt := { op := .rwrite, srcSlot := 1, offset := sramBase 0 + 1440 * 0x10000, payload := [1] }

/-- The write zeroes the granule, the last unscrubbed one its tile counts; SCRUB_DONE is then an event record that `strayTarget` loses,
and counting it marks the granule unscrubbed again, so its byte reads zero. -/
theorem byteValue_requestRow_strayTarget :
    byteValue (requestRow .rwrite State.reset.free strayTarget 17 strayWrite) strayWrite.offset = 0 := by decide +kernel

/-- Refutes O45: in the package `strayTarget` the RWRITE `strayWrite` is the next one in turn and nothing is in its way, and its byte
reads zero afterwards. The statement lets the hub record any number as a virtual function; PITCH_CREATE takes it from one byte of its
command, so such a record would need a state that no run from reset makes. -/
theorem not_remoteTarget : ¬ Obligations.RemoteTarget := by
  unfold Obligations.RemoteTarget
  intro h
  let s : State := setPkg State.reset 0 strayTarget
  have hpkg : pkgOf s 0 = strayTarget := pkgOf_setPkg_self _ _ _
  have hready : requestReady (pkgOf s 0) 17 strayWrite = true := by decide +kernel
  have hrange : canonRange (pkgOf s 0) strayWrite.offset 1 = [strayWrite.offset] := by decide +kernel
  have hsound : deadAt (pkgOf s 0) strayWrite.offset = false ∧ unitBad (pkgOf s 0) strayWrite.offset = false ∧
      badAt (pkgOf s 0) strayWrite.offset = false := by decide +kernel
  obtain ⟨hwrite, -⟩ := h s 0 17 strayWrite rfl (by decide) rfl hready
  obtain ⟨-, -, -, hnow⟩ := hwrite rfl
  obtain ⟨t, ht, -, hbytes, -⟩ := hnow (by decide +kernel)
    ⟨by decide +kernel, by decide +kernel, fun c hc => List.mem_singleton.mp (hrange ▸ hc) ▸ hsound⟩
  obtain ⟨htaken, -⟩ := onPkgFree_frame (f := fun free p => requestRow .rwrite free p 17 strayWrite) ht
  have hone : byteValue (pkgOf t 0) strayWrite.offset = 1 := hbytes 0 (by decide)
  rw [htaken, hpkg, show s.free = State.reset.free from rfl, byteValue_requestRow_strayTarget] at hone
  contradiction

end Sys2Proof.Machine
end

section
/-! PROOFS. The registers that an event can write (R42–R46, R335, R441). -/

namespace Sys2Proof.Machine

/-- The places within their pages of the registers that an event can write: EVT_STAT and ERR_CAPT of a page, the hub event ring's head
and count of overwrites, and the end and the losses of a virtual function's event ring. -/
def eventOffs : List Nat :=
  [Off.EVT_STAT, Off.ERR_CAPT0, Off.ERR_CAPT1, Off.ERR_CAPT2, Off.ERR_CAPT3, Off.RING_HEAD, Off.RING_OVERWRITTEN, Off.HEQ_PROD,
    Off.HEQ_LOST]

/-- Two packages read the same in every register but those an event can write. -/
def SameRegs (p q : Package) : Prop := ∀ a, offOf a ∉ eventOffs → q.rd a = p.rd a

theorem SameRegs.refl (p : Package) : SameRegs p p := fun _ _ => rfl

theorem SameRegs.trans {p q r : Package} (h : SameRegs p q) (g : SameRegs q r) : SameRegs p r :=
  fun a ha => (g a ha).trans (h a ha)

theorem SameRegs.ite {p q r : Package} {c : Prop} [Decidable c] (h : SameRegs p q) (g : SameRegs p r) :
    SameRegs p (if c then q else r) := by
  split
  · exact h
  · exact g

theorem sameRegs_of_regs {p q : Package} (hregs : q.base.regs = p.base.regs) (hweir : q.base.isWeir = p.base.isWeir) :
    SameRegs p q := fun a _ => by simp only [Package.rd, rd, hregs, hweir]

theorem offOf_page_add {a off : Nat} (ha : offOf a = 0) (hoff : off < 0x1000) : offOf (a + off) = off := by
  simp only [offOf] at *; omega

theorem offOf_pg (cls inst : Nat) : offOf (pg cls inst) = 0 := by simp only [offOf, pg]; omega

theorem offOf_pageOf (a : Nat) : offOf (pageOf a) = 0 := by simp only [offOf, pageOf]; omega

theorem lt_of_mem_eventOffs {off : Nat} (h : off ∈ eventOffs) : off < 0x1000 :=
  (by decide : ∀ x ∈ eventOffs, x < 0x1000) off h

theorem sameRegs_wr (p : Package) {a off : Nat} (v : Nat) (ha : offOf a = 0) (hoff : off ∈ eventOffs) :
    SameRegs p (p.wr (a + off) v) := by
  intro c hc
  refine Package.rd_wr_ne p v ?_
  rintro rfl
  exact hc ((offOf_page_add ha (lt_of_mem_eventOffs hoff)).symm ▸ hoff)

/-! ## What an event record reaches -/

theorem sameRegs_sendTc (p : Package) (type : Nat) (b : Bytes) : SameRegs p (p.mapBase fun x => sendTc x type b) := by
  refine sameRegs_of_regs ?_ ?_ <;> simp only [Package.mapBase_base, sendTc] <;> split <;> rfl

theorem sameRegs_hostWrite (p : Package) (fn addr : Nat) (b : Bytes) : SameRegs p (hostWrite p fn addr b) := .ite (.refl p) (.refl p)

theorem sameRegs_hostMsix (p : Package) (fn vec : Nat) : SameRegs p (hostMsix p fn vec) := .ite (.refl p) (.refl p)

theorem sameRegs_setVf (p : Package) (v : Nat) (x : Vf) : SameRegs p (p.setVf v x) := .refl p

theorem sameRegs_writeShadow (p : Package) (v : Nat) : SameRegs p (writeShadow p v) :=
  .ite ((sameRegs_hostWrite p v _ _).trans (sameRegs_setVf _ _ _)) (.refl p)

theorem sameRegs_vfSignal (p : Package) (v vec : Nat) : SameRegs p (vfSignal p v vec) := by
  have hsent := (sameRegs_writeShadow p v).trans (sameRegs_hostMsix (writeShadow p v) v vec)
  exact .ite (sameRegs_setVf p v _) (.ite hsent (hsent.trans (sameRegs_setVf _ _ _)))

theorem sameRegs_vfEvent (p : Package) (v : Nat) (head tail : Bytes) : SameRegs p (vfEvent p v head tail) := by
  refine .ite ?_ ((sameRegs_wr p _ (offOf_pg 4 v) (by decide)).trans (sameRegs_setVf _ _ _))
  exact (sameRegs_hostWrite p v _ _).trans <| (sameRegs_wr _ _ (offOf_pg 4 v) (by decide)).trans <|
    (sameRegs_setVf _ _ _).trans (sameRegs_vfSignal _ _ _)

theorem sameRegs_ringAppend (p : Package) (type sev page : Nat) (b : Bytes) : SameRegs p (ringAppend p type sev page b).1 := by
  unfold ringAppend
  split
  · exact .refl p
  · have hhead (h : HubSt) (v : Nat) : SameRegs p ({ p with hub := h }.wr (hubPage 3 + Off.RING_HEAD) v) :=
      sameRegs_wr { p with hub := h } v (offOf_pg 0 3) (by decide)
    have hover (q : Package) (c : Prop) [Decidable c] :
        SameRegs q (if c then q.mapBase fun b => bumpSat b (hubPage 3 + Off.RING_OVERWRITTEN) 1 else q) :=
      .ite (sameRegs_wr q _ (offOf_pg 0 3) (by decide)) (.refl q)
    have htold (q : Package) (c : Prop) [Decidable c] (b : Bytes) :
        SameRegs q (if c then q.mapBase fun x => sendTc x 0x06 b else q) := .ite (sameRegs_sendTc q 6 b) (.refl q)
    exact (hhead _ _).trans ((hover _ _).trans (htold _ _ _))

theorem sameRegs_sendRecordTo (p : Package) (a bit : Nat) (err forced : Bool) (c0 c2 c3 : Nat) :
    SameRegs p (sendRecordTo p a bit err forced c0 c2 c3).1 := by
  have hrung := sameRegs_ringAppend p 1 (if err then 2 else 0) (a / 0x1000)
  have hmsix (q : Package) (c : Prop) [Decidable c] (v : Nat) : SameRegs q (if c then hostMsix q 0 v else q) :=
    .ite (sameRegs_hostMsix q 0 v) (.refl q)
  have hevent (q : Package) (c : Prop) [Decidable c] (v : Nat) (x y : Bytes) : SameRegs q (if c then vfEvent q v x y else q) :=
    .ite (sameRegs_vfEvent q v x y) (.refl q)
  have hpins (q : Package) (c : Prop) [Decidable c] (f : Base → Pins) :
      SameRegs q (if c then q.mapBase fun b => { b with pins := f b } else q) := .ite (.refl q) (.refl q)
  exact (hrung _).trans <| (hmsix _ _ _).trans <| (hevent _ _ _ _ _).trans (hpins _ _ _)

theorem sameRegs_sendRecord (p : Package) (a bit : Nat) (err forced : Bool) (c0 c2 c3 : Nat) :
    SameRegs p (sendRecord p a bit err forced c0 c2 c3) := by
  have hsent := sameRegs_sendRecordTo p a bit err forced c0 c2 c3
  have hset (q : Package) (v : Nat) : SameRegs q (q.wr (hubPage 3 + Off.EVT_STAT) v) := sameRegs_wr q v (offOf_pg 0 3) (by decide)
  have hover (v : Nat) := hsent.trans (hset _ v)
  exact .ite (.ite ((hover _).trans (sameRegs_sendRecordTo _ _ _ _ _ _ _ _)) (hover _)) hsent

section
variable (p : Package) {a : Nat} (ha : offOf a = 0)
include ha

theorem sameRegs_setEvtBit (bit : Nat) (err forced : Bool) (c0 c2 c3 : Nat) : SameRegs p (setEvtBit p a bit err forced c0 c2 c3) := by
  have hset (v : Nat) := sameRegs_wr p v ha (off := Off.EVT_STAT) (by decide)
  exact .ite ((hset _).trans (sameRegs_sendRecord _ _ _ _ _ _ _ _)) (hset _)

/-- An event of a page writes no register but those that events write. -/
theorem sameRegs_raise (bit : Nat) (c : Capt) : SameRegs p (raise p a bit c) := by
  have hcapt {q : Package} {off : Nat} (v : Nat) (h : off ∈ eventOffs) : SameRegs q (q.wr (a + off) v) := sameRegs_wr q v ha h
  have hcaptured : SameRegs p ((((p.wr (a + Off.ERR_CAPT0) (capt0 bit true c)).wr (a + Off.ERR_CAPT1) p.base.gtime).wr
      (a + Off.ERR_CAPT2) c.c2).wr (a + Off.ERR_CAPT3) c.c3) :=
    ((hcapt _ (by decide)).trans (hcapt _ (by decide))).trans ((hcapt _ (by decide)).trans (hcapt _ (by decide)))
  have hset (can : Bool) (c0 : Nat) :=
    (SameRegs.ite (c := can = true) hcaptured (.refl p)).trans (sameRegs_setEvtBit _ ha bit true false c0 c.c2 c.c3)
  exact .ite (.ite (hset _ _) ((hset _ _).trans (sameRegs_setEvtBit _ ha 26 false false 0 0 0)))
    (sameRegs_setEvtBit p ha bit false false 0 0 0)

end

end Sys2Proof.Machine
end

section
/-! PROOFS. Pegs: what an operation leaves, and the waiters it releases (R134–R143). -/

namespace Sys2Proof.Machine

/-! ## Registers and pegs as they are written -/

theorem Package.rd_wrF (p : Package) (a hi lo v c : Nat) :
    (p.wrF a hi lo v).rd c = if c = a then setFld (p.rd a) hi lo v % 2 ^ 32 else p.rd c := Machine.rd_wr p.base a _ c

theorem peg_setPeg (p : Package) (n : Nat) (x : Peg) (m : Nat) : (p.setPeg n x).peg m = if m = n then x else p.peg m := by
  split <;> rename_i h
  · subst h; exact mget_mset_self _ _ _ _
  · exact mget_mset_ne _ _ _ h

theorem peg_congr {p q : Package} (h : q.tl.pegs = p.tl.pegs) (m : Nat) : q.peg m = p.peg m := by simp only [Package.peg, h]

/-! ## Waiters released (R142) -/

theorem releaseWaiter_mem (n : Nat) (p : Package) (w : Waiter) : (releaseWaiter n p w).mem = p.mem := by cases w <;> rfl

theorem releaseWaiter_pegs (n : Nat) (p : Package) (w : Waiter) : (releaseWaiter n p w).tl.pegs = p.tl.pegs := by cases w <;> rfl

theorem foldl_releaseWaiter_mem (n : Nat) (p : Package) (l : List Waiter) : (l.foldl (releaseWaiter n) p).mem = p.mem :=
  foldl_keeps (fun q : Package => q.mem = p.mem) _ (fun q w h => (releaseWaiter_mem n q w).trans h) l p rfl

theorem foldl_releaseWaiter_pegs (n : Nat) (p : Package) (l : List Waiter) : (l.foldl (releaseWaiter n) p).tl.pegs = p.tl.pegs :=
  foldl_keeps (fun q : Package => q.tl.pegs = p.tl.pegs) _ (fun q w h => (releaseWaiter_pegs n q w).trans h) l p rfl

theorem bitOf_one_setFld_one (v : Nat) : bitOf (setFld v 1 1 0 % 2 ^ 32) 1 = false :=
  decide_eq_false (by simp only [setFld]; omega)

theorem bitOf_one_setFld_two (v : Nat) : bitOf (setFld v 2 2 0 % 2 ^ 32) 1 = bitOf v 1 :=
  decide_eq_decide.mpr (by simp only [setFld]; omega)

theorem notWaiting_releaseWaiter_hopper (n : Nat) (p : Package) (r : HopRef) (v : Nat) :
    bitOf ((releaseWaiter n p (.hopper r v)).rd (hopStatReg r)) 1 = false := by
  rw [releaseWaiter, Package.rd_wrF, if_pos rfl]
  exact bitOf_one_setFld_one _

/-- A release never shows a hopper as waiting that did not wait: it clears bit 1 of one register, or bit 2. -/
theorem notWaiting_releaseWaiter (n : Nat) {p : Package} {a : Nat} (w : Waiter) (h : bitOf (p.rd a) 1 = false) :
    bitOf ((releaseWaiter n p w).rd a) 1 = false := by
  cases w with
  | hopper r v =>
    rw [releaseWaiter, Package.rd_wrF]
    split
    · exact bitOf_one_setFld_one _
    · exact h
  | core c v =>
    simp only [releaseWaiter, Package.rd_wrF]
    split <;> rename_i ha
    · subst ha; exact (bitOf_one_setFld_two _).trans h
    · exact h

/-- A hopper among the waiters released does not wait afterwards. -/
theorem notWaiting_foldl_releaseWaiter {n v : Nat} {r : HopRef} {l : List Waiter} (p : Package) (h : Waiter.hopper r v ∈ l) :
    bitOf ((l.foldl (releaseWaiter n) p).rd (hopStatReg r)) 1 = false := by
  induction l generalizing p with
  | nil => simp at h
  | cons w l ih =>
    rcases List.mem_cons.mp h with rfl | h
    · exact foldl_keeps (fun q : Package => bitOf (q.rd (hopStatReg r)) 1 = false) _
        (fun q u hq => notWaiting_releaseWaiter n u hq) l _ (notWaiting_releaseWaiter_hopper n p r v)
    · exact ih _ h

/-! ## The re-test and the notify (R142, R143) -/

/-- A peg whose waiters have been tested: those stay whose test fails. -/
def Peg.tested (x : Peg) : Peg := { x with waiters := x.waiters.filter fun w => !waitPasses x.counter (w32 w.value) }

/-- A waiter stays exactly while the wait-until-at-least test fails (R135). -/
theorem Peg.tested_waiters (x : Peg) :
    x.tested.waiters = x.waiters.filter fun w => decide (2 ^ 31 ≤ (x.tested.counter - BitVec.ofNat 32 w.value).toNat) := by
  refine List.filter_congr fun w _ => ?_
  rw [waitPasses, ← decide_not, decide_eq_decide, Nat.not_lt]
  rfl

theorem retest_eq (p : Package) (n : Nat) :
    retest p n = ((p.peg n).waiters.filter fun w => waitPasses (p.peg n).counter (w32 w.value)).foldl (releaseWaiter n)
      (p.setPeg n (p.peg n).tested) := rfl

theorem retest_mem (p : Package) (n : Nat) : (retest p n).mem = p.mem := by rw [retest_eq, foldl_releaseWaiter_mem]; rfl

theorem peg_retest (p : Package) (n m : Nat) : (retest p n).peg m = if m = n then (p.peg n).tested else p.peg m := by
  rw [retest_eq, peg_congr (foldl_releaseWaiter_pegs n _ _), peg_setPeg]

/-- A hopper whose waiter leaves the list no longer waits. -/
theorem notWaiting_retest {p : Package} {n v : Nat} {r : HopRef} (h : Waiter.hopper r v ∈ (p.peg n).waiters)
    (hleft : Waiter.hopper r v ∉ (p.peg n).tested.waiters) : bitOf ((retest p n).rd (hopStatReg r)) 1 = false := by
  have hpasses : waitPasses (p.peg n).counter (w32 v) = true := by simpa [Peg.tested, h, Waiter.value] using hleft
  rw [retest_eq]
  exact notWaiting_foldl_releaseWaiter _ (List.mem_filter.mpr ⟨h, hpasses⟩)

/-- A notify writes an event record of a virtual function, or changes nothing. -/
theorem pegNotify_keeps {P : Package → Prop} {p : Package} (n : Nat) (before : Bool) (hp : P p)
    (hevent : ∀ v head tail, P (vfEvent p v head tail)) : P (pegNotify p n before) := by
  unfold pegNotify
  refine iteInduction (motive := P) (fun _ => ?_) fun _ => hp
  cases pegOwner p n with
  | none => exact hp
  | some pitch => exact iteInduction (motive := P) (fun _ => hp) fun _ => hevent _ _ _

theorem sameWork_pegNotify (p : Package) (n : Nat) (before : Bool) : SameWork p (pegNotify p n before) :=
  pegNotify_keeps n before (.refl p) (sameWork_vfEvent p)

theorem sameRegs_pegNotify (p : Package) (n : Nat) (before : Bool) : SameRegs p (pegNotify p n before) :=
  pegNotify_keeps n before (.refl p) (sameRegs_vfEvent p)

/-- A flagged counter writes itself and what its event writes. -/
theorem rd_countFlagged (p : Package) {a c : Nat} (n bit : Nat) (hc : offOf c ∉ eventOffs) (hlo : c ≠ a) (hhi : c ≠ a + 4) :
    (countFlagged p a n bit).rd c = p.rd c := by
  have hwide : ({ p with base := (countWide p.base a n).1 } : Package).rd c = p.rd c := by
    simp only [countWide, wr64, Package.rd]
    split
    · rfl
    · simp [Machine.rd_wr_ne, hlo, hhi]
  unfold countFlagged
  exact iteInduction (motive := fun q : Package => q.rd c = p.rd c)
    (fun _ => (sameRegs_raise _ (offOf_pageOf a) bit {} c hc).trans hwide) fun _ => hwide

/-! ## An operation (R136, R137) -/

/-- A peg with one operation done, its waiters not tested yet. -/
def Peg.operated (x : Peg) : PegOp → Peg
  | .add v => { x with counter := x.counter + w32 v }
  | .set v => { x with counter := w32 v }
  | .setTarget v => { x with target := w32 v }

theorem Peg.operated_waiters (x : Peg) (op : PegOp) : (x.operated op).waiters = x.waiters := by cases op <;> rfl

theorem pegApply_eq (p : Package) (n : Nat) (op : PegOp) :
    pegApply p n op = countFlagged (pegNotify (retest (p.setPeg n ((p.peg n).operated op)) n) n
      (waitPasses (p.peg n).counter (p.peg n).target)) (pegPage (n / 512) + Off.PEG_OPS) 1 0 := by
  cases op <;> rfl

/-- What follows the re-test changes no peg, no hopper and no memory. -/
theorem sameWork_pegApply (p : Package) (n : Nat) (op : PegOp) :
    SameWork (retest (p.setPeg n ((p.peg n).operated op)) n) (pegApply p n op) := by
  rw [pegApply_eq]
  exact (sameWork_pegNotify _ _ _).trans (sameWork_countFlagged _ _ _ _)

theorem pegApply_mem (p : Package) (n : Nat) (op : PegOp) : (pegApply p n op).mem = p.mem :=
  (sameWork_pegApply p n op).1.trans (retest_mem _ n)

theorem peg_pegApply (p : Package) (n : Nat) (op : PegOp) (m : Nat) :
    (pegApply p n op).peg m = if m = n then ((p.peg n).operated op).tested else p.peg m := by
  obtain ⟨-, htl, -⟩ := sameWork_pegApply p n op
  rw [peg_congr (congrArg TileSt.pegs htl), peg_retest, peg_setPeg, if_pos rfl, peg_setPeg]
  split <;> rfl

theorem peg_pegApply_self (p : Package) (n : Nat) (op : PegOp) : (pegApply p n op).peg n = ((p.peg n).operated op).tested := by
  rw [peg_pegApply, if_pos rfl]

theorem offOf_hopStatReg_tile (t : Nat) {h : Nat} (hh : h < 4) : offOf (hopStatReg (.tile t h)) = Off.HOP_STAT + 0x20 * h := by
  simp only [hopStatReg, tilePage, Nat.add_assoc]
  exact offOf_page_add (offOf_pg _ _) (by simp only [Off.HOP_STAT]; omega)

/-- No event writes a tile's hopper status. -/
theorem offOf_hopStatReg_tile_notMem (t : Nat) {h : Nat} (hh : h < 4) : offOf (hopStatReg (.tile t h)) ∉ eventOffs := by
  have hnone : ∀ i < 4, Off.HOP_STAT + 0x20 * i ∉ eventOffs := by decide
  rw [offOf_hopStatReg_tile t hh]
  exact hnone h hh

theorem hopStatReg_tile_lt_pegOps {t h : Nat} (ht : t < 16) (hh : h < 4) (n : Nat) :
    hopStatReg (.tile t h) < pegPage n + Off.PEG_OPS := by
  simp only [hopStatReg, tilePage, pegPage, pg, Off.HOP_STAT, Off.PEG_OPS]; omega

/-- A tile's hopper whose waiter leaves a peg's list by an operation no longer waits (R142). -/
theorem notWaiting_pegApply {p : Package} {n t h v : Nat} {op : PegOp} (ht : t < 16) (hh : h < 4)
    (hin : Waiter.hopper (.tile t h) v ∈ (p.peg n).waiters)
    (hleft : Waiter.hopper (.tile t h) v ∉ ((pegApply p n op).peg n).waiters) :
    bitOf ((pegApply p n op).rd (hopStatReg (.tile t h))) 1 = false := by
  have hevent := offOf_hopStatReg_tile_notMem t hh
  have hops := hopStatReg_tile_lt_pegOps ht hh (n / 512)
  have hpeg : (p.setPeg n ((p.peg n).operated op)).peg n = (p.peg n).operated op := by rw [peg_setPeg, if_pos rfl]
  rw [pegApply_eq, rd_countFlagged _ _ _ hevent (Nat.ne_of_lt hops)
    (Nat.ne_of_lt (Nat.lt_add_right 4 hops)), sameRegs_pegNotify _ _ _ _ hevent]
  refine notWaiting_retest (v := v) ?_ ?_
  · rw [hpeg, Peg.operated_waiters]; exact hin
  · rw [hpeg, ← peg_pegApply_self]; exact hleft

/-- Settles O35: the sum is kept modulo 2^32, and an ADD and the SET of the sum give the peg the same count before all that follows. -/
theorem pegAddWraps : Obligations.PegAddWraps := by
  unfold Obligations.PegAddWraps
  intro p n v
  have hsum : (p.peg n).counter + w32 v = w32 (((p.peg n).counter.toNat + v) % 2 ^ 32) := by
    apply BitVec.eq_of_toNat_eq
    simp [w32]
  refine ⟨?_, ?_⟩
  · rw [peg_pegApply_self]
    simp [Peg.operated, Peg.tested, w32]
  · simp only [pegApply_eq, Peg.operated, hsum]

end Sys2Proof.Machine
end

section
/-! PROOFS. The commands that reach pegs (R139–R141, R148, R150). -/

namespace Sys2Proof.Machine

/-! ## PEG descriptors (R139, R148, R150) -/

/-- A pitch's operation reaches a peg: it exists, lies on no hollow tile, and is the pitch's. -/
def pegReached (p : Package) (pitch n : Nat) : Prop :=
  pegExists p n = true ∧ hollowPage p.base (tilePage (n / 512) 0) = false ∧ pegFor p pitch n = true

/-- The peg that a PEG descriptor names, and its operation's value (R139). -/
def descPeg (e : HopEntry) : Nat := fieldAt e.bytes 18 2 % 8192
def descValue (e : HopEntry) : Nat := fieldAt e.bytes 20 4

/-- The status of an operation on a peg that its pitch does not reach (R148, R150). -/
def pegRefusal (p : Package) (n : Nat) : Nat :=
  if pegExists p n = true ∧ hollowPage p.base (tilePage (n / 512) 0) = true then St.hollowUnit else St.crossPitch

section
variable {p : Package} {r : HopRef} {e : HopEntry} (op : Nat → PegOp)

theorem pegDesc_of_reached (h : pegReached p (pitchOfHop p r) (descPeg e)) :
    pegDesc r op p e = finishEntry (pegApply p (descPeg e) (op (descValue e))) r e.idx 0 false := by
  obtain ⟨hexists, hwhole, hfor⟩ := h
  simp only [descPeg] at hexists hwhole hfor
  simp [pegDesc, descPeg, descValue, hexists, hwhole, hfor]

theorem pegDesc_of_not_reached (h : ¬ pegReached p (pitchOfHop p r) (descPeg e)) :
    pegDesc r op p e = finishEntry p r e.idx (pegRefusal p (descPeg e)) false := by
  simp only [pegReached, descPeg] at h
  simp only [pegDesc, pegRefusal, descPeg]
  by_cases hexists : pegExists p (fieldAt e.bytes 18 2 % 8192) = true
  · by_cases hhollow : hollowPage p.base (tilePage (fieldAt e.bytes 18 2 % 8192 / 512) 0) = true
    · simp [hexists, hhollow]
    · have hfor : pegFor p (pitchOfHop p r) (fieldAt e.bytes 18 2 % 8192) = false := by simpa [hexists, hhollow] using h
      simp [hexists, hhollow, hfor]
  · simp [hexists]

end

theorem issuedEntry_idx {p : Package} {r : HopRef} {idx op : Nat} {e : HopEntry} (h : issuedEntry p r idx op = some e) :
    e.idx = idx := by
  unfold issuedEntry at h
  have hfound := List.find?_some h
  obtain ⟨hidx, -⟩ := of_decide_eq_true hfound
  exact hidx

/-- What an issued PEG descriptor of a local operation does: its operation where its hopper's pitch reaches the peg, else its
refusal. -/
theorem onPegDesc_of_issued {s : State} {k : Nat} {r : HopRef} {idx sub : Nat} {e : HopEntry} (op : Nat → PegOp)
    (he : issuedEntry (pkgOf s k) r idx 0x60 = some e) (hsub : byteAt e.bytes 16 = sub) :
    let p := pkgOf s k
    let ends := fun (q : Package) (st : Nat) => setPkg s k { finishEntry q r idx st false with mem := p.mem }
    (pegReached p (pitchOfHop p r) (descPeg e) →
      onPegDesc k r idx sub op s = .next (ends (pegApply p (descPeg e) (op (descValue e))) 0)) ∧
    (¬ pegReached p (pitchOfHop p r) (descPeg e) → onPegDesc k r idx sub op s = .next (ends p (pegRefusal p (descPeg e)))) := by
  have hidx := issuedEntry_idx he
  have hrow : onPegDesc k r idx sub op s = .next (setPkg s k { pegDesc r op (pkgOf s k) e with mem := (pkgOf s k).mem }) := by
    simp [onPegDesc, onPkg, he, hsub]
  refine ⟨fun h => ?_, fun h => ?_⟩
  · rw [hrow, pegDesc_of_reached op h, hidx]
  · rw [hrow, pegDesc_of_not_reached op h, hidx]

/-! ## Stores of cores (R140, R141) -/

section
variable {s : State} {k t c n : Nat} (word : Nat) (f : Package → Package) (hactive : coreActive (pkgOf s k) t c = true)
  (hn : n < 512)
include hactive hn

/-- A running core's store to the slot of a peg of its tile's owner takes effect. -/
theorem onPkg_corePegStore_of_ok (hok : corePegOk (pkgOf s k) t n = true) :
    onPkg k (fun p => corePegStore p t c n word f) s = .next (setPkg s k { f (pkgOf s k) with mem := (pkgOf s k).mem }) := by
  simp [onPkg, corePegStore, hactive, hn, hok]

/-- Its store to any other slot is a store access fault. -/
theorem onPkg_corePegStore_of_not_ok (hok : corePegOk (pkgOf s k) t n = false) :
    onPkg k (fun p => corePegStore p t c n word f) s = .next (setPkg s k
      { trapCore (pkgOf s k) t c 7 ((pkgOf s k).core t c).pc (0x02000000 + 16 * n + word) with mem := (pkgOf s k).mem }) := by
  simp [onPkg, corePegStore, hactive, hn, hok]

end

theorem corePegOk_iff (p : Package) (t n : Nat) : corePegOk p t n = true ↔
    bitOf (p.rd (pegAllocReg (512 * t + n))) 16 = true ∧
      fld (p.rd (pegAllocReg (512 * t + n))) 11 0 = ownerOf p.base (tilePage t 0) := by
  simp [corePegOk]

theorem corePegOk_eq_false_iff (p : Package) (t n : Nat) : corePegOk p t n = false ↔
    bitOf (p.rd (pegAllocReg (512 * t + n))) 16 = false ∨
      fld (p.rd (pegAllocReg (512 * t + n))) 11 0 ≠ ownerOf p.base (tilePage t 0) := by
  rw [Bool.eq_false_iff, Ne, corePegOk_iff, Classical.not_and_iff_not_or_not, Bool.not_eq_true]

/-- A waiter that is not core `me`. -/
def Waiter.notCore (me : Nat) : Waiter → Bool
  | .core c _ => decide (c ≠ me)
  | .hopper .. => true

/-- The package once an earlier arm of a core has left its peg's list (R141). -/
def disarmed (p : Package) (t c : Nat) : Package :=
  match (p.core t c).armed with
  | some (k, _, _) =>
    p.setPeg (512 * t + k) { p.peg (512 * t + k) with waiters := (p.peg (512 * t + k)).waiters.filter (Waiter.notCore (2 * t + c)) }
  | none => p

/-- The package once the core has joined its peg's list, or is not stopped where its wait is satisfied. -/
def joined (p : Package) (t c n v : Nat) : Package :=
  if waitPasses (p.peg n).counter (w32 v) then p.wrF (coreStatReg t c) 2 2 0
  else p.setPeg n { p.peg n with waiters := (p.peg n).waiters ++ [.core (2 * t + c) v] }

theorem armCore_eq (p : Package) (t c k v : Nat) :
    let q := disarmed p t c
    armCore p t c k v = (joined q t c (512 * t + k) v).setCore t c
      { (joined q t c (512 * t + k) v).core t c with armed := some (k, v, waitPasses (q.peg (512 * t + k)).counter (w32 v)) } := by
  unfold disarmed
  cases h : (p.core t c).armed with
  | none => simp only [armCore, h]; rfl
  | some a => simp only [armCore, h]; rfl

theorem counter_disarmed (p : Package) (t c n : Nat) : ((disarmed p t c).peg n).counter = (p.peg n).counter := by
  unfold disarmed
  split
  · rw [peg_setPeg]
    split <;> rename_i h
    · rw [h]
    · rfl
  · rfl

theorem counter_joined (p : Package) (t c n v : Nat) : ((joined p t c n v).peg n).counter = (p.peg n).counter := by
  unfold joined
  split
  · rfl
  · rw [peg_setPeg, if_pos rfl]

theorem armCore_armed (p : Package) (t c k v : Nat) :
    ((armCore p t c k v).core t c).armed = some (k, v, waitPasses (p.peg (512 * t + k)).counter (w32 v)) := by
  rw [armCore_eq, counter_disarmed]
  simp [Package.core, Package.setCore]

theorem counter_armCore (p : Package) (t c k v : Nat) :
    ((armCore p t c k v).peg (512 * t + k)).counter = (p.peg (512 * t + k)).counter := by
  rw [armCore_eq]
  exact (counter_joined _ t c _ v).trans (counter_disarmed p t c _)

/-- A core whose wait is not satisfied stands last on its peg's list. -/
theorem waiters_armCore {p : Package} {t k v : Nat} (c : Nat)
    (hfails : waitPasses (p.peg (512 * t + k)).counter (w32 v) = false) :
    ((armCore p t c k v).peg (512 * t + k)).waiters.getLast? = some (.core (2 * t + c) v) := by
  have hjoins : ((joined (disarmed p t c) t c (512 * t + k) v).peg (512 * t + k)).waiters.getLast? = some (.core (2 * t + c) v) := by
    rw [joined, counter_disarmed, hfails, if_neg Bool.false_ne_true, peg_setPeg, if_pos rfl]
    exact List.getLast?_concat
  rw [armCore_eq]
  exact hjoins

/-! ## PEG_ALLOC (R148, R150) -/

section
variable {p : Package} {n v : Nat}

theorem pegAllocWrite_staged (h : bitOf (p.rd (pegAllocReg n)) 16 = false ∨ bitOf v 16 = false ∧ (p.peg n).waiters = []) :
    pegAllocWrite p n v = .ok (p.wr (pegAllocReg n) (v % 2 ^ 13 + if bitOf v 16 then 2 ^ 16 else 0)) := by
  rcases h with h | ⟨h, hnone⟩
  · by_cases hv : bitOf v 16 = true <;> simp [pegAllocWrite, h, hv, b2n]
  · by_cases hp : bitOf (p.rd (pegAllocReg n)) 16 = true <;> simp [pegAllocWrite, h, hnone, hp, b2n]

theorem pegAllocWrite_waited (hcommitted : bitOf (p.rd (pegAllocReg n)) 16 = true) (hv : bitOf v 16 = false)
    (hwaits : (p.peg n).waiters ≠ []) : pegAllocWrite p n v = .error 1 := by
  simp [pegAllocWrite, hcommitted, hv, hwaits]

theorem pegAllocWrite_committed (hcommitted : bitOf (p.rd (pegAllocReg n)) 16 = true) (hv : bitOf v 16 = true)
    (hnew : v % 2 ^ 13 + (if bitOf v 16 then 2 ^ 16 else 0) ≠ p.rd (pegAllocReg n)) : pegAllocWrite p n v = .error 5 := by
  have hchanged : v % 2 ^ 13 + b2n true * 2 ^ 16 ≠ p.rd (pegAllocReg n) := by simpa [hv, b2n] using hnew
  simp only [pegAllocWrite, hcommitted, hv, if_true, if_neg hchanged]

end

/-- PEG_ALLOC of a peg stands on the peg's page, and a write there is judged by the peg's entry. -/
theorem write_pegAllocReg (free : Nat) (p : Package) (src : Src) {n : Nat} (v : Nat) (hn : n < 8192) :
    (if offOf (pegAllocReg n) < 0x80 then headerWrite free p src (pageOf (pegAllocReg n)) .pegs (offOf (pegAllocReg n)) v
      else blockWrite p src (pageOf (pegAllocReg n)) .pegs (offOf (pegAllocReg n)) v) = pegAllocWrite p n v := by
  have hoff : offOf (pegAllocReg n) = Off.PEG_ALLOC + 4 * (n % 512) := by
    simp only [offOf, pegAllocReg, pegPage, pg, Off.PEG_ALLOC]; omega
  have hinst : instOf (pageOf (pegAllocReg n)) = n / 512 := by
    simp only [instOf, pageOf, pegAllocReg, pegPage, pg, Off.PEG_ALLOC]; omega
  have hpeg : 512 * (n / 512) + (Off.PEG_ALLOC + 4 * (n % 512) - Off.PEG_ALLOC) / 4 = n := by omega
  have hblock : ¬ Off.PEG_ALLOC + 4 * (n % 512) < 0x80 := by simp only [Off.PEG_ALLOC]; omega
  have hentry : Off.PEG_ALLOC ≤ Off.PEG_ALLOC + 4 * (n % 512) ∧ Off.PEG_ALLOC + 4 * (n % 512) < Off.PEG_ALLOC + 0x800 := by omega
  rw [hoff, if_neg hblock, blockWrite, if_pos hentry, hinst, hpeg]

section
variable {s : State} {k : Nat} {src : Src} {n v : Nat} (hn : n < 8192) (hv : v < 2 ^ 32)
  (hreaches : Safety.reaches s k src (pegAllocReg n) .pegs = true)
include hn hv hreaches

theorem exec_pegAllocWrite_ok {q : Package} (h : pegAllocWrite (pkgOf s k) n v = .ok q) :
    exec (.pegAllocWrite k src n v) s = .next (Safety.written s k (pegAllocReg n) q) := by
  refine (onCtl_of_reaches hreaches).trans ?_
  rw [write_pegAllocReg _ _ _ _ hn, Nat.mod_eq_of_lt hv, h]

theorem exec_pegAllocWrite_error {reason : Nat} (h : pegAllocWrite (pkgOf s k) n v = .error reason) :
    exec (.pegAllocWrite k src n v) s = .next (Safety.refused s k src (pegAllocReg n) v reason) := by
  refine (onCtl_of_reaches hreaches).trans ?_
  rw [write_pegAllocReg _ _ _ _ hn, Nat.mod_eq_of_lt hv, h]

end

/-- Settles O36: an operation is followed by the re-test alone where pegs are concerned, and by no write of a hopper's status where
registers are; the commands apply it, or refuse, by what their source may reach. -/
theorem pegOperations : Obligations.PegOperations := by
  unfold Obligations.PegOperations
  refine ⟨fun p n op => ?_, fun s k r idx e he => ?_, fun s k t c n v hactive hn => ?_, fun s k src n v hn hv hreaches => ?_⟩
  · refine ⟨?_, ?_, ?_, fun m hm => ?_, pegApply_mem p n op, fun t ht h hh v hin hleft => notWaiting_pegApply ht hh hin hleft⟩
    · rw [peg_pegApply_self]; cases op <;> rfl
    · rw [peg_pegApply_self]; cases op <;> rfl
    · rw [peg_pegApply_self, Peg.tested_waiters, Peg.operated_waiters]
    · rw [peg_pegApply, if_neg hm]
  · exact ⟨onPegDesc_of_issued .add he, onPegDesc_of_issued .set he, onPegDesc_of_issued .setTarget he⟩
  · refine ⟨fun hcommitted howner => ?_, fun hother => ?_⟩
    · have hok : corePegOk (pkgOf s k) t n = true := (corePegOk_iff _ _ _).mpr ⟨hcommitted, howner⟩
      have hstore := fun word f => onPkg_corePegStore_of_ok word f hactive hn hok
      refine ⟨hstore 0 _, hstore 4 _, hstore 8 _, _, hstore 12 _, ?_⟩
      rw [pkgOf_setPkg_self]
      exact ⟨armCore_armed _ t c n v, counter_armCore _ t c n v, waiters_armCore c⟩
    · have hok : corePegOk (pkgOf s k) t n = false := (corePegOk_eq_false_iff _ _ _).mpr hother
      exact ⟨onPkg_corePegStore_of_not_ok 0 _ hactive hn hok, onPkg_corePegStore_of_not_ok 12 _ hactive hn hok⟩
  · exact ⟨fun h => exec_pegAllocWrite_ok hn hv hreaches (pegAllocWrite_staged h),
      fun hcommitted hclear hwaits => exec_pegAllocWrite_error hn hv hreaches (pegAllocWrite_waited hcommitted hclear hwaits),
      fun hcommitted hset hnew => exec_pegAllocWrite_error hn hv hreaches (pegAllocWrite_committed hcommitted hset hnew)⟩

end Sys2Proof.Machine
end

section
/-! PROOFS. What is sent is what is read: packets, frames, scrambled bits and encrypted images (R171–R177, R183, R184, R375). -/

namespace Sys2Proof.Machine

/-! ## Reading a number where it was written (R8) -/

@[simp] theorem length_le (n v : Nat) : (le n v).length = n := by
  induction n generalizing v with
  | zero => rfl
  | succ n ih => rw [le, List.length_cons, ih]

@[simp] theorem length_zeros (n : Nat) : (zeros n).length = n := List.length_replicate

theorem ofLe_le (n v : Nat) : ofLe (le n v) = v % 256 ^ n := by
  induction n generalizing v with
  | zero => rw [Nat.pow_zero, Nat.mod_one]; rfl
  | succ n ih => rw [le, ofLe, ih, BitVec.toNat_ofNat, Nat.pow_succ' (n := n), Nat.mod_mul]

/-- A number is read at its place. -/
@[simp] theorem fieldAt_le (n v : Nat) (b : Bytes) : fieldAt (le n v ++ b) 0 n = v % 256 ^ n := by
  rw [fieldAt, List.drop_zero, List.take_left' (length_le n v), ofLe_le]

@[simp] theorem byteAt_le (v : Nat) (b : Bytes) : byteAt (le 1 v ++ b) 0 = v % 256 := fieldAt_le 1 v b

/-- Bytes before a field are passed over. -/
theorem fieldAt_append_add (a b : Bytes) (i n : Nat) : fieldAt (a ++ b) (a.length + i) n = fieldAt b i n := by
  rw [fieldAt, fieldAt, List.drop_length_add_append]

theorem byteAt_append_add (a b : Bytes) (i : Nat) : byteAt (a ++ b) (a.length + i) = byteAt b i := fieldAt_append_add a b i 1

theorem byteAt_append_length {a : Bytes} (b : Bytes) {o : Nat} (ha : a.length = o) : byteAt (a ++ b) o = byteAt b 0 :=
  ha ▸ byteAt_append_add a b 0

theorem fieldAt_append_of_le {a b : Bytes} {i n : Nat} (h : a.length ≤ i) : fieldAt (a ++ b) i n = fieldAt b (i - a.length) n := by
  rw [← fieldAt_append_add a b, Nat.add_sub_cancel' h]

theorem fieldAt_append_of_add_le {a b : Bytes} {i n : Nat} (h : i + n ≤ a.length) : fieldAt (a ++ b) i n = fieldAt a i n := by
  rw [fieldAt, fieldAt, List.drop_append_of_le_length (by omega), List.take_append_of_le_length (by rw [List.length_drop]; omega)]

@[simp] theorem fieldAt_skip_le {m i : Nat} (v n : Nat) (b : Bytes) (h : m ≤ i) :
    fieldAt (le m v ++ b) i n = fieldAt b (i - m) n := by
  rw [fieldAt_append_of_le (by rwa [length_le]), length_le]

@[simp] theorem fieldAt_skip_zeros {m i : Nat} (n : Nat) (b : Bytes) (h : m ≤ i) :
    fieldAt (zeros m ++ b) i n = fieldAt b (i - m) n := by
  rw [fieldAt_append_of_le (by rwa [length_zeros]), length_zeros]

@[simp] theorem byteAt_skip_le {m i : Nat} (v : Nat) (b : Bytes) (h : m ≤ i) : byteAt (le m v ++ b) i = byteAt b (i - m) :=
  fieldAt_skip_le v 1 b h

@[simp] theorem byteAt_skip_zeros {m i : Nat} (b : Bytes) (h : m ≤ i) : byteAt (zeros m ++ b) i = byteAt b (i - m) :=
  fieldAt_skip_zeros 1 b h

@[simp] theorem drop_skip_le {m i : Nat} (v : Nat) (b : Bytes) (h : m ≤ i) : (le m v ++ b).drop i = b.drop (i - m) := by
  rw [List.drop_append, List.drop_eq_nil_of_le (by rwa [length_le]), List.nil_append, length_le]

@[simp] theorem drop_skip_zeros {m i : Nat} (b : Bytes) (h : m ≤ i) : (zeros m ++ b).drop i = b.drop (i - m) := by
  rw [List.drop_append, List.drop_eq_nil_of_le (by rwa [length_zeros]), List.nil_append, length_zeros]

/-! ## The lengths of the headers (R171–R173) -/

@[simp] theorem length_linkBytes (k : Pkt) : (linkBytes k).length = 8 := by
  simp only [linkBytes, List.length_append, length_le, length_zeros]

@[simp] theorem length_routeBytes (k : Pkt) : (routeBytes k).length = 8 := by
  simp only [routeBytes, List.length_append, length_le, length_zeros]

theorem length_spanBytes (k : Pkt) : (spanBytes k).length = if k.spanDim.isSome then 8 else 0 := by
  cases h : k.spanDim with
  | none => rw [spanBytes, h]; rfl
  | some d => simp only [spanBytes, h, List.length_append, length_le, length_zeros, Option.isSome_some, if_true]

theorem length_collBytes (c : Bytes) : ((c ++ zeros 17).take 17).length = 17 := by
  rw [List.length_take, List.length_append, length_zeros]
  omega

@[simp] theorem length_transportTail (k : Pkt) : (transportTail k).length = 20 := by
  cases h : k.op <;> simp only [transportTail, h, List.length_append, length_le, length_zeros, length_collBytes]

@[simp] theorem length_transportBytes (k : Pkt) : (transportBytes k).length = 24 := by
  simp only [transportBytes, List.length_append, length_le, length_transportTail]

/-! ## A packet as the parser has read it, header by header -/

/-- What the link header tells of a packet. -/
def linkRead (k : Pkt) : Pkt := { cls := k.cls, dl := k.dl, epoch := k.epoch, pitch := k.pitch }

/-- What the link and route headers tell. -/
def routeRead (k : Pkt) : Pkt :=
  { linkRead k with
    destSlot := k.destSlot, destRack := k.destRack, srcRack := k.srcRack, srcSlot := k.srcSlot, ordered := k.ordered, plane := k.plane }

/-- What the link, route and span headers tell. -/
def spanRead (k : Pkt) : Pkt := { routeRead k with spanDim := k.spanDim, hops := k.hops, originTime := k.originTime }

/-- What the headers of fixed form tell: all but the extension header and the payload. -/
def transportRead (k : Pkt) : Pkt := { k with ext := [], payload := [] }

/-! ## What the fields of a packet hold (R171–R175) -/

/-- The values of a packet lie within their header fields, and a field that its form lacks is at its default. -/
structure OnWire (k : Pkt) : Prop where
  link : k.cls < 4 ∧ k.dl < 2 ∧ k.epoch < 2 ∧ k.pitch < 4096
  route : k.destSlot < 64 ∧ k.destRack < 16 ∧ k.srcRack < 16 ∧ k.srcSlot < 64 ∧ k.plane < 32
  span : ∀ d, k.spanDim = some d → d < 2 ∧ k.hops < 256 ∧ k.originTime < 2 ^ 32
  noSpan : k.spanDim = none → k.hops = 0 ∧ k.originTime = 0
  coll : k.op = .coll → k.mgmt = false ∧ k.conn < 2048 ∧ k.psn < 2 ^ 16 ∧ k.status = 0 ∧ k.offset = 0 ∧ k.space = 0 ∧ k.coll.length = 17
  single : k.op ≠ .coll → k.psn < 2 ^ 24 ∧ k.conn < (if k.mgmt then 1024 else 4096) ∧ k.offset < 2 ^ 48 ∧ k.space < 4 ∧ k.coll = []
  response : k.op = .response → k.status < 256
  request : k.op ≠ .coll → k.op ≠ .response → k.status = 0 ∧ k.bumpPeg < 8192 ∧ k.gen < 256 ∧ k.arg < 2 ^ 32
  noPeg : k.op = .coll ∨ k.op = .response → k.bumpPeg = 0 ∧ k.gen = 0 ∧ k.arg = 0
  ext : k.ext ≠ [] → (k.ext.length = 8 ∨ k.ext.length = 16) ∧ byteAt k.ext 0 % 16 = 0 ∧ byteAt k.ext 1 = k.ext.length
  pay : payOk k k.payload.length = true

theorem onWire_of_wirePacket {k : Pkt} (h : Safety.wirePacket k = true) : OnWire k := by
  simp only [Safety.wirePacket, Bool.and_eq_true, Bool.or_eq_true, Bool.not_eq_true', decide_eq_true_eq, decide_eq_false_iff_not,
    List.isEmpty_iff] at h
  obtain ⟨⟨⟨⟨⟨⟨hfixed, hspan⟩, hop⟩, hsingle⟩, hpeg⟩, hext⟩, hpay⟩ := h
  obtain ⟨hcls, hdl, hepoch, hpitch, hroute⟩ := hfixed
  have hpsn : k.op ≠ .coll → k.psn < 2 ^ 24 := fun hk => by
    cases hk' : k.op with
    | coll => exact absurd hk' hk
    | rwrite | rread | response | peg => rw [hk'] at hop; exact (of_decide_eq_true hop).1
  have hrequest : k.op ≠ .coll → k.op ≠ .response → k.status = 0 ∧ k.bumpPeg < 8192 ∧ k.gen < 256 ∧ k.arg < 2 ^ 32 := fun hc hr => by
    cases hk : k.op with
    | coll => exact absurd hk hc
    | response => exact absurd hk hr
    | rwrite | rread | peg => rw [hk] at hop; exact (of_decide_eq_true hop).2
  exact {
    link := ⟨hcls, hdl, hepoch, hpitch⟩
    route := hroute
    span := fun d hd => by rw [hd] at hspan; exact of_decide_eq_true hspan
    noSpan := fun hd => by rw [hd] at hspan; exact of_decide_eq_true hspan
    coll := fun hk => by rw [hk] at hop; exact of_decide_eq_true hop
    single := fun hk => ⟨hpsn hk, hsingle.resolve_left hk⟩
    response := fun hk => by rw [hk] at hop; exact (of_decide_eq_true hop).2
    request := hrequest
    noPeg := fun hk => hpeg.resolve_left (not_not_intro hk)
    ext := hext.resolve_left
    pay := hpay }

/-! ## Each header read as written -/

theorem linkOf_linkBytes {k : Pkt} (h : OnWire k) (rest : Bytes) : linkOf (linkBytes k ++ rest) = linkRead k := by
  obtain ⟨hcls, hdl, hepoch, hpitch⟩ := h.link
  have hfirst : let b := (1 + 16 * (k.cls % 4) + 64 * (k.dl % 2) + 128 * (k.epoch % 2)) % 256
      fld b 5 4 = k.cls ∧ fld b 6 6 = k.dl ∧ fld b 7 7 = k.epoch := by simp only [fld]; omega
  have hpitchRead : k.pitch % 4096 % 65536 % 4096 = k.pitch := by omega
  simp only [linkOf, linkBytes, linkRead, List.append_assoc, byteAt_le, fieldAt_skip_le, fieldAt_le, Nat.reduceLeDiff, Nat.le_refl,
    Nat.reduceSub, Nat.reducePow, Nat.sub_self, hfirst, hpitchRead]

theorem withRoute_append (x : Pkt) {a : Bytes} (b : Bytes) {o : Nat} (ha : a.length = o) :
    withRoute x (a ++ b) o = withRoute x b 0 := by
  subst ha
  simp only [withRoute, byteAt_append_add, Nat.zero_add]

theorem withRoute_routeBytes {k : Pkt} (h : OnWire k) (rest : Bytes) :
    withRoute (linkRead k) (routeBytes k ++ rest) 0 = routeRead k := by
  obtain ⟨hdestSlot, hdestRack, hsrcRack, hsrcSlot, hplane⟩ := h.route
  have hracks : (k.destRack % 16 + 16 * (k.srcRack % 16)) % 256 % 16 = k.destRack ∧
      (k.destRack % 16 + 16 * (k.srcRack % 16)) % 256 / 16 = k.srcRack := by omega
  have hsrc : (k.srcSlot % 64 + 64 * b2n k.ordered) % 256 % 64 = k.srcSlot ∧
      bitOf ((k.srcSlot % 64 + 64 * b2n k.ordered) % 256) 6 = k.ordered := by
    cases k.ordered <;> simp only [b2n, bitOf, if_true, Bool.false_eq_true, if_false, decide_eq_true_eq, decide_eq_false_iff_not] <;>
      omega
  have hslot : k.destSlot % 64 % 256 % 64 = k.destSlot := by omega
  have hplaneRead : k.plane % 32 % 256 % 32 = k.plane := by omega
  simp only [withRoute, routeBytes, routeRead, linkRead, List.append_assoc, byteAt_le, byteAt_skip_le, Nat.zero_add,
    Nat.reduceLeDiff, Nat.le_refl, Nat.reduceSub, Nat.sub_self, hracks, hsrc, hslot, hplaneRead]

theorem withSpan_append (x : Pkt) {a : Bytes} (b : Bytes) {o : Nat} (ha : a.length = o) :
    withSpan x (a ++ b) o = withSpan x b 0 := by
  subst ha
  simp only [withSpan, byteAt_append_add, fieldAt_append_add, Nat.zero_add]

theorem withSpan_spanBytes {k : Pkt} (h : OnWire k) {d : Nat} (hd : k.spanDim = some d) (rest : Bytes) :
    withSpan (routeRead k) (spanBytes k ++ rest) 0 = spanRead k := by
  obtain ⟨hdim, hhops, htime⟩ := h.span d hd
  have hdimRead : d % 2 % 256 % 2 = d := by omega
  have hhopsRead : k.hops % 256 % 256 = k.hops := by omega
  have htimeRead : k.originTime % 4294967296 % 4294967296 = k.originTime := by omega
  simp only [withSpan, spanBytes, spanRead, hd, List.append_assoc, byteAt_le, byteAt_skip_le, fieldAt_le, fieldAt_skip_le,
    fieldAt_skip_zeros, Nat.zero_add, Nat.reduceLeDiff, Nat.le_refl, Nat.reduceSub, Nat.reducePow, Nat.sub_self, hdimRead, hhopsRead,
    htimeRead]

theorem routeRead_of_noSpan {k : Pkt} (h : OnWire k) (hd : k.spanDim = none) : routeRead k = spanRead k := by
  obtain ⟨hhops, htime⟩ := h.noSpan hd
  simp only [spanRead, hd, hhops, htime]
  rfl

theorem withTransport_append (x : Pkt) {a : Bytes} (b : Bytes) {o : Nat} (op : POp) (ha : a.length = o) :
    withTransport x (a ++ b) o op = withTransport x b 0 op := by
  subst ha
  simp only [withTransport, byteAt_append_add, fieldAt_append_add, List.drop_length_add_append, Nat.zero_add]

/-- Each flag of a transport header is read at its bit (R173). -/
theorem bitOf_flags : ∀ bump last spray cm sync : Bool,
    let f := (b2n bump + 2 * b2n last + 4 * b2n spray + 8 * b2n cm + 16 * b2n sync) % 256
    bitOf f 0 = bump ∧ bitOf f 1 = last ∧ bitOf f 2 = spray ∧ bitOf f 3 = cm ∧ bitOf f 4 = sync := by
  decide

/-- What names a connection or a management context fits its two bytes, and bit 15 tells the two apart (R173). -/
theorem connBits_of_single {k : Pkt} (h : OnWire k) (hop : k.op ≠ .coll) : connBits k % 65536 = connBits k ∧
    bitOf (connBits k) 15 = k.mgmt ∧ (if k.mgmt then connBits k % 1024 else connBits k % 4096) = k.conn := by
  obtain ⟨-, hconn, -⟩ := h.single hop
  cases hm : k.mgmt with
  | false =>
    have hbits : connBits k = k.conn % 4096 := by rw [connBits, if_neg hop, hm, if_neg Bool.false_ne_true]
    rw [hm, if_neg Bool.false_ne_true] at hconn
    rw [if_neg Bool.false_ne_true, hbits, bitOf, decide_eq_false_iff_not]
    omega
  | true =>
    have hbits : connBits k = k.conn % 1024 + 2 ^ 15 := by rw [connBits, if_neg hop, hm, if_pos rfl]
    rw [hm, if_pos rfl] at hconn
    rw [if_pos rfl, hbits, bitOf, decide_eq_true_eq]
    omega

/-- The transport header of a request: RWRITE, RREAD and PEG lay it out alike (R173). -/
theorem transportTail_of_request {k : Pkt} (hcoll : k.op ≠ .coll) (hresp : k.op ≠ .response) :
    transportTail k = le 3 k.psn ++ zeros 1 ++ le 6 k.offset ++ le 1 (k.space % 4) ++ zeros 1 ++ le 2 (k.bumpPeg % 8192) ++
      le 1 k.gen ++ zeros 1 ++ le 4 k.arg := by
  cases hk : k.op with
  | coll => exact absurd hk hcoll
  | response => exact absurd hk hresp
  | rwrite | rread | peg => rw [transportTail, hk]

theorem withTransport_of_coll {k : Pkt} (h : OnWire k) (hop : k.op = .coll) (rest : Bytes) :
    withTransport (spanRead k) (transportBytes k ++ rest) 0 .coll = transportRead k := by
  have hflags := bitOf_flags k.bump k.last k.spray k.cm k.sync
  obtain ⟨hmgmt, hconn, hpsn, hstatus, hoffset, hspace, hlen⟩ := h.coll hop
  obtain ⟨hpeg, hgen, harg⟩ := h.noPeg (.inl hop)
  have htaken : (k.coll ++ rest).take 17 = k.coll := List.take_left' hlen
  have hpsnRead : k.psn % 65536 = k.psn := by omega
  have hconnRead : k.conn % 2048 % 65536 % 2048 = k.conn := by omega
  have hpadded : (k.coll ++ zeros 17).take 17 = k.coll := List.take_left' hlen
  simp only [withTransport, transportBytes, transportTail, flagBits, connBits, transportRead, spanRead, routeRead, linkRead, hop,
    List.append_assoc, byteAt_le, byteAt_skip_le, fieldAt_le, fieldAt_skip_le, drop_skip_le, drop_skip_zeros, List.drop_zero, Nat.zero_add,
    Nat.reduceLeDiff, Nat.le_refl, Nat.reduceSub, Nat.reducePow, Nat.sub_self, 
    decide_true, Bool.not_true, Bool.false_and, reduceCtorEq, true_or, if_true, if_false, hflags, hmgmt, hconnRead, hpsnRead, hstatus,
    hoffset, hspace, hpeg, hgen, harg, hpadded, htaken]

theorem withTransport_of_response {k : Pkt} (h : OnWire k) (hop : k.op = .response) (rest : Bytes) :
    withTransport (spanRead k) (transportBytes k ++ rest) 0 .response = transportRead k := by
  have hflags := bitOf_flags k.bump k.last k.spray k.cm k.sync
  have hsingle : k.op ≠ .coll := fun hc => POp.noConfusion (hc.symm.trans hop)
  obtain ⟨hfits, hmgmt, hconn⟩ := connBits_of_single h hsingle
  obtain ⟨hpsn, -, hoffset, hspace, hcoll⟩ := h.single hsingle
  obtain ⟨hpeg, hgen, harg⟩ := h.noPeg (.inr hop)
  have hstatus := h.response hop
  have hpsnRead : k.psn % 16777216 = k.psn := by omega
  have hoffsetRead : k.offset % 281474976710656 = k.offset := by omega
  have hspaceRead : k.space % 4 % 256 % 4 = k.space := by omega
  have hstatusRead : k.status % 256 = k.status := by omega
  simp only [withTransport, transportBytes, transportTail, flagBits, transportRead, spanRead, routeRead, linkRead, hop,
    List.append_assoc, byteAt_le, byteAt_skip_le, fieldAt_le, fieldAt_skip_le, Nat.zero_add,
    Nat.reduceLeDiff, Nat.le_refl, Nat.reduceSub, Nat.reducePow, Nat.sub_self, 
    decide_false, Bool.not_false, Bool.true_and, Bool.false_eq_true, reduceCtorEq, or_true, if_true, if_false, hflags, hfits, hmgmt,
    hconn, hpsnRead, hoffsetRead, hspaceRead, hstatusRead, hpeg, hgen, harg, hcoll]

theorem withTransport_of_request {k : Pkt} (h : OnWire k) (hsingle : k.op ≠ .coll) (hresp : k.op ≠ .response) (rest : Bytes) :
    withTransport (spanRead k) (transportBytes k ++ rest) 0 k.op = transportRead k := by
  have hflags := bitOf_flags k.bump k.last k.spray k.cm k.sync
  obtain ⟨hfits, hmgmt, hconn⟩ := connBits_of_single h hsingle
  obtain ⟨hpsn, -, hoffset, hspace, hcoll⟩ := h.single hsingle
  obtain ⟨hstatus, hpeg, hgen, harg⟩ := h.request hsingle hresp
  have htail := transportTail_of_request hsingle hresp
  have hpsnRead : k.psn % 16777216 = k.psn := by omega
  have hoffsetRead : k.offset % 281474976710656 = k.offset := by omega
  have hspaceRead : k.space % 4 % 256 % 4 = k.space := by omega
  have hpegRead : k.bumpPeg % 8192 % 65536 % 8192 = k.bumpPeg := by omega
  have hgenRead : k.gen % 256 = k.gen := by omega
  have hargRead : k.arg % 4294967296 = k.arg := by omega
  simp only [withTransport, transportBytes, htail, flagBits, transportRead, spanRead, routeRead, linkRead, hsingle, hresp,
    List.append_assoc, byteAt_le, byteAt_skip_le, fieldAt_le, fieldAt_skip_le, fieldAt_skip_zeros, byteAt_skip_zeros, Nat.zero_add,
    Nat.reduceLeDiff, Nat.le_refl, Nat.reduceSub, Nat.reducePow, Nat.sub_self, 
    decide_false, Bool.not_false, Bool.true_and, Bool.false_eq_true, or_self, if_false, hflags, hfits, hmgmt, hconn, hpsnRead,
    hoffsetRead, hspaceRead, hstatus, hpegRead, hgenRead, hargRead, hcoll]

theorem withTransport_transportBytes {k : Pkt} (h : OnWire k) (rest : Bytes) :
    withTransport (spanRead k) (transportBytes k ++ rest) 0 k.op = transportRead k := by
  by_cases hcoll : k.op = .coll
  · rw [hcoll]; exact withTransport_of_coll h hcoll rest
  by_cases hresp : k.op = .response
  · rw [hresp]; exact withTransport_of_response h hresp rest
  · exact withTransport_of_request h hcoll hresp rest

/-! ## The chain of headers (R171, R177) -/

@[simp] theorem opOf_opCode (op : POp) : opOf (opCode op) = some op := by cases op <;> rfl

theorem opCode_lt (op : POp) : opCode op < 5 := by cases op <;> decide

/-- The first byte of a transport header tells the operation and whether an extension header follows. -/
theorem byteAt_transportBytes (k : Pkt) (rest : Bytes) : byteAt (transportBytes k ++ rest) 0 / 16 = opCode k.op ∧
    byteAt (transportBytes k ++ rest) 0 % 16 = if k.ext = [] then 0 else 4 := by
  have hop := opCode_lt k.op
  simp only [transportBytes, List.append_assoc, byteAt_le]
  split <;> omega

theorem payOk_le {k : Pkt} {n : Nat} (h : payOk k n = true) : n ≤ 256 := by
  cases hk : k.op <;> simp only [payOk, hk, Bool.and_eq_true, decide_eq_true_eq] at h <;> omega

theorem OnWire.length_ext_le {k : Pkt} (h : OnWire k) : k.ext.length ≤ 16 := by
  by_cases hext : k.ext = []
  · rw [hext]; exact Nat.zero_le _
  · obtain ⟨hlen, -, -⟩ := h.ext hext
    omega

theorem OnWire.hdrLen_lt {k : Pkt} (h : OnWire k) : hdrLen k < 256 := by
  have hext := h.length_ext_le
  unfold hdrLen
  split <;> omega

theorem pktBytes_eq (k : Pkt) :
    pktBytes k = linkBytes k ++ (routeBytes k ++ (spanBytes k ++ (transportBytes k ++ (k.ext ++ k.payload)))) := by
  simp only [pktBytes, List.append_assoc]

theorem pktBytes_eq_span (k : Pkt) :
    pktBytes k = (linkBytes k ++ routeBytes k) ++ (spanBytes k ++ (transportBytes k ++ (k.ext ++ k.payload))) := by
  simp only [pktBytes, List.append_assoc]

theorem length_linkRoute (k : Pkt) : (linkBytes k ++ routeBytes k).length = 16 := by
  rw [List.length_append, length_linkBytes, length_routeBytes]

theorem length_pktBytes (k : Pkt) : (pktBytes k).length = pktLen k := by
  simp only [pktBytes, pktLen, hdrLen, List.length_append, length_linkBytes, length_routeBytes, length_spanBytes, length_transportBytes]
  omega

/-- The link header tells the two lengths, and that a route header follows. -/
theorem link_pktBytes {k : Pkt} (h : OnWire k) : byteAt (pktBytes k) 0 % 16 = 1 ∧ byteAt (pktBytes k) 1 = hdrLen k ∧
    fieldAt (pktBytes k) 4 2 % 512 = k.payload.length := by
  have hpay := payOk_le h.pay
  have hfirst : (1 + 16 * (k.cls % 4) + 64 * (k.dl % 2) + 128 * (k.epoch % 2)) % 256 % 16 = 1 := by omega
  have hpayLen : k.payload.length % 512 % 65536 % 512 = k.payload.length := by omega
  simp only [pktBytes_eq, linkBytes, List.append_assoc, byteAt_le, byteAt_skip_le, fieldAt_skip_le, fieldAt_le, Nat.le_refl,
    Nat.reduceLeDiff, Nat.sub_self, Nat.reduceSub, Nat.reducePow, hfirst, hpayLen, Nat.mod_eq_of_lt h.hdrLen_lt, and_self]

/-- The first byte of the route header tells whether a span header follows. -/
theorem byteAt_pktBytes_route (k : Pkt) : byteAt (pktBytes k) 8 % 16 = if k.spanDim.isSome then 2 else 3 := by
  rw [pktBytes_eq, byteAt_append_length _ (length_linkBytes k), routeBytes]
  simp only [List.append_assoc, byteAt_le]
  split <;> rfl

theorem byteAt_pktBytes_span {k : Pkt} {d : Nat} (hd : k.spanDim = some d) : byteAt (pktBytes k) 16 % 16 = 3 := by
  rw [pktBytes_eq_span, byteAt_append_length _ (length_linkRoute k)]
  simp only [spanBytes, hd, List.append_assoc, byteAt_le]

theorem withRoute_pktBytes {k : Pkt} (h : OnWire k) : withRoute (linkOf (pktBytes k)) (pktBytes k) 8 = routeRead k := by
  rw [pktBytes_eq, linkOf_linkBytes h, withRoute_append _ _ (length_linkBytes k), withRoute_routeBytes h]

theorem withSpan_pktBytes {k : Pkt} (h : OnWire k) {d : Nat} (hd : k.spanDim = some d) :
    withSpan (routeRead k) (pktBytes k) 16 = spanRead k := by
  rw [pktBytes_eq_span, withSpan_append _ _ (length_linkRoute k), withSpan_spanBytes h hd]

/-! ## The parser at each header of a packet on the wire -/

section
variable {b : Base} {k : Pkt} {a : Bytes} {o : Nat} (h : OnWire k) (hplane : b.isWeir = true → k.plane = b.pos)
  (hdest : b.isWeir = false → k.destRack = b.rack ∧ k.destSlot = b.pos) (ha : a.length = o)
include h hplane hdest

include ha in
/-- The chain ends where the payload begins. -/
theorem parseEnd_pktBytes (hbytes : pktBytes k = a ++ k.payload) :
    parseEnd b (pktBytes k) { k with payload := [] } o = .ok k := by
  obtain ⟨-, hhdr, hpay⟩ := link_pktBytes h
  have hlen : hdrLen k = o := by
    have hall := length_pktBytes k
    rw [hbytes, List.length_append, ha, pktLen] at hall
    omega
  have hok : payOk { k with payload := [] } k.payload.length = true := h.pay
  have hread : ((pktBytes k).drop o).take k.payload.length = k.payload := by
    rw [hbytes, List.drop_left' ha, List.take_length]
  have hthere : ¬(b.isWeir ∧ k.plane ≠ b.pos) := fun hw => hw.2 (hplane hw.1)
  have hhome : ¬(!b.isWeir ∧ ¬(k.destRack = b.rack ∧ k.destSlot = b.pos)) := fun hp =>
    hp.2 (hdest ((Bool.not_eq_true' _).mp hp.1))
  simp only [parseEnd, hhdr, hlen, hpay, hok, hread, hthere, hhome, ne_eq, not_true, Bool.not_true, Bool.false_eq_true, if_false]

include ha in
/-- An extension header that is there ends the chain. -/
theorem parseExt_pktBytes (hbytes : pktBytes k = a ++ (k.ext ++ k.payload)) (hext : k.ext ≠ []) (fourth : Bool) :
    parseExt b (pktBytes k) (transportRead k) o fourth = .ok k := by
  obtain ⟨hlen, hnext, hcount⟩ := h.ext hext
  have hn : byteAt (pktBytes k) (o + 1) = k.ext.length := by
    rw [hbytes, ← ha, byteAt_append_add, byteAt, fieldAt_append_of_add_le (by omega), ← byteAt, hcount]
  have h0 : byteAt (pktBytes k) o % 16 = 0 := by
    rw [hbytes, byteAt_append_length _ ha, byteAt, fieldAt_append_of_add_le (by omega), ← byteAt, hnext]
  have hread : ((pktBytes k).drop o).take k.ext.length = k.ext := by rw [hbytes, List.drop_left' ha, List.take_left]
  rw [parseExt, hn, h0, hread, if_neg (by omega), if_neg (by decide)]
  exact parseEnd_pktBytes h hplane hdest (a := a ++ k.ext) (by rw [List.length_append, ha]) (by rw [hbytes, List.append_assoc])

include ha in
theorem parseTransport_pktBytes (hbytes : pktBytes k = a ++ (transportBytes k ++ (k.ext ++ k.payload))) (third : Bool) :
    parseTransport b (pktBytes k) (spanRead k) o third = .ok k := by
  obtain ⟨hop, hnext⟩ := byteAt_transportBytes k (k.ext ++ k.payload)
  have hread : withTransport (spanRead k) (pktBytes k) o k.op = transportRead k := by
    rw [hbytes, withTransport_append _ _ _ ha, withTransport_transportBytes h]
  have hlen : (a ++ transportBytes k).length = o + 24 := by rw [List.length_append, ha, length_transportBytes]
  rw [← byteAt_append_length _ ha, ← hbytes] at hop hnext
  rw [← List.append_assoc] at hbytes
  simp only [parseTransport, hop, hnext, opOf_opCode, hread]
  by_cases hext : k.ext = []
  · have hall : transportRead k = { k with payload := [] } := by rw [transportRead, hext]
    rw [if_pos hext, if_pos rfl, hall]
    exact parseEnd_pktBytes h hplane hdest hlen (by rw [hbytes, hext, List.nil_append])
  · rw [if_neg hext, if_neg (by decide), if_pos rfl]
    exact parseExt_pktBytes h hplane hdest hlen hbytes hext third

/-- The parser of an ingress gives back the packet sent (R171–R177). -/
theorem parsePacket_pktBytes : parsePacket b (pktLen k) (pktBytes k) = .ok k := by
  obtain ⟨hfirst, hhdr, hpay⟩ := link_pktBytes h
  have hnext := byteAt_pktBytes_route k
  simp only [parsePacket, hfirst, hhdr, hpay, pktLen, withRoute_pktBytes h, ne_eq, not_true, if_false]
  cases hd : k.spanDim with
  | none =>
    rw [hd] at hnext
    have hspan : spanBytes k = [] := by rw [spanBytes, hd]
    simp only [hnext, Option.isSome_none, Bool.false_eq_true, if_false, routeRead_of_noSpan h hd]
    exact parseTransport_pktBytes h hplane hdest (length_linkRoute k) (by rw [pktBytes_eq_span, hspan, List.nil_append]) false
  | some d =>
    rw [hd] at hnext
    have hlen : (linkBytes k ++ routeBytes k ++ spanBytes k).length = 24 := by
      rw [List.length_append, length_linkRoute, length_spanBytes, hd]; rfl
    simp only [hnext, Option.isSome_some, if_true, byteAt_pktBytes_span hd, withSpan_pktBytes h hd]
    exact parseTransport_pktBytes h hplane hdest hlen (by rw [pktBytes_eq_span, ← List.append_assoc]) true

end

/-! ## A frame (R184) -/

theorem crc32Shift_lt (l : List Bool) {r : Nat} (hr : r < 2 ^ 32) : crc32Shift l r < 2 ^ 32 := by
  induction l generalizing r with
  | nil => exact hr
  | cons d l ih =>
    have hhalf : r / 2 < 2 ^ 32 := by omega
    rw [crc32Shift]
    split
    · exact ih hhalf
    · exact ih (Nat.xor_lt_two_pow hhalf (by decide))

theorem crc32_lt (b : Bytes) : crc32 b < 2 ^ 32 := Nat.xor_lt_two_pow (crc32Shift_lt _ (by decide)) (by decide)

/-- The first twelve bytes of a frame: its header but for the CRC. -/
def frameHead (seq ack : Nat) (ackValid : Bool) (vc type credVc credits first : Nat) : Bytes :=
  le 1 seq ++ le 1 ack ++ le 1 (b2n ackValid + 2 * (vc % 8) + 16 * (type % 16)) ++ le 1 (credVc % 8) ++ le 2 credits
    ++ le 2 (first % 1024) ++ zeros 4

/-- The packet data of a frame, with the zeros that fill it. -/
def frameData (data : Bytes) : Bytes := (data ++ zeros 624).take 624

@[simp] theorem length_frameData (data : Bytes) : (frameData data).length = 624 := by
  rw [frameData, List.length_take, List.length_append, length_zeros]
  omega

theorem take_frameData {data : Bytes} (h : data.length ≤ 624) : (frameData data).take data.length = data := by
  rw [frameData, List.take_take, Nat.min_eq_left h, List.take_left]

/-- The CRC is over the bytes before it and those behind it. -/
theorem frameCrc_append {head crc data : Bytes} (hhead : head.length = 12) (hcrc : crc.length = 4) (hdata : data.length = 624) :
    frameCrc (head ++ crc ++ data) = crc32 (head ++ data) := by
  have hall : (head ++ crc).length = 16 := by rw [List.length_append, hhead, hcrc]
  rw [frameCrc, List.drop_left' hall, List.take_of_length_le (Nat.le_of_eq hdata), List.append_assoc, List.take_left' hhead]

section
variable (seq ack : Nat) (ackValid : Bool) (vc type credVc credits first : Nat) (data : Bytes)

@[simp] theorem length_frameHead : (frameHead seq ack ackValid vc type credVc credits first).length = 12 := by
  simp only [frameHead, List.length_append, length_le, length_zeros]

theorem frameBytes_eq : frameBytes seq ack ackValid vc type credVc credits first data =
    frameHead seq ack ackValid vc type credVc credits first ++
      le 4 (crc32 (frameHead seq ack ackValid vc type credVc credits first ++ frameData data)) ++ frameData data := by
  rw [← frameCrc_append (length_frameHead ..) (length_zeros 4) (length_frameData data)]
  rfl

theorem length_frameBytes : (frameBytes seq ack ackValid vc type credVc credits first data).length = 640 := by
  simp only [frameBytes_eq, List.length_append, length_frameHead, length_le, length_frameData]

theorem frameOk_frameBytes (framing errors : Nat) :
    frameOk { bytes := frameBytes seq ack ackValid vc type credVc credits first data, framing := framing, errors := errors } = true := by
  have hlen := length_frameBytes seq ack ackValid vc type credVc credits first data
  have hcrc : fieldAt (frameBytes seq ack ackValid vc type credVc credits first data) 12 4 =
      frameCrc (frameBytes seq ack ackValid vc type credVc credits first data) := by
    rw [frameBytes_eq, frameCrc_append (length_frameHead ..) (length_le ..) (length_frameData data), List.append_assoc,
      fieldAt_append_of_le (Nat.le_of_eq (length_frameHead ..)), length_frameHead, fieldAt_le]
    exact Nat.mod_eq_of_lt (crc32_lt _)
  simp only [frameOk, List.take_left' hlen, hlen, hcrc, decide_true, Bool.and_self]

variable {seq ack vc type credVc credits first data}

/-- The header of a frame shows what it was made of. -/
theorem header_frameBytes (hseq : seq < 256) (hack : ack < 256) (hvc : vc < 8) (htype : type < 16) (hcredVc : credVc < 8)
    (hcredits : credits < 2 ^ 16) (hfirst : first < 1024) :
    let f := frameBytes seq ack ackValid vc type credVc credits first data
    byteAt f 0 = seq ∧ byteAt f 1 = ack ∧ bitOf (byteAt f 2) 0 = ackValid ∧ fld (byteAt f 2) 3 1 = vc ∧
      fld (byteAt f 2) 7 4 = type ∧ fld (byteAt f 3) 2 0 = credVc ∧ fieldAt f 4 2 = credits ∧ fieldAt f 6 2 = first := by
  have hkind : let b := (b2n ackValid + 2 * (vc % 8) + 16 * (type % 16)) % 256
      bitOf b 0 = ackValid ∧ fld b 3 1 = vc ∧ fld b 7 4 = type := by
    cases ackValid <;> simp only [b2n, bitOf, fld, if_true, Bool.false_eq_true, if_false, decide_eq_true_eq, decide_eq_false_iff_not] <;>
      omega
  have hcred : fld (credVc % 8 % 256) 2 0 = credVc := by simp only [fld]; omega
  have hcount : credits % 65536 = credits ∧ first % 1024 % 65536 = first := by omega
  simp only [frameBytes_eq, frameHead, List.append_assoc, byteAt_le, byteAt_skip_le, fieldAt_skip_le, fieldAt_le, Nat.le_refl,
    Nat.reduceLeDiff, Nat.sub_self, Nat.reduceSub, Nat.reducePow, hkind, hcred, hcount, Nat.mod_eq_of_lt hseq, Nat.mod_eq_of_lt hack, and_self]

theorem data_frameBytes (h : data.length ≤ 624) :
    ((frameBytes seq ack ackValid vc type credVc credits first data).drop 16).take data.length = data := by
  have hlen : (frameHead seq ack ackValid vc type credVc credits first ++
      le 4 (crc32 (frameHead seq ack ackValid vc type credVc credits first ++ frameData data))).length = 16 := by
    rw [List.length_append, length_frameHead, length_le]
  rw [frameBytes_eq, List.drop_left' hlen, take_frameData h]

end

/-! ## Scrambled bits and encrypted images (R183, R375) -/

/-- The descrambler's register takes the scrambled bits in, as the scrambler's does, so both add the same bits. -/
theorem descramble_scramble (r : Nat) (l : List Bool) : descramble r (scramble r l) = l := by
  induction l generalizing r with
  | nil => rfl
  | cons d l ih => rw [scramble, descramble, ih, Bool.xor_assoc, Bool.xor_self, Bool.xor_false]

theorem ctrByte_ctrByte (key : List Nat) (nonce : Bytes) (x : Nat) (b : Byte) :
    ctrByte key nonce x (ctrByte key nonce x b) = b := by
  have hstream (y : Nat) (b : Byte) : BitVec.ofNat 8 (b.toNat ^^^ y) = b ^^^ BitVec.ofNat 8 y := by
    rw [BitVec.ofNat_xor, BitVec.ofNat_toNat, BitVec.setWidth_eq]
  rw [ctrByte, ctrByte, hstream, hstream, BitVec.xor_assoc, BitVec.xor_self, BitVec.xor_zero]

/-- Settles O60: each header is read as it was written and the parser follows their chain; a frame's fields are read at their
places; the scrambler and the key stream add what their inverses add again. -/
theorem wireForms : Obligations.WireForms := by
  unfold Obligations.WireForms
  refine ⟨fun b k hwire hplane hdest => parsePacket_pktBytes (onWire_of_wirePacket hwire) hplane hdest, ?_,
    fun l r => descramble_scramble r l, ctrByte_ctrByte⟩
  intro seq ack ackValid vc type credVc credits first data hseq hack hvc htype hcredVc hcredits hfirst hdata
  obtain ⟨hs, ha, hav, hv, ht, hcv, hc, hf⟩ := header_frameBytes ackValid (data := data) hseq hack hvc htype hcredVc hcredits hfirst
  exact ⟨length_frameBytes .., fun _ _ => frameOk_frameBytes .., hs, ha, hav, hv, ht, hcv, hc, hf, data_frameBytes ackValid hdata⟩

end Sys2Proof.Machine
end

section
/-! PROOFS. Ports where a packet waits in an epoch that no header can name (R164, R169, R171). -/

namespace Sys2Proof.Machine

/-- An epoch that no packet header can hold (R171 gives it one bit). At a Weir's offsets the in-flight counters stand one after another
from 0x10004, and the counter of this epoch would stand at PORT_STAT of port 0: counting such a packet out takes one off that register. -/
def strayEpoch : Nat := 0x4000

/-! ## Training -/

/-- A package whose base has a Weir's offsets, with port 0 in Verify and attested for its partner. A packet of `strayEpoch` waits for
a port, and the route entry and the spray set of its connection name plane 0. -/
def strayPackage : Package :=
  let b : Base := { isWeir := true, ports := [(0, { phase := 5 })] }
  let p : Package := { Package.reset 0 with base := b, fab := { waitPath := [{ epoch := strayEpoch }] } }
  let p := p.wr (portReg b 0 Off.EXPECT_CTL) 0x100
  (p.setConn 0 { spray := 1 }).wr (pg 0x38 0x10 + Off.ROUTE_ENTRY) 1

/-- Port 0 passes Verify and becomes ACTIVE, the waiting packet leaves by it, and counting it in its new epoch instead of the old
one takes one off PORT_STAT. -/
theorem portState_verify_strayPackage :
    portState (afterPort strayPackage 0 (phasePass strayPackage.base 0)).base 0 = 6 := by decide +kernel

/-- Refutes O40: port 0 of `strayPackage` passes Verify with EXPECT valid and matching, and reads UP_UNATTESTED afterwards. The
statement lets a package have a Weir's register offsets and a packet any number for its epoch; no run from reset makes such a state. -/
theorem not_training : ¬ Obligations.Training := by
  unfold Obligations.Training
  rintro ⟨htrain, -⟩
  let s : State := setPkg State.reset 0 strayPackage
  have hpkg : pkgOf s 0 = strayPackage := pkgOf_setPkg_self _ _ _
  have hverify : ((baseOf s (.pkg 0)).port 0).phase = 5 := by decide
  have hattested : (expectValid (baseOf s (.pkg 0)) 0 && expectMatches (baseOf s (.pkg 0)) 0) = true := by decide
  obtain ⟨-, -, -, -, -, hpass, -⟩ := htrain s (.pkg 0) 0 (by decide)
  obtain ⟨t, ht, -, hstate⟩ := hpass hverify rfl
  obtain ⟨hafter, -⟩ := onPkg_frame (f := fun p => afterPort p 0 (phasePass p.base 0)) ht
  rw [hattested, if_pos rfl, baseOf, hafter, hpkg] at hstate
  exact absurd (portState_verify_strayPackage.symm.trans hstate) (by decide)

/-! ## Down notices -/

/-- A Weir whose port 0 is ACTIVE, with a collective packet of `strayEpoch` in its queue. -/
def strayWeir : Weir :=
  (Weir.reset 0).mapBase fun b => setPortState (b.setPort 0 { queue := [(6, { op := .coll, epoch := strayEpoch })] }) 0 7

/-- A down notice records its cause in PORT_STAT, and giving up the packet takes one off that register. -/
theorem downCause_noticeAtWeir_strayWeir :
    rdF (noticeAtWeir strayWeir 0).base (portReg strayWeir.base 0 Off.PORT_STAT) 15 12 = 4 := by decide +kernel

/-- Refutes O41: a down notice at port 0 of `strayWeir` leaves DOWN_CAUSE 4, too many replays, and not 5. The statement lets a queued
packet have any number for its epoch, where a header holds one bit; no run from reset makes such a state. -/
theorem not_portsUpAndDown : ¬ Obligations.PortsUpAndDown := by
  unfold Obligations.PortsUpAndDown
  intro h
  let s : State := setWeir State.reset 0 strayWeir
  have hweir : weirOf s 0 = strayWeir := weirOf_setWeir_self _ _ _
  have hup : portState (baseOf s (.weir 0)) 0 = 7 := by decide
  obtain ⟨-, -, -, -, hnotice, -⟩ := h s (.weir 0) 0 (by decide)
  obtain ⟨t, ht, -, hcause, -⟩ := hnotice hup
  obtain ⟨hafter, -⟩ := onWeir_frame (f := fun w => noticeAtWeir w 0) ht
  rw [baseOf, baseOf, hafter, hweir] at hcause
  exact absurd (downCause_noticeAtWeir_strayWeir.symm.trans hcause) (by decide)

end Sys2Proof.Machine
end

section
/-! PROOFS. Bits of registers, and the bits of EVT_STAT: an event sets its own, and clears none (R42, R43). -/

namespace Sys2Proof.Machine

/-! ## Bits of a number with a field replaced (R8) -/

theorem bitOf_eq_testBit (v i : Nat) : bitOf v i = v.testBit i := Nat.testBit_eq_decide_div_mod_eq.symm

theorem bitOf_mod_two_pow (v : Nat) {i n : Nat} (hi : i < n) : bitOf (v % 2 ^ n) i = bitOf v i := by
  simp [bitOf_eq_testBit, Nat.testBit_mod_two_pow, hi]

/-- Bit `i` of a number with a field replaced: the field's bit there, the number's elsewhere. -/
theorem bitOf_setFld (v x : Nat) {hi lo : Nat} (h : lo ≤ hi) (i : Nat) :
    bitOf (setFld v hi lo x) i = if lo ≤ i ∧ i ≤ hi then bitOf x (i - lo) else bitOf v i := by
  obtain ⟨n, rfl⟩ := Nat.exists_eq_add_of_le h
  have hsplit : setFld v (lo + n) lo x =
      2 ^ lo * (2 ^ (n + 1) * (v / 2 ^ (lo + n + 1)) + x % 2 ^ (n + 1)) + v % 2 ^ lo := by
    have hwidth : lo + n + 1 - lo = n + 1 := by omega
    have hpow : 2 ^ (lo + n + 1) = 2 ^ lo * 2 ^ (n + 1) := by rw [Nat.add_assoc, Nat.pow_add]
    rw [setFld, hwidth, hpow, Nat.mul_add, ← Nat.mul_assoc (2 ^ lo), Nat.mul_comm (v / _), Nat.mul_comm (x % _)]
  have hlow : v % 2 ^ lo < 2 ^ lo := Nat.mod_lt _ (Nat.two_pow_pos _)
  have hmid : x % 2 ^ (n + 1) < 2 ^ (n + 1) := Nat.mod_lt _ (Nat.two_pow_pos _)
  rw [hsplit]
  simp only [bitOf_eq_testBit, Nat.testBit_two_pow_mul_add _ hlow, Nat.testBit_two_pow_mul_add _ hmid, Nat.testBit_mod_two_pow,
    Nat.testBit_div_two_pow]
  by_cases hbelow : i < lo
  · simp [hbelow, Nat.not_le_of_lt hbelow]
  · by_cases hin : i ≤ lo + n
    · simp [hbelow, hin, Nat.le_of_not_lt hbelow, show i - lo < n + 1 by omega]
    · have habove : i - lo - (n + 1) + (lo + n + 1) = i := by omega
      simp [hbelow, hin, show ¬ i - lo < n + 1 by omega, habove]

theorem bitOf_setBit_self (v i : Nat) : bitOf (setBit v i true) i = true := by
  rw [setBit, bitOf_setFld v _ (Nat.le_refl i), if_pos ⟨Nat.le_refl i, Nat.le_refl i⟩, Nat.sub_self]
  decide

/-- Setting a bit clears none. -/
theorem bitOf_setBit_of_bitOf {v i : Nat} (j : Nat) (h : bitOf v i = true) : bitOf (setBit v j true) i = true := by
  by_cases hij : i = j
  · exact hij ▸ bitOf_setBit_self v i
  · rw [setBit, bitOf_setFld v _ (Nat.le_refl j), if_neg (by omega)]
    exact h

/-! ## Packages whose events stand -/

/-- Whatever bit of an EVT_STAT stands in the first package stands in the second. -/
def KeepsEvents (p q : Package) : Prop :=
  ∀ c i, offOf c = Off.EVT_STAT → i < 32 → bitOf (p.rd c) i = true → bitOf (q.rd c) i = true

theorem KeepsEvents.refl (p : Package) : KeepsEvents p p := fun _ _ _ _ h => h

theorem KeepsEvents.trans {p q r : Package} (h : KeepsEvents p q) (g : KeepsEvents q r) : KeepsEvents p r :=
  fun c i hc hi hbit => g c i hc hi (h c i hc hi hbit)

theorem KeepsEvents.ite {p q r : Package} {c : Prop} [Decidable c] (h : KeepsEvents p q) (g : KeepsEvents p r) :
    KeepsEvents p (if c then q else r) := by
  split
  · exact h
  · exact g

theorem keepsEvents_of_regs {p q : Package} (hregs : q.base.regs = p.base.regs) (hweir : q.base.isWeir = p.base.isWeir) :
    KeepsEvents p q := fun c i _ _ hbit => by simpa only [Package.rd, rd, hregs, hweir] using hbit

theorem keepsEvents_of_base {p q : Package} (h : q.base = p.base) : KeepsEvents p q :=
  keepsEvents_of_regs (congrArg Base.regs h) (congrArg Base.isWeir h)

theorem keepsEvents_wr (p : Package) {a off : Nat} (v : Nat) (ha : offOf a = 0) (hoff : off < 0x1000 ∧ off ≠ Off.EVT_STAT) :
    KeepsEvents p (p.wr (a + off) v) := by
  obtain ⟨hlt, hne⟩ := hoff
  intro c i hc _ hbit
  rw [Package.rd_wr_ne]
  · exact hbit
  · rintro rfl
    exact hne ((offOf_page_add ha hlt).symm.trans hc)

theorem keepsEvents_setBit (p : Package) (a bit : Nat) : KeepsEvents p (p.wr a (setBit (p.rd a) bit true)) := by
  intro c i _ hi hbit
  by_cases hca : c = a
  · subst hca
    rw [Package.rd_wr_self, bitOf_mod_two_pow _ hi]
    exact bitOf_setBit_of_bitOf bit hbit
  · rw [Package.rd_wr_ne _ _ hca]
    exact hbit

/-! ## What an event record reaches -/

theorem hostWrite_base (p : Package) (fn addr : Nat) (b : Bytes) : (hostWrite p fn addr b).base = p.base := by
  unfold hostWrite; split <;> rfl

theorem hostMsix_base (p : Package) (fn vec : Nat) : (hostMsix p fn vec).base = p.base := by
  unfold hostMsix; split <;> rfl

theorem writeShadow_base (p : Package) (v : Nat) : (writeShadow p v).base = p.base := by
  unfold writeShadow
  exact iteInduction (motive := fun q : Package => q.base = p.base) (fun _ => hostWrite_base p v _ _) fun _ => rfl

/-- A signal, its shadow included, writes no register. -/
theorem vfSignal_base (p : Package) (v vec : Nat) : (vfSignal p v vec).base = p.base := by
  have hsent : (hostMsix (writeShadow p v) v vec).base = p.base := (hostMsix_base _ _ _).trans (writeShadow_base p v)
  unfold vfSignal
  exact iteInduction (motive := fun q : Package => q.base = p.base) (fun _ => rfl)
    fun _ => iteInduction (motive := fun q : Package => q.base = p.base) (fun _ => hsent) fun _ => hsent

theorem keepsEvents_vfEvent (p : Package) (v : Nat) (head tail : Bytes) : KeepsEvents p (vfEvent p v head tail) := by
  refine .ite ?_ (keepsEvents_wr p _ (offOf_pg 4 v) (by decide))
  exact (keepsEvents_of_base (hostWrite_base p v _ _)).trans <|
    (keepsEvents_wr _ _ (offOf_pg 4 v) (by decide)).trans (keepsEvents_of_base (vfSignal_base _ v 1))

theorem keepsEvents_ringAppend (p : Package) (type sev page : Nat) (b : Bytes) : KeepsEvents p (ringAppend p type sev page b).1 := by
  unfold ringAppend
  split
  · exact .refl p
  · have hhead (h : HubSt) (v : Nat) : KeepsEvents p ({ p with hub := h }.wr (hubPage 3 + Off.RING_HEAD) v) :=
      keepsEvents_wr { p with hub := h } v (offOf_pg 0 3) (by decide)
    have hover (q : Package) (c : Prop) [Decidable c] :
        KeepsEvents q (if c then q.mapBase fun b => bumpSat b (hubPage 3 + Off.RING_OVERWRITTEN) 1 else q) :=
      .ite (keepsEvents_wr q _ (offOf_pg 0 3) (by decide)) (.refl q)
    have htold (q : Package) (c : Prop) [Decidable c] (b : Bytes) :
        KeepsEvents q (if c then q.mapBase fun x => sendTc x 0x06 b else q) := by
      refine .ite (keepsEvents_of_regs ?_ ?_) (.refl q) <;> simp only [Package.mapBase_base, sendTc] <;> split <;> rfl
    exact (hhead _ _).trans ((hover _ _).trans (htold _ _ _))

theorem keepsEvents_sendRecordTo (p : Package) (a bit : Nat) (err forced : Bool) (c0 c2 c3 : Nat) :
    KeepsEvents p (sendRecordTo p a bit err forced c0 c2 c3).1 := by
  have hrung := keepsEvents_ringAppend p 1 (if err then 2 else 0) (a / 0x1000)
  have hmsix (q : Package) (c : Prop) [Decidable c] (v : Nat) : KeepsEvents q (if c then hostMsix q 0 v else q) :=
    .ite (keepsEvents_of_base (hostMsix_base q 0 v)) (.refl q)
  have hevent (q : Package) (c : Prop) [Decidable c] (v : Nat) (x y : Bytes) : KeepsEvents q (if c then vfEvent q v x y else q) :=
    .ite (keepsEvents_vfEvent q v x y) (.refl q)
  have hpins (q : Package) (c : Prop) [Decidable c] (f : Base → Pins) :
      KeepsEvents q (if c then q.mapBase fun b => { b with pins := f b } else q) := .ite (.refl q) (.refl q)
  exact (hrung _).trans <| (hmsix _ _ _).trans <| (hevent _ _ _ _ _).trans (hpins _ _ _)

theorem keepsEvents_sendRecord (p : Package) (a bit : Nat) (err forced : Bool) (c0 c2 c3 : Nat) :
    KeepsEvents p (sendRecord p a bit err forced c0 c2 c3) := by
  have hsent := keepsEvents_sendRecordTo p a bit err forced c0 c2 c3
  have hover := hsent.trans (keepsEvents_setBit _ (hubPage 3 + Off.EVT_STAT) 2)
  exact .ite (.ite (hover.trans (keepsEvents_sendRecordTo _ _ _ _ _ _ _ _)) hover) hsent

/-! ## An event of a page -/

theorem keepsEvents_setEvtBit (p : Package) (a bit : Nat) (err forced : Bool) (c0 c2 c3 : Nat) :
    KeepsEvents p (setEvtBit p a bit err forced c0 c2 c3) := by
  have hset := keepsEvents_setBit p (a + Off.EVT_STAT) bit
  exact .ite (hset.trans (keepsEvents_sendRecord _ _ _ _ _ _ _ _)) hset

section
variable (p : Package) {a : Nat} (ha : offOf a = 0)
include ha

theorem bitOf_setEvtBit {bit : Nat} (err forced : Bool) (c0 c2 c3 : Nat) (hbit : bit < 32) :
    bitOf ((setEvtBit p a bit err forced c0 c2 c3).rd (a + Off.EVT_STAT)) bit = true := by
  have hset : bitOf ((p.wr (a + Off.EVT_STAT) (setBit (p.rd (a + Off.EVT_STAT)) bit true)).rd (a + Off.EVT_STAT)) bit = true := by
    rw [Package.rd_wr_self, bitOf_mod_two_pow _ hbit]
    exact bitOf_setBit_self _ _
  exact iteInduction (motive := fun q : Package => bitOf (q.rd (a + Off.EVT_STAT)) bit = true)
    (fun _ => keepsEvents_sendRecord _ _ _ _ _ _ _ _ _ _ (offOf_page_add ha (by decide)) hbit hset) fun _ => hset

/-- An event of a page clears no bit of an EVT_STAT. -/
theorem keepsEvents_raise (bit : Nat) (c : Capt) : KeepsEvents p (raise p a bit c) := by
  have hcapt {q : Package} {off : Nat} (v : Nat) (h : off < 0x1000 ∧ off ≠ Off.EVT_STAT) : KeepsEvents q (q.wr (a + off) v) :=
    keepsEvents_wr q v ha h
  have hcaptured : KeepsEvents p ((((p.wr (a + Off.ERR_CAPT0) (capt0 bit true c)).wr (a + Off.ERR_CAPT1) p.base.gtime).wr
      (a + Off.ERR_CAPT2) c.c2).wr (a + Off.ERR_CAPT3) c.c3) :=
    ((hcapt _ (by decide)).trans (hcapt _ (by decide))).trans ((hcapt _ (by decide)).trans (hcapt _ (by decide)))
  have hset (can : Bool) (c0 : Nat) :=
    (KeepsEvents.ite (c := can = true) hcaptured (.refl p)).trans (keepsEvents_setEvtBit _ a bit true false c0 c.c2 c.c3)
  exact .ite (.ite (hset _ _) ((hset _ _).trans (keepsEvents_setEvtBit _ a 26 false false 0 0 0)))
    (keepsEvents_setEvtBit p a bit false false 0 0 0)

/-- An event of a page sets its bit (R43). -/
theorem bitOf_raise {bit : Nat} (c : Capt) (hbit : bit < 32) : bitOf ((raise p a bit c).rd (a + Off.EVT_STAT)) bit = true := by
  have hset (q : Package) (err : Bool) (c0 c2 c3 : Nat) := bitOf_setEvtBit q ha err false c0 c2 c3 hbit
  exact iteInduction (motive := fun q : Package => bitOf (q.rd (a + Off.EVT_STAT)) bit = true)
    (fun _ => iteInduction (motive := fun q : Package => bitOf (q.rd (a + Off.EVT_STAT)) bit = true) (fun _ => hset _ _ _ _ _)
      fun _ => keepsEvents_setEvtBit _ a 26 false false 0 0 0 _ _ (offOf_page_add ha (by decide)) hbit (hset _ _ _ _ _))
    fun _ => hset _ _ _ _ _

end

end Sys2Proof.Machine
end

section
/-! PROOFS. What waits for a place in a virtual function's completion ring, and what goes on of it moves no memory, and writes few
registers (R333, R338). -/

namespace Sys2Proof.Machine

/-! ## Registers of a host hopper (R344) -/

theorem offOf_hhReg (v : Nat) {h off : Nat} (hh : h < 4) (hoff : off < 0xC0) : offOf (hhReg v h off) = off + 0x40 * h := by
  rw [hhReg, Nat.add_assoc]
  exact offOf_page_add (offOf_pg 4 v) (by omega)

/-- Two registers of one hopper stand at different addresses. -/
theorem hhReg_ne (v h : Nat) {off off' : Nat} (hne : off ≠ off') : hhReg v h off ≠ hhReg v h off' := by
  simp only [hhReg]; omega

/-! ## What goes on -/

/-- The places within their pages of the registers that a drain of the completion ring can write: those that events write, the ring's
end, HIF_DROPPED and the DONE of each hopper. -/
def drainOffs : List Nat :=
  eventOffs ++ [Off.HCQ_PROD, Off.HIF_DROPPED] ++ (List.range 4).map fun h => Off.HH_DONE + 0x40 * h

/-- The second package has the memory of the first and its registers, but for those that a drain can write, and its events stand. -/
structure Drained (p q : Package) : Prop where
  mem : q.mem = p.mem
  regs : ∀ a, offOf a ∉ drainOffs → q.rd a = p.rd a
  events : KeepsEvents p q

theorem Drained.refl (p : Package) : Drained p p := ⟨rfl, fun _ _ => rfl, .refl p⟩

theorem Drained.trans {p q r : Package} (h : Drained p q) (g : Drained q r) : Drained p r :=
  ⟨g.mem.trans h.mem, fun a ha => (g.regs a ha).trans (h.regs a ha), h.events.trans g.events⟩

theorem Drained.ite {p q r : Package} {c : Prop} [Decidable c] (h : Drained p q) (g : Drained p r) :
    Drained p (if c then q else r) := by
  split
  · exact h
  · exact g

theorem drained_of_base {p q : Package} (hmem : q.mem = p.mem) (hbase : q.base = p.base) : Drained p q :=
  ⟨hmem, fun a _ => congrArg (rd · a) hbase, keepsEvents_of_base hbase⟩

theorem drained_setVf (p : Package) (v : Nat) (x : Vf) : Drained p (p.setVf v x) := drained_of_base rfl rfl

theorem drained_setHop (p : Package) (r : HopRef) (l : List HopEntry) : Drained p (p.setHop r l) := drained_of_base rfl rfl

theorem drained_wr (p : Package) {off : Nat} (v val : Nat) (hoff : off ∈ drainOffs ∧ off < 0x1000 ∧ off ≠ Off.EVT_STAT) :
    Drained p (p.wr (vfPage v + off) val) := by
  obtain ⟨hmem, hlt, hne⟩ := hoff
  refine ⟨rfl, fun a ha => Package.rd_wr_ne p val ?_, keepsEvents_wr p val (offOf_pg 4 v) ⟨hlt, hne⟩⟩
  rintro rfl
  exact ha ((offOf_page_add (offOf_pg 4 v) hlt).symm ▸ hmem)

theorem drained_raise (p : Package) (v bit : Nat) (c : Capt) : Drained p (raise p (vfPage v) bit c) :=
  ⟨raise_mem .., fun a ha => sameRegs_raise p (offOf_pg 4 v) bit c a fun h => ha (by simp [drainOffs, h]),
    keepsEvents_raise p (offOf_pg 4 v) bit c⟩

theorem drained_hcqWrite (p : Package) (v : Nat) (head tail : Bytes) (signal : Bool) : Drained p (hcqWrite p v head tail signal) := by
  have hwritten (addr : Nat) (b : Bytes) : Drained p (hostWrite p v addr b) :=
    drained_of_base (sameWork_hostWrite p v addr b).1 (hostWrite_base p v addr b)
  have hdropped (n : Nat) : Drained p (p.wr (vfPage v + Off.HIF_DROPPED) n) := drained_wr p v n (by decide)
  have hend (q : Package) (n : Nat) : Drained q (touchShadow (q.wr (vfPage v + Off.HCQ_PROD) n) v) :=
    (drained_wr q v n (by decide)).trans (drained_setVf _ v _)
  have hsignal (q : Package) : Drained q (vfSignal q v 0) := drained_of_base (sameWork_vfSignal q v 0).1 (vfSignal_base q v 0)
  exact (Drained.ite (hwritten _ _) (hdropped _)).trans <| (hend _ _).trans (.ite (hsignal _) (.refl _))

theorem drained_cqFull (p : Package) (v : Nat) : Drained p (cqFull p v) :=
  .ite (.refl p) ((drained_setVf p v _).trans (drained_raise _ v 12 _))

theorem drained_faultRecords (v n : Nat) (p : Package) : Drained p (faultRecords p v n) := by
  induction n generalizing p with
  | zero => exact .refl p
  | succ n ih =>
    rw [faultRecords]
    split
    · exact .refl p
    · exact .ite (drained_cqFull p v) <| (drained_hcqWrite p v _ _ _).trans <| (drained_setVf _ v _).trans (ih _)

theorem drained_hostRetire (v : Nat) {h : Nat} (hh : h < 4) (n : Nat) (p : Package) : Drained p (hostRetire p v h n) := by
  have hdone (q : Package) (l : List HopEntry) (idx : Nat) :
      Drained q (touchShadow ((q.setHop (.host v h) l).wr (hhReg v h Off.HH_DONE) idx) v) := by
    have hoff : Off.HH_DONE + 0x40 * h ∈ drainOffs ∧ Off.HH_DONE + 0x40 * h < 0x1000 ∧ Off.HH_DONE + 0x40 * h ≠ Off.EVT_STAT :=
      (by decide : ∀ i < 4, Off.HH_DONE + 0x40 * i ∈ drainOffs ∧ Off.HH_DONE + 0x40 * i < 0x1000 ∧
        Off.HH_DONE + 0x40 * i ≠ Off.EVT_STAT) h hh
    rw [hhReg, Nat.add_assoc]
    exact (drained_setHop q _ l).trans <| (drained_wr _ v idx hoff).trans (drained_setVf _ v _)
  have hrecord (q : Package) (c : Prop) [Decidable c] (e : HopEntry) : Drained q (if c then hostRecord q v h e else q) :=
    .ite (drained_hcqWrite q v _ _ _) (.refl q)
  induction n generalizing p with
  | zero => exact .refl p
  | succ n ih =>
    rw [hostRetire]
    split
    · exact .refl p
    · exact .ite (.refl p) <| .ite (drained_cqFull p v) <| (hrecord p _ _).trans <| (hdone _ _ _).trans (ih _)

/-- Whatever a drain sends on, it keeps the memory, every register but those that a drain can write, and the events that stand. -/
theorem drained_hostDrain (p : Package) (v : Nat) : Drained p (hostDrain p v) := by
  have hfaults (x : Vf) (n : Nat) : Drained p (faultRecords (if hcqRoom p v then p.setVf v x else p) v n) :=
    (Drained.ite (drained_setVf p v x) (.refl p)).trans (drained_faultRecords v n _)
  have hretired {h : Nat} (hh : h < 4) (q : Package) : Drained q (hostRetire q v h (q.hop (.host v h)).length) :=
    drained_hostRetire v hh _ q
  have hrange : List.range 4 = [0, 1, 2, 3] := rfl
  rw [hostDrain, hrange]
  simp only [List.foldl]
  exact (hfaults _ _).trans <| (hretired (by decide) _).trans <| (hretired (by decide) _).trans <| (hretired (by decide) _).trans
    (hretired (by decide) _)

end Sys2Proof.Machine
end

section
/-! PROOFS. A virtual function's host hopper: its registers and its fetch (R228, R324, R328–R332, R344). -/

namespace Sys2Proof.Machine

/-! ## Writes of a hopper's registers (R330–R332, R344) -/

/-- A hopper's register stands on its function's page, and a write there is judged by the hopper. -/
theorem write_hhReg (free : Nat) (p : Package) (src : Src) {v h off : Nat} (val : Nat) (hv : v ≤ 16) (hh : h < 4)
    (hoff : 0x80 ≤ off ∧ off < 0xC0) :
    (if offOf (hhReg v h off) < 0x80 then headerWrite free p src (pageOf (hhReg v h off)) .vf (offOf (hhReg v h off)) val
      else blockWrite p src (pageOf (hhReg v h off)) .vf (offOf (hhReg v h off)) val) = hhWrite p v h off val := by
  obtain ⟨hlow, hhigh⟩ := hoff
  have hinst : instOf (pageOf (hhReg v h off)) = v := by simp only [instOf, pageOf, hhReg, vfPage, pg]; omega
  have hhop : (off + 0x40 * h - 0x80) / 0x40 = h := by omega
  have hplace : 0x80 + (off + 0x40 * h - 0x80) % 0x40 = off := by omega
  have hgroup : 0x80 ≤ off + 0x40 * h ∧ off + 0x40 * h < 0x180 := by omega
  rw [offOf_hhReg v hh hhigh, if_neg (by omega), blockWrite, hinst, vfWrite, if_pos hgroup, hhop, hplace]

section
variable {s : State} {k : Nat} {src : Src} {v h off val : Nat} (hv : v ≤ 16) (hh : h < 4) (hoff : 0x80 ≤ off ∧ off < 0xC0)
  (hval : val < 2 ^ 32) (hreaches : Safety.reaches s k src (hhReg v h off) .vf = true)
include hv hh hoff hval hreaches

theorem onCtl_hhReg_ok {q : Package} (hq : hhWrite (pkgOf s k) v h off val = .ok q) :
    onCtl k src (hhReg v h off) 4 val s = .next (Safety.written s k (hhReg v h off) q) := by
  rw [onCtl_of_reaches hreaches, write_hhReg _ _ _ _ hv hh hoff, Nat.mod_eq_of_lt hval, hq]

theorem onCtl_hhReg_error {reason : Nat} (hr : hhWrite (pkgOf s k) v h off val = .error reason) :
    onCtl k src (hhReg v h off) 4 val s = .next (Safety.refused s k src (hhReg v h off) val reason) := by
  rw [onCtl_of_reaches hreaches, write_hhReg _ _ _ _ hv hh hoff, Nat.mod_eq_of_lt hval, hr]

end

/-! ## The package that an accepted write leaves (R47) -/

theorem pkgOf_written (s : State) (k a : Nat) (q : Package) : pkgOf (Safety.written s k a q) k = acceptWrite q (pageOf a) :=
  pkgOf_setPkg_self s k _

theorem acceptWrite_mem (p : Package) (page : Nat) : (acceptWrite p page).mem = p.mem := rfl

/-- Counting a write changes SEQ_IN and SEQ_OUT of its page alone. -/
theorem rd_acceptWrite (p : Package) (a : Nat) {c : Nat} (hin : offOf c ≠ Off.SEQ_IN) (hout : offOf c ≠ Off.SEQ_OUT) :
    (acceptWrite p (pageOf a)).rd c = p.rd c := by
  have hne {off : Nat} (hlt : off < 0x1000) (hc : offOf c ≠ off) : c ≠ pageOf a + off := by
    rintro rfl
    exact hc (offOf_page_add (offOf_pageOf a) hlt)
  rw [acceptWrite, Package.rd_wr_ne _ _ (hne (by decide) hout), Package.rd_wr_ne _ _ (hne (by decide) hin)]

theorem rd_acceptWrite_hhReg (p : Package) (a v : Nat) {h off : Nat} (hh : h < 4) (hoff : 0x80 ≤ off ∧ off < 0xC0) :
    (acceptWrite p (pageOf a)).rd (hhReg v h off) = p.rd (hhReg v h off) := by
  have hplace := offOf_hhReg v hh hoff.2
  refine rd_acceptWrite p a ?_ ?_ <;> rw [hplace] <;> simp only [Off.SEQ_IN, Off.SEQ_OUT] <;> omega

/-! ## What each register makes of its write -/

section
variable {p : Package} {v h val : Nat}

/-- A doorbell within its bounds: no further ahead of ACC than the ring's size, and not behind POSTED (R331). -/
def postedWithin (p : Package) (v h val : Nat) : Prop :=
  bitOf (p.rd (hhReg v h Off.HH_CFG)) 16 = true ∧
    serialDist 32 val (p.rd (hhReg v h Off.HH_ACC)) ≤ 2 ^ fld (p.rd (hhReg v h Off.HH_CFG)) 3 0 ∧
    serialDist 32 val (p.rd (hhReg v h Off.HH_POSTED)) < 2 ^ 31

theorem hhPosted_of_within (hd3 : v ∉ p.host.d3) (hw : postedWithin p v h val) :
    hhPosted p v h val = p.wr (hhReg v h Off.HH_POSTED) val := by
  have hawake : p.host.d3.contains v = false := by simpa using hd3
  simp only [hhPosted, hawake]
  exact if_pos hw

theorem hhPosted_of_not_within (hd3 : v ∉ p.host.d3) (hw : ¬ postedWithin p v h val) :
    hhPosted p v h val = raise p (vfPage v) (4 + h) { c2 := val, c3 := p.rd (hhReg v h Off.HH_ACC) } := by
  have hawake : p.host.d3.contains v = false := by simpa using hd3
  simp only [hhPosted, hawake]
  exact if_neg hw

theorem hhPosted_of_d3 (hd3 : v ∈ p.host.d3) : hhPosted p v h val = p := by
  simp [hhPosted, hd3]

theorem hhCtlWrite_run (hval : val < 2) : hhCtlWrite p v h val = p.wrF (hhReg v h Off.HH_CTL) 0 0 val := by
  have hfld : fld val 0 0 = val := by simp only [fld]; omega
  have hresume : bitOf val 1 = false := decide_eq_false (by omega)
  simp [hhCtlWrite, hfld, hresume]

theorem hhCtlWrite_resume (hval : val < 2) : hhCtlWrite p v h (2 + val) =
    headStep ((p.wrF (hhReg v h Off.HH_CTL) 0 0 val).wrF (hhReg v h Off.HH_STAT) 0 0 0) (.host v h) := by
  have hfld : fld (2 + val) 0 0 = val := by simp only [fld]; omega
  have hresume : bitOf (2 + val) 1 = true := decide_eq_true (by omega)
  simp only [hhCtlWrite, hfld, hresume]
  rfl

/-- The package after HH_ACC is written while the hopper is not committed (R330). -/
def hhRenumbered (p : Package) (v h val : Nat) : Package :=
  touchShadow (((p.wr (hhReg v h Off.HH_POSTED) val).wr (hhReg v h Off.HH_ACC) val).wr (hhReg v h Off.HH_DONE) val) v

theorem hhAcc_staged (hcfg : bitOf (p.rd (hhReg v h Off.HH_CFG)) 16 = false) : hhAcc p v h val = .ok (hhRenumbered p v h val) := by
  simp [hhAcc, hcfg, hhRenumbered]

theorem hhAcc_committed (hcfg : bitOf (p.rd (hhReg v h Off.HH_CFG)) 16 = true) : hhAcc p v h val = .error 5 := by
  simp [hhAcc, hcfg]

theorem rd_hhRenumbered (hval : val < 2 ^ 32) {off : Nat} (hoff : off = Off.HH_POSTED ∨ off = Off.HH_ACC ∨ off = Off.HH_DONE) :
    (hhRenumbered p v h val).rd (hhReg v h off) = val := by
  have hshadow (q : Package) (c : Nat) : (touchShadow q v).rd c = q.rd c := rfl
  rw [hhRenumbered, hshadow]
  rcases hoff with rfl | rfl | rfl
  · rw [Package.rd_wr_ne _ _ (hhReg_ne v h (by decide)), Package.rd_wr_ne _ _ (hhReg_ne v h (by decide)), Package.rd_wr_self,
      Nat.mod_eq_of_lt hval]
  · rw [Package.rd_wr_ne _ _ (hhReg_ne v h (by decide)), Package.rd_wr_self, Nat.mod_eq_of_lt hval]
  · rw [Package.rd_wr_self, Nat.mod_eq_of_lt hval]

end

/-! ## Commit and its end (R328, R344) -/

theorem ringSize_le {lo hi : Nat} (h : lo ≤ hi) (v : Nat) : ringSize lo hi v ≤ hi := by
  unfold ringSize
  split <;> omega

section
variable {p : Package} {v h val : Nat}

/-- What HH_CFG holds after a write that is taken. -/
def hhCfgStored (val : Nat) : Nat := ringSize 6 12 (fld val 3 0) + fld val 11 8 * 2 ^ 8 + b2n (bitOf val 16) * 2 ^ 16

theorem hhCfgStored_lt (val : Nat) : hhCfgStored val < 2 ^ 32 := by
  have hsize : ringSize 6 12 (fld val 3 0) ≤ 12 := ringSize_le (by decide) _
  have htile : fld val 11 8 < 16 := Nat.mod_lt _ (by decide)
  have hcommit : b2n (bitOf val 16) ≤ 1 := by cases bitOf val 16 <;> decide
  simp only [hhCfgStored]
  omega

theorem bitOf_hhCfgStored (hval : bitOf val 16 = false) : bitOf (hhCfgStored val) 16 = false := by
  have hsize : ringSize 6 12 (fld val 3 0) ≤ 12 := ringSize_le (by decide) _
  have htile : fld val 11 8 < 16 := Nat.mod_lt _ (by decide)
  have hcommit : b2n (bitOf val 16) = 0 := by rw [hval]; rfl
  rw [hhCfgStored, hcommit]
  exact decide_eq_false (by omega)

/-- The tile that a commit names is there, and the function's pitch owns it (R328). -/
def hhTileOwned (p : Package) (v val : Nat) : Prop :=
  fld val 11 8 < p.tiles ∧ ownerOf p.base (tilePage (fld val 11 8) 0) = ownerOf p.base (vfPage v)

/-- The package after a commit: its failures are counted afresh (R344). -/
def hhCommitted (p : Package) (v h val : Nat) : Package :=
  (p.wr (hhReg v h Off.HH_CFG) (hhCfgStored val)).wrF (hhReg v h Off.HH_STAT) 31 16 0

theorem hhCommitted_mem (p : Package) (v h val : Nat) : (hhCommitted p v h val).mem = p.mem := rfl

theorem rd_cfg_hhCommitted (p : Package) (v h val : Nat) : (hhCommitted p v h val).rd (hhReg v h Off.HH_CFG) = hhCfgStored val := by
  rw [hhCommitted, Package.rd_wrF, if_neg (hhReg_ne v h (by decide)), Package.rd_wr_self, Nat.mod_eq_of_lt (hhCfgStored_lt val)]

theorem fld_stat_hhCommitted (p : Package) (v h val : Nat) : fld ((hhCommitted p v h val).rd (hhReg v h Off.HH_STAT)) 31 16 = 0 := by
  rw [hhCommitted, Package.rd_wrF, if_pos rfl]
  simp only [fld, setFld]
  omega

theorem hhCfgWrite_commit (hcfg : bitOf (p.rd (hhReg v h Off.HH_CFG)) 16 = false) (hval : bitOf val 16 = true)
    (howned : hhTileOwned p v val) : hhCfgWrite p v h val = .ok (hhCommitted p v h val) := by
  simp only [hhCfgWrite, hcfg, hval, if_true, Bool.false_eq_true, if_false, hhCommitted, hhCfgStored]
  exact if_pos howned

theorem hhCfgWrite_foreign (hcfg : bitOf (p.rd (hhReg v h Off.HH_CFG)) 16 = false) (hval : bitOf val 16 = true)
    (hforeign : ¬ hhTileOwned p v val) : hhCfgWrite p v h val = .error 5 := by
  simp only [hhCfgWrite, hcfg, hval, if_true, Bool.false_eq_true, if_false]
  exact if_neg hforeign

theorem hhCfgWrite_open (hcfg : bitOf (p.rd (hhReg v h Off.HH_CFG)) 16 = true) (hval : bitOf val 16 = false)
    (hopen : p.rd (hhReg v h Off.HH_ACC) ≠ p.rd (hhReg v h Off.HH_DONE)) : hhCfgWrite p v h val = .error 1 := by
  simp [hhCfgWrite, hhOpen, hcfg, hval, hopen]

theorem hhCfgWrite_end (hcfg : bitOf (p.rd (hhReg v h Off.HH_CFG)) 16 = true) (hval : bitOf val 16 = false)
    (hdone : p.rd (hhReg v h Off.HH_ACC) = p.rd (hhReg v h Off.HH_DONE)) :
    hhCfgWrite p v h val = .ok (p.wr (hhReg v h Off.HH_CFG) (hhCfgStored val)) := by
  simp [hhCfgWrite, hhOpen, hcfg, hval, hdone, hhCfgStored]

end

/-! ## The fetch (R228, R332) -/

section
variable {p : Package} {v h : Nat} {read : EntryRead}

theorem fetchWants_of_nothing_posted (hacc : p.rd (hhReg v h Off.HH_ACC) = p.rd (hhReg v h Off.HH_POSTED)) :
    fetchWants p (.host v h) = false := by
  simp [fetchWants, hacc]

theorem hostEntryFetch_of_unwanted (hwants : fetchWants p (.host v h) = false) : hostEntryFetch p v h read = p := by
  simp [hostEntryFetch, hwants]

/-- The sequence number of the entry that a hopper fetches next (R332). -/
def hhNextSeq (p : Package) (v h : Nat) : Nat := (p.rd (hhReg v h Off.HH_ACC) + 1) % 2 ^ 32

/-- A fetch fault halts the hopper, and the fault's record waits for a place in the completion ring (R332, R333). -/
def faultHalted (p : Package) (v h reason found : Nat) : Package :=
  (p.wrF (hhReg v h Off.HH_STAT) 0 0 1).setVf v
    { p.vf v with waitFaults := (p.vf v).waitFaults ++ [(h, reason, hhNextSeq p v h, found)] }

/-- The fault's event is raised as well, and what waits for a place goes on. -/
def fetchFault (p : Package) (v h reason found : Nat) : Package :=
  hostDrain (raise (faultHalted p v h reason found) (vfPage v) (8 + h) { c2 := hhNextSeq p v h, c3 := reason }) v

variable (hwants : fetchWants p (.host v h) = true)
include hwants

theorem hostEntryFetch_of_full (hplace : placeFor p (.host v h) = false) :
    hostEntryFetch p v h read = stallBegin p (pitchOfHop p (.host v h)) (hopWait (.host v h)) 1 := by
  simp [hostEntryFetch, hwants, hplace]

variable (hplace : placeFor p (.host v h) = true)
include hplace

theorem hostEntryFetch_of_next {b : Bytes} (hseq : fieldAt b 64 4 = hhNextSeq p v h)
    (hsize : serialDist 32 (hhNextSeq p v h) (p.rd (hhReg v h Off.HH_DONE)) ≤ 2 ^ fld (p.rd (hhReg v h Off.HH_CFG)) 3 0) :
    hostEntryFetch p v h (.data b) =
      headStep (touchShadow (((takePlace p (.host v h)).setHop (.host v h) ((takePlace p (.host v h)).hop (.host v h) ++
        [{ idx := hhNextSeq p v h, bytes := b.take 64, irq := bitOf (byteAt b 68) 0 }])).wr (hhReg v h Off.HH_ACC)
          (hhNextSeq p v h)) v) (.host v h) := by
  have hfits : ¬ 2 ^ p.rdF (hhReg v h Off.HH_CFG) 3 0 < serialDist 32 (hhNextSeq p v h) (p.rd (hhReg v h Off.HH_DONE)) :=
    Nat.not_lt_of_le hsize
  simp only [hhNextSeq] at hseq hfits
  simp only [hostEntryFetch, hwants, hplace, hseq, hhNextSeq, if_neg hfits, ne_eq, not_true_eq_false, Bool.not_true, Bool.false_eq_true,
    if_false]

theorem hostEntryFetch_of_fault (hread : read = .error ∨ ∃ b, read = .data b ∧ fieldAt b 64 4 ≠ hhNextSeq p v h) :
    ∃ reason found, hostEntryFetch p v h read = fetchFault p v h reason found := by
  rcases hread with rfl | ⟨b, rfl, hseq⟩
  · refine ⟨2, 0, ?_⟩
    simp only [hostEntryFetch, hwants, hplace]
    rfl
  · refine ⟨1, fieldAt b 64 4, ?_⟩
    simp only [hhNextSeq] at hseq
    simp only [hostEntryFetch, hwants, hplace, if_pos hseq]
    rfl

end

/-! ## What a fetch fault leaves (R332) -/

/-- After the halt, a fetch fault writes what an event and a drain of the completion ring can write. -/
theorem drained_fetchFault (p : Package) (v h reason found : Nat) :
    Drained (p.wrF (hhReg v h Off.HH_STAT) 0 0 1) (fetchFault p v h reason found) := by
  have hhalted : Drained (p.wrF (hhReg v h Off.HH_STAT) 0 0 1) (faultHalted p v h reason found) := drained_setVf _ v _
  unfold fetchFault
  exact hhalted.trans <| (drained_raise _ v (8 + h) _).trans (drained_hostDrain _ v)

section
variable (p : Package) (v : Nat) {h : Nat} (hh : h < 4) (reason found : Nat)
include hh

theorem offOf_hhReg_notMem {off : Nat} (hoff : off = Off.HH_ACC ∨ off = Off.HH_STAT) : offOf (hhReg v h off) ∉ drainOffs := by
  have hnone : ∀ i < 4, Off.HH_ACC + 0x40 * i ∉ drainOffs ∧ Off.HH_STAT + 0x40 * i ∉ drainOffs := by decide
  obtain ⟨hacc, hstat⟩ := hnone h hh
  rcases hoff with rfl | rfl <;> rw [offOf_hhReg v hh (by decide)]
  · exact hacc
  · exact hstat

theorem hopHalted_fetchFault : hopHalted (fetchFault p v h reason found) (.host v h) = true := by
  have hstat : bitOf ((fetchFault p v h reason found).rd (hhReg v h Off.HH_STAT)) 0 = true := by
    rw [(drained_fetchFault p v h reason found).regs _ (offOf_hhReg_notMem v hh (.inr rfl)), Package.rd_wrF, if_pos rfl,
      bitOf_mod_two_pow _ (by decide), bitOf_setFld _ _ (Nat.le_refl 0), if_pos (by decide)]
    rfl
  exact hstat

theorem rd_acc_fetchFault : (fetchFault p v h reason found).rd (hhReg v h Off.HH_ACC) = p.rd (hhReg v h Off.HH_ACC) := by
  rw [(drained_fetchFault p v h reason found).regs _ (offOf_hhReg_notMem v hh (.inl rfl)), Package.rd_wrF,
    if_neg (hhReg_ne v h (by decide))]

theorem bitOf_evtStat_fetchFault : bitOf ((fetchFault p v h reason found).rd (vfPage v + Off.EVT_STAT)) (8 + h) = true := by
  have hoff : offOf (vfPage v + Off.EVT_STAT) = Off.EVT_STAT := offOf_page_add (offOf_pg 4 v) (by decide)
  have hraised := bitOf_raise (faultHalted p v h reason found) (offOf_pg 4 v) (bit := 8 + h)
    { c2 := hhNextSeq p v h, c3 := reason } (by omega)
  unfold fetchFault
  exact (drained_hostDrain _ v).events _ _ hoff (by omega) hraised

end

theorem fetchFault_mem (p : Package) (v h reason found : Nat) : (fetchFault p v h reason found).mem = p.mem :=
  (drained_fetchFault p v h reason found).mem

/-! ## The commands -/

theorem exec_hostEntryFetch {s : State} {k v h : Nat} {read : EntryRead} {q : Package} (hq : hostEntryFetch (pkgOf s k) v h read = q) :
    exec (.hostEntryFetch k v h read) s = .next (setPkg s k q) := by
  rw [← hq]
  rfl

/-- Settles O48: each command is one write of a hopper's register, or one fetch; a fetch fault's halt, ACC and event stand through
the drain of the completion ring that follows. -/
theorem hostHoppers : Obligations.HostHoppers := by
  unfold Obligations.HostHoppers
  intro s k src v h _ hv hh
  refine ⟨fun val hval hreaches => ⟨fun hd3 hw => ?_, fun hd3 hw => ?_, fun hd3 => ?_⟩, fun val hval hreaches => ⟨?_, ?_⟩,
    fun val hval hreaches => ⟨fun hcfg => ?_, fun hcfg => ?_⟩,
    fun val hval hreaches => ⟨fun hcfg hset howned => ?_, fun hcfg hset hforeign => ?_, fun hcfg hclear hopen => ?_,
      fun hcfg hclear hdone => ?_⟩,
    fun hrun hcfg hhalted hposted hstrike hd3 henabled => ?_, fun hposted read => ?_⟩
  · exact onCtl_hhReg_ok hv hh (by decide) hval hreaches (congrArg Except.ok (hhPosted_of_within hd3 hw))
  · exact onCtl_hhReg_ok hv hh (by decide) hval hreaches (congrArg Except.ok (hhPosted_of_not_within hd3 hw))
  · exact onCtl_hhReg_ok hv hh (by decide) hval hreaches (congrArg Except.ok (hhPosted_of_d3 hd3))
  · exact onCtl_hhReg_ok hv hh (by decide) (by omega) hreaches (congrArg Except.ok (hhCtlWrite_run hval))
  · exact onCtl_hhReg_ok hv hh (by decide) (by omega) hreaches (congrArg Except.ok (hhCtlWrite_resume hval))
  · refine ⟨_, onCtl_hhReg_ok hv hh (by decide) hval hreaches (hhAcc_staged hcfg), ?_⟩
    simp only [pkgOf_written, acceptWrite_mem]
    refine ⟨?_, ?_, ?_, rfl⟩ <;> rw [rd_acceptWrite_hhReg _ _ _ hh (by decide), rd_hhRenumbered hval (by decide)]
  · exact onCtl_hhReg_error hv hh (by decide) hval hreaches (hhAcc_committed hcfg)
  · refine ⟨_, onCtl_hhReg_ok hv hh (by decide) hval hreaches (hhCfgWrite_commit hcfg hset howned), ?_⟩
    rw [pkgOf_written]
    refine ⟨?_, ?_, ?_⟩
    · rw [rd_acceptWrite_hhReg _ _ _ hh (by decide), rd_cfg_hhCommitted, hhCfgStored, hset, b2n, if_pos rfl, Nat.one_mul]
    · rw [Package.rdF, rdF, ← Package.rd, rd_acceptWrite_hhReg _ _ _ hh (by decide), fld_stat_hhCommitted]
    · rw [acceptWrite_mem, hhCommitted_mem]
  · exact onCtl_hhReg_error hv hh (by decide) hval hreaches (hhCfgWrite_foreign hcfg hset hforeign)
  · exact onCtl_hhReg_error hv hh (by decide) hval hreaches (hhCfgWrite_open hcfg hclear hopen)
  · refine ⟨_, onCtl_hhReg_ok hv hh (by decide) hval hreaches (hhCfgWrite_end hcfg hclear hdone), ?_⟩
    rw [pkgOf_written, rd_acceptWrite_hhReg _ _ _ hh (by decide), Package.rd_wr_self, Nat.mod_eq_of_lt (hhCfgStored_lt val)]
    exact bitOf_hhCfgStored hclear
  · have hwants : fetchWants (pkgOf s k) (.host v h) = true := by
      simp [fetchWants, Package.dmaOk, hrun, hcfg, hhalted, hposted, hstrike, hd3, henabled]
    refine ⟨fun hplace read => exec_hostEntryFetch (hostEntryFetch_of_full hwants hplace),
      fun hplace b hseq hsize => exec_hostEntryFetch (hostEntryFetch_of_next hwants hplace hseq hsize), fun hplace read hread => ?_⟩
    obtain ⟨reason, found, hfault⟩ := hostEntryFetch_of_fault hwants hplace hread
    refine ⟨_, exec_hostEntryFetch hfault, ?_⟩
    rw [pkgOf_setPkg_self]
    exact ⟨hopHalted_fetchFault _ v hh reason found, rd_acc_fetchFault _ v hh reason found, bitOf_evtStat_fetchFault _ v hh reason found,
      fetchFault_mem _ v h reason found⟩
  · exact exec_hostEntryFetch (hostEntryFetch_of_unwanted (fetchWants_of_nothing_posted hposted))

end Sys2Proof.Machine
end

section
/-! PROOFS. A SETUP that a Weir discards where the packet it took is of an epoch that no header can name (R164, R171, R237). -/

namespace Sys2Proof.Machine

/-- An epoch that no packet header can hold (R171 gives it one bit). At a Weir's offsets the in-flight counter of this epoch stands at
0x3000C, where the discarded collective packets are counted. -/
def discardEpoch : Nat := 0x8002

theorem inflightReg_discardEpoch {b : Base} (h : b.isWeir = true) : inflightReg b discardEpoch = 0x3000C := by
  simp [inflightReg, h, discardEpoch]

/-- A SETUP packet of `discardEpoch`. -/
def straySetup : Pkt := { op := .coll, epoch := discardEpoch, coll := collHdr 6 0 0 0 false false 0 0 0 0 }

/-- A Weir that has discarded one collective packet and has taken `straySetup` at up-port 64. -/
def setupWeir : Weir := { (Weir.reset 0).wr 0x3000C 1 with taken := [(64, straySetup)] }

/-- The packet leaves the list of those taken, which takes one off the count of discarded packets. -/
theorem rd_weirTake_setupWeir : (weirTake setupWeir 64 straySetup).rd 0x3000C = 0 := by
  have htaken : setupWeir.taken.contains (64, straySetup) = true := by decide
  rw [weirTake, if_pos htaken, Weir.rd, inflightSub, show straySetup.epoch = discardEpoch from rfl, inflightReg_discardEpoch rfl]
  decide

/-- The discard then adds one to what is left. -/
theorem rd_setupIn_setupWeir : (setupIn setupWeir 64 straySetup).rd 0x3000C = 1 := by
  have hsetup : ¬ (straySetup.op ≠ .coll ∨ cType straySetup ≠ 6) := by decide
  have hupPort : 64 ≤ 64 ∨ straySetup.pitch ≠ 0 := .inl (Nat.le_refl 64)
  have hcount : ((weirTake setupWeir 64 straySetup).bump 0x3000C).rd 0x3000C = 1 := by
    rw [Weir.rd, Weir.bump, Weir.mapBase, bumpSat, rd_wr_self, ← Weir.rd, rd_weirTake_setupWeir]
    decide
  simpa only [setupIn, if_neg hsetup, if_pos hupPort] using hcount

/-- Refutes O47: a SETUP at up-port 64 of `setupWeir` is discarded, and the count of discarded packets is 1 afterwards as before. The
statement lets a packet have any number for its epoch, where a header holds one bit; no run from reset makes such a state. -/
theorem not_weirCollectives : ¬ Obligations.WeirCollectives := by
  unfold Obligations.WeirCollectives
  rintro ⟨hsetup, -⟩
  let s : State := setWeir State.reset 0 setupWeir
  have hweir : weirOf s 0 = setupWeir := weirOf_setWeir_self _ _ _
  obtain ⟨hdiscard, -⟩ := hsetup s 0 64 straySetup rfl (by decide)
  obtain ⟨t, ht, -, hcount⟩ := hdiscard (.inl (Nat.le_refl 64))
  obtain ⟨hafter, -⟩ := onWeir_frame (f := fun x => setupIn x 64 straySetup) ht
  rw [hafter, hweir, rd_setupIn_setupWeir] at hcount
  exact absurd hcount (by decide)

end Sys2Proof.Machine
end

section
/-! PROOFS. What an event leaves: a property that outlasts the writes of the registers that events write, and the changes of messages,
pins, hub and host, outlasts the event (R42–R46, R335, R441). -/

namespace Sys2Proof.Machine

/-- The registers that an event can write: EVT_STAT and ERR_CAPT of a page, the hub event ring's head and count of overwrites, and
the end and the losses of a virtual function's event ring. -/
inductive EventReg : Nat → Prop where
  | page {a off : Nat} (ha : offOf a = 0)
      (hoff : off ∈ [Off.EVT_STAT, Off.ERR_CAPT0, Off.ERR_CAPT1, Off.ERR_CAPT2, Off.ERR_CAPT3]) : EventReg (a + off)
  | ringHead : EventReg (hubPage 3 + Off.RING_HEAD)
  | ringOverwritten : EventReg (hubPage 3 + Off.RING_OVERWRITTEN)
  | heqProd (v : Nat) : EventReg (vfPage v + Off.HEQ_PROD)
  | heqLost (v : Nat) : EventReg (vfPage v + Off.HEQ_LOST)

/-- A property of packages that no part of an event ends. -/
structure EventClosed (P : Package → Prop) : Prop where
  reg : ∀ {q x} v, EventReg x → P q → P (q.wr x v)
  msp : ∀ {q} (m : Base → Msp), P q → P (q.mapBase fun b => { b with msp := m b })
  pins : ∀ {q} (m : Base → Pins), P q → P (q.mapBase fun b => { b with pins := m b })
  hub : ∀ {q} h, P q → P { q with hub := h }
  host : ∀ {q} h, P q → P { q with host := h }

section
variable {P : Package → Prop} (hP : EventClosed P) {p : Package}
include hP

theorem EventClosed.keeps_hostWrite (h : P p) (fn addr : Nat) (b : Bytes) : P (hostWrite p fn addr b) :=
  iteInduction (fun _ => hP.host _ h) fun _ => h

theorem EventClosed.keeps_hostMsix (h : P p) (fn vec : Nat) : P (hostMsix p fn vec) :=
  iteInduction (fun _ => hP.host _ h) fun _ => h

theorem EventClosed.keeps_writeShadow (h : P p) (v : Nat) : P (writeShadow p v) :=
  iteInduction (fun _ => hP.host _ (hP.keeps_hostWrite h _ _ _)) fun _ => h

theorem EventClosed.keeps_vfSignal (h : P p) (v vec : Nat) : P (vfSignal p v vec) := by
  have hsent := hP.keeps_hostMsix (hP.keeps_writeShadow h v) v vec
  exact iteInduction (fun _ => hP.host _ h) fun _ => iteInduction (fun _ => hsent) fun _ => hP.host _ hsent

theorem EventClosed.keeps_vfEvent (h : P p) (v : Nat) (head tail : Bytes) : P (vfEvent p v head tail) :=
  iteInduction (fun _ => hP.keeps_vfSignal (hP.host _ (hP.reg _ (.heqProd v) (hP.keeps_hostWrite h _ _ _))) v 1)
    fun _ => hP.host _ (hP.reg _ (.heqLost v) h)

theorem EventClosed.keeps_sendTc (h : P p) (type : Nat) (b : Bytes) : P (p.mapBase fun x => sendTc x type b) := by
  have hsent := hP.msp (fun x => (sendTc x type b).msp) h
  have hsame : (p.mapBase fun x => { x with msp := (sendTc x type b).msp }) = p.mapBase fun x => sendTc x type b := by
    simp only [Package.mapBase, sendTc]
    split <;> rfl
  rwa [hsame] at hsent

theorem EventClosed.keeps_ringAppend (h : P p) (type sev page : Nat) (b : Bytes) : P (ringAppend p type sev page b).1 := by
  unfold ringAppend
  split
  · exact h
  · have hhead (x : HubSt) (v : Nat) : P ({ p with hub := x }.wr (hubPage 3 + Off.RING_HEAD) v) := hP.reg v .ringHead (hP.hub x h)
    have hover {q : Package} (c : Prop) [Decidable c] (hq : P q) :
        P (if c then q.mapBase fun b => bumpSat b (hubPage 3 + Off.RING_OVERWRITTEN) 1 else q) :=
      iteInduction (fun _ => hP.reg _ .ringOverwritten hq) fun _ => hq
    exact iteInduction (fun _ => hP.keeps_sendTc (hover _ (hhead _ _)) _ _) fun _ => hover _ (hhead _ _)

theorem EventClosed.keeps_sendRecordTo (h : P p) (a bit : Nat) (err forced : Bool) (c0 c2 c3 : Nat) :
    P (sendRecordTo p a bit err forced c0 c2 c3).1 := by
  have hmsix {q : Package} (c : Prop) [Decidable c] (v : Nat) (hq : P q) : P (if c then hostMsix q 0 v else q) :=
    iteInduction (fun _ => hP.keeps_hostMsix hq 0 v) fun _ => hq
  have hevent {q : Package} (c : Prop) [Decidable c] (v : Nat) (x y : Bytes) (hq : P q) : P (if c then vfEvent q v x y else q) :=
    iteInduction (fun _ => hP.keeps_vfEvent hq v x y) fun _ => hq
  have hpins {q : Package} (c : Prop) [Decidable c] (f : Base → Pins) (hq : P q) :
      P (if c then q.mapBase fun b => { b with pins := f b } else q) := iteInduction (fun _ => hP.pins f hq) fun _ => hq
  exact hpins _ _ (hevent _ _ _ _ (hmsix _ _ (hP.keeps_ringAppend h _ _ _ _)))

theorem EventClosed.keeps_sendRecord (h : P p) (a bit : Nat) (err forced : Bool) (c0 c2 c3 : Nat) :
    P (sendRecord p a bit err forced c0 c2 c3) := by
  have hsent := hP.keeps_sendRecordTo h a bit err forced c0 c2 c3
  have hover : P ((sendRecordTo p a bit err forced c0 c2 c3).1.wrF (hubPage 3 + Off.EVT_STAT) 2 2 1) :=
    hP.reg _ (.page (a := hubPage 3) (off := Off.EVT_STAT) (offOf_pg 0 3) (by decide)) hsent
  exact iteInduction (fun _ => iteInduction (fun _ => hP.keeps_sendRecordTo hover _ _ _ _ _ _ _) fun _ => hover) fun _ => hsent

variable {a : Nat} (ha : offOf a = 0)
include ha

theorem EventClosed.keeps_setEvtBit (h : P p) (bit : Nat) (err forced : Bool) (c0 c2 c3 : Nat) :
    P (setEvtBit p a bit err forced c0 c2 c3) := by
  have hset (v : Nat) : P (p.wr (a + Off.EVT_STAT) v) := hP.reg v (.page ha (by decide)) h
  exact iteInduction (fun _ => hP.keeps_sendRecord (hset _) _ _ _ _ _ _ _) fun _ => hset _

/-- An event of a page. -/
theorem EventClosed.keeps_raise (h : P p) (bit : Nat) (c : Capt) : P (raise p a bit c) := by
  have hcapt {q : Package} {off : Nat} (v : Nat)
      (hoff : off ∈ [Off.EVT_STAT, Off.ERR_CAPT0, Off.ERR_CAPT1, Off.ERR_CAPT2, Off.ERR_CAPT3]) (hq : P q) : P (q.wr (a + off) v) :=
    hP.reg v (.page ha hoff) hq
  have hcaptured : P ((((p.wr (a + Off.ERR_CAPT0) (capt0 bit true c)).wr (a + Off.ERR_CAPT1) p.base.gtime).wr
      (a + Off.ERR_CAPT2) c.c2).wr (a + Off.ERR_CAPT3) c.c3) :=
    hcapt _ (by decide) (hcapt _ (by decide) (hcapt _ (by decide) (hcapt _ (by decide) h)))
  have hset (can : Bool) (c0 : Nat) := hP.keeps_setEvtBit ha (iteInduction (c := can = true) (motive := P) (fun _ => hcaptured) fun _ => h)
    bit true false c0 c.c2 c.c3
  exact iteInduction (fun _ => iteInduction (fun _ => hset _ _) fun _ => hP.keeps_setEvtBit ha (hset _ _) _ _ _ _ _ _)
    fun _ => hP.keeps_setEvtBit ha h _ _ _ _ _ _

end

end Sys2Proof.Machine
end

section
/-! PROOFS. Reads of unscrubbed granules; and units that an access finds hollow or offline, which no error it meets brings back
(R122, R282, R285). -/

namespace Sys2Proof.Machine

/-! ## The bits that say a unit is hollow or offline -/

/-- The registers that say whether a unit is hollow or offline: PAGE_STAT of a page, STACK_STAT of a stack (R41, R122). -/
def StatReg (x : Nat) : Prop := offOf x = Off.PAGE_STAT ∨ ∃ s < 8, x = stackPage s + Off.STACK_STAT

/-- Whatever bit of these registers stands in the first package stands in the second. -/
def KeepsStat (p q : Package) : Prop := ∀ x i, StatReg x → i < 32 → bitOf (p.rd x) i = true → bitOf (q.rd x) i = true

theorem KeepsStat.refl (p : Package) : KeepsStat p p := fun _ _ _ _ h => h

theorem KeepsStat.trans {p q r : Package} (h : KeepsStat p q) (g : KeepsStat q r) : KeepsStat p r :=
  fun x i hx hi hbit => g x i hx hi (h x i hx hi hbit)

theorem keepsStat_of_base {p q : Package} (h : q.base = p.base) : KeepsStat p q :=
  fun x i _ _ hbit => by simpa only [Package.rd, h] using hbit

theorem keepsStat_wr (p : Package) {x : Nat} (v : Nat) (hx : ¬ StatReg x) : KeepsStat p (p.wr x v) := by
  intro c i hc _ hbit
  rwa [Package.rd_wr_ne]
  rintro rfl
  exact hx hc

theorem keepsStat_wrF_one (p : Package) (x i : Nat) : KeepsStat p (p.wrF x i i 1) := by
  intro c j _ hj hbit
  rw [Package.rd_wrF]
  split
  · next hcx =>
    rw [bitOf_mod_two_pow _ hj]
    exact bitOf_setBit_of_bitOf i (hcx ▸ hbit)
  · exact hbit

theorem offOf_statReg {x : Nat} (h : StatReg x) : offOf x = Off.PAGE_STAT ∨ offOf x = Off.STACK_STAT := by
  refine h.imp_right ?_
  rintro ⟨s, -, rfl⟩
  exact offOf_page_add (offOf_pg _ _) (by decide)

theorem not_statReg {a off : Nat} (ha : offOf a = 0) (hoff : off < 0x1000 ∧ off ≠ Off.PAGE_STAT ∧ off ≠ Off.STACK_STAT) :
    ¬ StatReg (a + off) := by
  obtain ⟨hlt, hpage, hstack⟩ := hoff
  intro h
  have hreg := offOf_statReg h
  rw [offOf_page_add ha hlt] at hreg
  exact hreg.elim hpage hstack

/-- The head of the hub event ring stands at the offset of STACK_STAT, on a page of its own. -/
theorem not_statReg_of_eventReg {x : Nat} (h : EventReg x) : ¬ StatReg x := by
  intro hstat
  have hoff := offOf_statReg hstat
  cases h with
  | @page a off ha hmem =>
    have hplace : ∀ y ∈ [Off.EVT_STAT, Off.ERR_CAPT0, Off.ERR_CAPT1, Off.ERR_CAPT2, Off.ERR_CAPT3],
        y < 0x1000 ∧ y ≠ Off.PAGE_STAT ∧ y ≠ Off.STACK_STAT := by decide
    exact not_statReg ha (hplace off hmem) hstat
  | ringHead =>
    have hstack : ∀ s < 8, hubPage 3 + Off.RING_HEAD ≠ stackPage s + Off.STACK_STAT := by decide
    obtain hpage | ⟨s, hs, heq⟩ := hstat
    · exact absurd hpage (by decide)
    · exact hstack s hs heq
  | ringOverwritten => exact not_statReg (a := hubPage 3) (off := Off.RING_OVERWRITTEN) (offOf_pg 0 3) (by decide) hstat
  | heqProd v => exact not_statReg (a := vfPage v) (off := Off.HEQ_PROD) (offOf_pg 4 v) (by decide) hstat
  | heqLost v => exact not_statReg (a := vfPage v) (off := Off.HEQ_LOST) (offOf_pg 4 v) (by decide) hstat

theorem eventClosed_keepsStat (p : Package) : EventClosed (KeepsStat p) where
  reg v hx h := h.trans (keepsStat_wr _ v (not_statReg_of_eventReg hx))
  msp _ h := h
  pins _ h := h
  hub _ h := h
  host _ h := h

theorem keepsStat_raise (p : Package) {a : Nat} (ha : offOf a = 0) (bit : Nat) (c : Capt) : KeepsStat p (raise p a bit c) :=
  (eventClosed_keepsStat p).keeps_raise ha (.refl p) bit c

theorem keepsStat_count (p : Package) {a off : Nat} (ha : offOf a = 0)
    (hoff : off < 0x1000 ∧ off ≠ Off.PAGE_STAT ∧ off ≠ Off.STACK_STAT) : KeepsStat p (p.count (a + off)) := by
  have hset : KeepsStat p (p.mapBase fun b => bumpSat b (a + off) 1) := keepsStat_wr p _ (not_statReg ha hoff)
  unfold Package.count count
  by_cases hfrozen : frozen p.base (pageOf (a + off)) = true
  · simp only [Package.mapBase, hfrozen, if_true]
    exact .refl p
  · simpa only [Package.mapBase, if_neg hfrozen] using hset

theorem deadAt_of_keepsStat {p q : Package} (h : KeepsStat p q) {c : Nat} (hdead : deadAt p c = true) : deadAt q c = true := by
  by_cases hc : c < dramSize
  · have hstack : StatReg (stackPage (stackOf c) + Off.STACK_STAT) := by
      refine .inr ⟨_, ?_, rfl⟩
      simp only [dramSize, stackOf, stackSize] at *
      omega
    simp only [deadAt, if_pos hc, stackDead, Bool.or_eq_true] at hdead ⊢
    exact hdead.imp (h _ 1 hstack (by decide)) (h _ 2 hstack (by decide))
  · simp only [deadAt, if_neg hc] at hdead ⊢
    exact h _ 4 (.inl (offOf_page_add (offOf_pg _ _) (by decide))) (by decide) hdead

/-! ## What an access notes of errors -/

theorem keepsStat_stackFails (p : Package) (s reason : Nat) : KeepsStat p (stackFails p s reason) :=
  (keepsStat_wrF_one p _ 1).trans <| (keepsStat_wrF_one _ _ 4).trans <| (keepsStat_wrF_one _ _ 2).trans <|
    keepsStat_raise _ (offOf_pg _ _) _ _

theorem keepsStat_dramUncorrected (p : Package) (c die : Nat) (patrol : Bool) : KeepsStat p (dramUncorrected p c die patrol) := by
  have ha : offOf (stackPage (stackOf c)) = 0 := offOf_pg _ _
  have hhigh : ¬ StatReg (stackPage (stackOf c) + Off.LAST_UE + 4) := by
    rw [Nat.add_assoc]
    exact not_statReg ha (by decide)
  have hwhere (q : Package) (v : Nat) : KeepsStat q (q.mapBase fun b => wr64 b (stackPage (stackOf c) + Off.LAST_UE) v) :=
    (keepsStat_wr q v (not_statReg ha (by decide))).trans (keepsStat_wr _ (v / 2 ^ 32) hhigh)
  have hstack (q : Package) (s : Nat) (x : Stack) : KeepsStat q (q.setStack s x) := keepsStat_of_base rfl
  have hnoted (x : Capt) (s : Nat) (y : Stack) (v : Nat) := (keepsStat_count p ha (off := Off.DRAM_UE_CNT) (by decide)).trans <|
    (hwhere _ v).trans <| (keepsStat_raise _ ha 1 x).trans (hstack _ s y)
  unfold dramUncorrected
  exact iteInduction (motive := KeepsStat p) (fun _ => (hnoted _ _ _ _).trans (keepsStat_stackFails _ _ _)) fun _ => hnoted _ _ _ _

theorem keepsStat_noteHard (die : Nat) (p : Package) (c : Nat) :
    KeepsStat p (if c < dramSize then dramUncorrected p c die false else sramUncorrected p c) :=
  iteInduction (fun _ => keepsStat_dramUncorrected p c die false) fun _ =>
    (keepsStat_count p (a := tilePage (tileOf c) 0) (off := Off.SRAM_UE_CNT) (offOf_pg _ _) (by decide)).trans
      (keepsStat_raise _ (offOf_pg _ _) _ _)

theorem keepsStat_noteSoft (p : Package) (c : Nat) : KeepsStat p (if c < dramSize then dramCorrected p c else sramCorrected p c) :=
  iteInduction
    (fun _ => (keepsStat_count p (a := stackPage (stackOf c)) (off := Off.DRAM_CE_CNT) (offOf_pg _ _) (by decide)).trans
      (keepsStat_raise _ (offOf_pg _ _) _ _))
    fun _ => (keepsStat_count p (a := tilePage (tileOf c) 0) (off := Off.SRAM_CE_CNT) (offOf_pg _ _) (by decide)).trans
      (keepsStat_raise _ (offOf_pg _ _) _ _)

theorem keepsStat_noteBad (p : Package) (cs : List Nat) (die : Nat) : KeepsStat p (noteBad p cs die) :=
  foldl_keeps (KeepsStat p) _ (fun q c hq => hq.trans (keepsStat_noteHard die q c)) _ _ <|
    foldl_keeps (KeepsStat p) _ (fun q c hq => hq.trans (keepsStat_noteSoft q c)) _ _ (.refl p)

/-- A unit that was hollow or offline before an access is so afterwards. -/
theorem deadAt_readMem {p : Package} (die off len : Nat) {c : Nat} (hdead : deadAt p c = true) : deadAt (readMem p die off len).1 c = true :=
  deadAt_of_keepsStat (keepsStat_noteBad p _ die) hdead

/-- An access of unscrubbed granules alone meets no error (R282). -/
theorem noteBad_of_unscrubbed {p : Package} {cs : List Nat} (h : ∀ c ∈ cs, unscrubbed p c = true) (die : Nat) : noteBad p cs die = p := by
  have hlive : ∀ c ∈ cs.filter fun c => !deadAt p c, unscrubbed p c = true := fun c hc => h c (List.mem_filter.mp hc).1
  have hsoft : (cs.filter fun c => !deadAt p c).filter (softAt p) = [] :=
    List.filter_eq_nil_iff.mpr fun c hc => by simp [softAt, hlive c hc]
  have hhard : (cs.filter fun c => !deadAt p c).filter (badAt p) = [] :=
    List.filter_eq_nil_iff.mpr fun c hc => by simp [badAt, hlive c hc]
  simp only [noteBad, hsoft, hhard]
  rfl

/-! ## The bytes of a read -/

theorem nth_readMem (p : Package) (die off : Nat) {len i : Nat} (hi : i < len) : nth none (readMem p die off len).2.2 i =
    if deadAt (readMem p die off len).1 (canon p (off + i)) then none else byteRead p (canon p (off + i)) := by
  simp only [readMem, canonRange, nth, List.map_map, List.getElem?_map, List.getElem?_range hi, Option.map_some, Option.getD_some]
  rfl

/-- A byte of an unscrubbed granule on a unit that is not hollow reads as zero. -/
theorem byteRead_of_unscrubbed {p : Package} {c : Nat} (hclean : unscrubbed p c = true) (halive : deadAt p c = false) :
    byteRead p c = some 0 := by
  simp [byteRead, byteValue, badAt, hclean, halive]

/-- Settles O29: a read keeps every unit hollow that was so, and so a unit that is not hollow afterwards was not before; and it meets
no error in an unscrubbed granule. -/
theorem unscrubbedReads : Obligations.UnscrubbedReads := by
  unfold Obligations.UnscrubbedReads
  intro p die off len q
  refine ⟨fun i hi hclean halive => ?_, fun i hi hdead => ⟨?_, ?_⟩, fun hall => ?_⟩
  · have hbefore : deadAt p (canon p (off + i)) = false := by
      by_contra h
      rw [Bool.not_eq_false] at h
      exact Bool.false_ne_true (halive.symm.trans (deadAt_readMem die off len h))
    rw [nth_readMem p die off hi, if_neg (Bool.eq_false_iff.mp halive), byteRead_of_unscrubbed hclean hbefore]
  · have hany : (canonRange p off len).any (deadAt (noteBad p (canonRange p off len) die)) = true :=
      List.any_eq_true.mpr ⟨_, List.mem_map_of_mem (List.mem_range.mpr hi), hdead⟩
    simp [readMem, hany, St.hollowUnit]
  · rw [nth_readMem p die off hi, if_pos hdead]
  · have hnoted : noteBad p (canonRange p off len) die = p := noteBad_of_unscrubbed (fun c hc => (hall c hc).1) die
    have hdead : (canonRange p off len).any (deadAt p) = false := List.any_eq_false.mpr fun c hc => by simp [(hall c hc).2]
    have hbad : (canonRange p off len).any (badAt p) = false := List.any_eq_false.mpr fun c hc => by simp [badAt, (hall c hc).1]
    have hbytes : ((canonRange p off len).map fun c => if deadAt p c then none else byteRead p c) = List.replicate len (some 0) := by
      refine List.eq_replicate_iff.mpr ⟨by simp [canonRange], fun b hb => ?_⟩
      obtain ⟨c, hc, rfl⟩ := List.mem_map.mp hb
      obtain ⟨hclean, halive⟩ := hall c hc
      rw [if_neg (Bool.eq_false_iff.mp halive), byteRead_of_unscrubbed hclean halive]
    simp only [readMem, hnoted, hdead, hbad, hbytes]
    rfl

end Sys2Proof.Machine
end

section
/-! PROOFS. Span strikes: what a message, an answer and the resends do at the package that takes them (R276–R278). -/

namespace Sys2Proof.Machine

/-! ## Messages and answers (R276) -/

theorem spanMessageIn_of_new {p : Package} {rack slot pitch : Nat}
    (hnew : (p.hub.strikes.any fun x => decide (x.answerTo = some (rack, slot) ∧ x.pitch = pitch)) = false) :
    spanMessageIn p rack slot pitch =
      if (mfind pitch p.hub.hosted).isNone then mgmtIssue p (rack * 64 + slot) (mgmtOp pitch false 3 0 (le 4 pitch))
      else beginStrike p { newStrike p 0 3 3 pitch 0 3 with answerTo := some (rack, slot) } := by
  rw [spanMessageIn, hnew]
  rfl

/-- A span strike that a peer has answered. -/
def Strike.answered (x : Strike) (e : Nat × Nat) : Strike := { x with peers := x.peers.filter fun f => decide (f ≠ e) }

section
variable {p : Package} {x : Strike} {rack slot pitch : Nat} (hone : spanStrikes p pitch = [x])
include hone

theorem spanStrikeOf_of_one (hearly : x.late = false) : spanStrikeOf p pitch = some x := by
  simp [spanStrikeOf, hone, hearly]

theorem spanAnswerIn_of_one : spanAnswerIn p rack slot pitch = spanAnswerTo p x rack slot := by
  rw [spanAnswerIn, hone]
  rfl

theorem spanStrikeTimeout_of_one (hearly : x.late = false) (hreleased : x.released = true) (hpeers : x.peers ≠ [])
    (hown : x.step ≠ Strike.joining) :
    spanStrikeTimeout p pitch = completeStrike (setStrike p { x with late := true }) x 2 true := by
  have hwaits : [x].filter (fun y => y.released && !y.late && !y.peers.isEmpty) = [x] := by simp [hearly, hreleased, hpeers]
  rw [spanStrikeTimeout, hone, hwaits, List.foldl_cons, List.foldl_nil, if_neg hown]

theorem latePeerResend_of_one (hlate : x.late = true) : latePeerResend p pitch = lateResend p x := by
  rw [latePeerResend, hone, List.filter_cons_of_pos hlate, List.filter_nil, List.foldl_cons, List.foldl_nil]

end

section
variable {x : Strike} {rack slot : Nat} (hpeer : (rack, slot) ∈ x.peers)
include hpeer

theorem spanAnswerTo_of_early (p : Package) (hearly : x.late = false) : spanAnswerTo p x rack slot =
    if (x.answered (rack, slot)).peers.isEmpty ∧ x.released then
      completeStrike (dropStrike p x.sid) (x.answered (rack, slot)) (if x.abandoned then 2 else 1) x.abandoned
    else setStrike p (x.answered (rack, slot)) := by
  rw [spanAnswerTo, List.contains_iff_mem.mpr hpeer, if_neg (by decide), if_neg (Bool.eq_false_iff.mp hearly)]
  rfl

theorem spanAnswerTo_of_late (p : Package) (hlate : x.late = true) : spanAnswerTo p x rack slot =
    if (x.answered (rack, slot)).peers.isEmpty then dropStrike (latePeer p (x.answered (rack, slot)) (rack, slot)) x.sid
    else setStrike (latePeer p (x.answered (rack, slot)) (rack, slot)) (x.answered (rack, slot)) := by
  rw [spanAnswerTo, List.contains_iff_mem.mpr hpeer, if_neg (by decide), if_pos hlate]
  rfl

end

/-! ## Late peers (R277) -/

theorem lateResend_before {p : Package} {x : Strike} (h : p.base.gtime < x.t0 + 1002000000) :
    lateResend p x = sendStrikeMessages p x := if_neg (Nat.not_le_of_lt h)

theorem lateResend_after {p : Package} {x : Strike} (h : x.t0 + 1002000000 ≤ p.base.gtime) :
    lateResend p x = x.peers.foldl (fun q e => latePeer q x e) (dropStrike p x.sid) := if_pos h

/-! ## The commands -/

theorem exec_spanStrikeMessage {s : State} {p rack slot pitch : Nat} (hnone : spanPacketIn (pkgOf s p) 2 rack slot pitch = none) :
    exec (.spanStrikeMessage p rack slot pitch) s =
      .next { setPkg s p (spanMessageIn (pkgOf s p) rack slot pitch) with free := s.free + 1 } := by
  have hin (free : Nat) : spanIn 2 rack slot pitch free (pkgOf s p) = spanMessageIn (pkgOf s p) rack slot pitch := by
    rw [spanIn, hnone]
    rfl
  rw [← hin s.free]
  rfl

theorem exec_spanStrikeAnswer {s : State} {p rack slot pitch : Nat} (hnone : spanPacketIn (pkgOf s p) 3 rack slot pitch = none) :
    exec (.spanStrikeAnswer p rack slot pitch) s =
      .next { setPkg s p (spanAnswerIn (pkgOf s p) rack slot pitch) with free := s.free + 1 } := by
  have hin (free : Nat) : spanIn 3 rack slot pitch free (pkgOf s p) = spanAnswerIn (pkgOf s p) rack slot pitch := by
    rw [spanIn, hnone]
    rfl
  rw [← hin s.free]
  rfl

theorem exec_spanStrikeResend {s : State} {p pitch : Nat} {x : Strike} (hx : spanStrikeOf (pkgOf s p) pitch = some x) :
    exec (.spanStrikeResend p pitch) s =
      .next (setPkg s p { sendStrikeMessages (pkgOf s p) x with mem := (pkgOf s p).mem }) := by
  have hexec : exec (.spanStrikeResend p pitch) s = execSpanStrikeResend p pitch s := rfl
  rw [hexec, execSpanStrikeResend, onPkg, hx]

theorem exec_spanStrikeTimeout (s : State) (p pitch : Nat) : exec (.spanStrikeTimeout p pitch) s =
    .next (setPkg s p { spanStrikeTimeout (pkgOf s p) pitch with mem := (pkgOf s p).mem }) := rfl

theorem exec_latePeerResend (s : State) (p pitch : Nat) : exec (.latePeerResend p pitch) s =
    .next (setPkg s p { latePeerResend (pkgOf s p) pitch with mem := (pkgOf s p).mem }) := rfl

end Sys2Proof.Machine

namespace Sys2Proof

open Machine

/-- Settles O12: with one span strike of the pitch in the list each command is its one case of the answer, the resend or the
timeout. -/
theorem spanStrikes : Obligations.SpanStrikes := by
  unfold Obligations.SpanStrikes
  refine ⟨fun s p rack slot pitch hnone hnew => ?_, fun s p rack slot pitch x hnone hone hpeer => ⟨fun hearly => ?_, fun hlate => ?_⟩,
    fun s p pitch x hone => ⟨fun hearly => ?_, fun hearly hreleased hpeers hown => ?_, fun hlate hbefore => ?_, fun hlate hafter => ?_⟩,
    fun s p g => rfl⟩
  · rw [exec_spanStrikeMessage hnone, spanMessageIn_of_new hnew]
  · rw [exec_spanStrikeAnswer hnone, spanAnswerIn_of_one hone, spanAnswerTo_of_early hpeer _ hearly]
    rfl
  · rw [exec_spanStrikeAnswer hnone, spanAnswerIn_of_one hone, spanAnswerTo_of_late hpeer _ hlate]
    rfl
  · exact exec_spanStrikeResend (spanStrikeOf_of_one hone hearly)
  · rw [exec_spanStrikeTimeout, spanStrikeTimeout_of_one hone hearly hreleased hpeers hown]
  · rw [exec_latePeerResend, latePeerResend_of_one hone hlate, lateResend_before hbefore]
    rfl
  · rw [exec_latePeerResend, latePeerResend_of_one hone hlate, lateResend_after hafter]

end Sys2Proof
end

section
/-! PROOFS. Pitch commands: how the hub judges one that it takes, and what each does and answers (R262–R266, R279, R280, R286, R315). -/

namespace Sys2Proof.Machine

/-! ## How the hub judges a command (R264, R265, R279, R315) -/

/-- The tiles, and the virtual functions, that a command of CMD `op` names. -/
def namedTiles (op : Nat) (cmd : Bytes) : List Nat := if op = 0x10 ∨ op = 0x11 then cmdTiles cmd else []
def namedVfs (op : Nat) (cmd : Bytes) : List Nat := if op = 0x10 then [byteAt cmd 10] else []

/-- What the hub answers to a command that it takes: refused for its fields, for bring-up, for a failed package, for a strike, or as the
command itself judges. -/
def judged (y : Package) (cmd : Bytes) (op : Nat) (f : Package → Bytes → Answered) : Answered :=
  if badCommand cmd then (y, 0x01, [])
  else if op ≠ 0x15 ∧ !broughtUp y then (y, 0x08, [])
  else if packageFailed y ∧ (op = 0x10 ∨ op = 0x11 ∨ op = 0x12) then (y, 0x05, [])
  else if pitchStriking y (cmdPitch cmd) || unitStriking y (namedTiles op cmd) (namedVfs op cmd) then (y, 0x08, [])
  else f y cmd

theorem runCommand_of_judged {p y q : Package} {via : Via} {cmd : Bytes} {op st : Nat} {f : Package → Bytes → Answered} {data : Bytes}
    (hop : byteAt cmd 0 = op) (htake : takeCommand p via cmd = .ok y) (h : judged y cmd op f = (q, st, data)) :
    runCommand p via cmd op f = pitchReply q via cmd st data := by
  have hreply : runCommand p via cmd op f =
      pitchReply (judged y cmd op f).1 via cmd (judged y cmd op f).2.1 (judged y cmd op f).2.2 := by
    rw [runCommand, if_neg (not_not_intro hop), htake]
    rfl
  rw [hreply, h]

/-- A command whose executor is `runCommand` answers as it is judged. -/
theorem exec_of_judged {i : Instr} {s : State} {k op st : Nat} {y q : Package} {via : Via} {cmd : Bytes} {f : Package → Bytes → Answered}
    {data : Bytes} (hexec : exec i s = onPkg k (fun x => runCommand x via cmd op f) s) (hop : byteAt cmd 0 = op)
    (htake : takeCommand (pkgOf s k) via cmd = .ok y) (h : judged y cmd op f = (q, st, data)) :
    exec i s = .next (setPkg s k { pitchReply q via cmd st data with mem := (pkgOf s k).mem }) := by
  rw [hexec, onPkg, runCommand_of_judged hop htake h]

section
variable {y : Package} {cmd : Bytes} {op : Nat} {f : Package → Bytes → Answered} (hbad : badCommand cmd = false)
include hbad

theorem judged_of_fit (hup : op = 0x15 ∨ broughtUp y = true) (hfailed : op ≤ 0x12 → packageFailed y = false)
    (hpitch : pitchStriking y (cmdPitch cmd) = false) (hunits : unitStriking y (namedTiles op cmd) (namedVfs op cmd) = false) :
    judged y cmd op f = f y cmd := by
  have hbegun : ¬ (op ≠ 0x15 ∧ (!broughtUp y) = true) := by
    rintro ⟨hne, hdown⟩
    simp [hup.resolve_left hne] at hdown
  have hwell : ¬ (packageFailed y = true ∧ (op = 0x10 ∨ op = 0x11 ∨ op = 0x12)) := by
    rintro ⟨hfail, hlow⟩
    exact Bool.false_ne_true ((hfailed (by omega)).symm.trans hfail)
  rw [judged, if_neg (Bool.eq_false_iff.mp hbad), if_neg hbegun, if_neg hwell, hpitch, hunits]
  rfl

theorem judged_of_down (hop : op ≠ 0x15) (hdown : broughtUp y = false) : judged y cmd op f = (y, 0x08, []) := by
  rw [judged, if_neg (Bool.eq_false_iff.mp hbad), if_pos ⟨hop, by simp [hdown]⟩]

end

/-- Where a command names no unit, none that it names is in a strike. -/
theorem unitStriking_of_none (y : Package) (cmd : Bytes) {op : Nat} (hop : 0x12 ≤ op) :
    unitStriking y (namedTiles op cmd) (namedVfs op cmd) = false := by
  rw [namedTiles, namedVfs, if_neg (by omega), if_neg (by omega)]
  rfl

/-! ## The commands -/

section
variable {y : Package} {cmd : Bytes}

theorem tileStatus_eq_zero {t : Nat} (h : t < y.tiles ∧ hollowPage y.base (tilePage t 0) = false ∧ ownerOf y.base (tilePage t 0) = 0) :
    tileStatus y t = 0 := by
  obtain ⟨hthere, hsound, hfree⟩ := h
  simp [tileStatus, Nat.not_le_of_lt hthere, hsound, hfree]

theorem firstBad_eq_zero {l : List Nat} (h : ∀ st ∈ l, st = 0) : firstBad l = 0 := by
  have hnone : l.find? (· ≠ 0) = none := List.find?_eq_none.mpr fun st hst => by simp [h st hst]
  rw [firstBad, hnone]
  rfl

/-- What PITCH_CREATE leaves of the tiles it is given: assigned with the function's page, a spare engine substituted in each. -/
def createdOn (y : Package) (cmd : Bytes) (given : List Nat) : Package :=
  let u := assignPage (cmdPitch cmd) (given.foldl (assignTile (cmdPitch cmd)) y) (vfPage (byteAt cmd 10))
  let w := if bitOf (byteAt cmd 1) 0 then given.foldl substituteEngine u else u
  { w with hub := { w.hub with hosted := mset w.hub.hosted (cmdPitch cmd) (byteAt cmd 10) } }

theorem pitchCreate_of_free (hnew : hostedHere y (cmdPitch cmd) = false) (hover : mget 0 y.hub.quarantine (cmdPitch cmd) ≤ y.base.gtime)
    (hroom : y.hub.hosted.length < 16) (howner : ownerOf y.base (vfPage (byteAt cmd 10)) = 0)
    (hfree : ∀ e ∈ y.hub.hosted, e.2 ≠ byteAt cmd 10) {given : List Nat}
    (hgiven : chooseTiles y (bitOf (byteAt cmd 1) 0) (cmdTiles cmd) (cmdTiles cmd) [] = .ok given) :
    pitchCreate y cmd = (createdOn y cmd given, 0, le 2 (ofBits given)) := by
  have htaken : ¬ (ownerOf y.base (vfPage (byteAt cmd 10)) ≠ 0 ∨ y.hub.hosted.any (fun e => e.2 = byteAt cmd 10) = true) := by
    rintro (h | h)
    · exact h howner
    · obtain ⟨e, he, hv⟩ := List.any_eq_true.mp h
      exact hfree e he (of_decide_eq_true hv)
  rw [pitchCreate, if_neg (Bool.eq_false_iff.mp hnew), if_neg (Nat.not_lt_of_le hover), if_neg (Nat.not_le_of_lt hroom), if_neg htaken,
    hgiven]
  rfl

theorem pitchCreate_of_hosted (h : hostedHere y (cmdPitch cmd) = true) : pitchCreate y cmd = (y, 0x02, []) := if_pos h

theorem pitchCreate_of_quarantine (hnew : hostedHere y (cmdPitch cmd) = false)
    (hover : y.base.gtime < mget 0 y.hub.quarantine (cmdPitch cmd)) : pitchCreate y cmd = (y, 0x09, []) := by
  rw [pitchCreate, if_neg (Bool.eq_false_iff.mp hnew), if_pos hover]

theorem addTiles_of_free (hhosted : hostedHere y (cmdPitch cmd) = true) (hfree : ∀ t ∈ cmdTiles cmd,
      t < y.tiles ∧ hollowPage y.base (tilePage t 0) = false ∧ ownerOf y.base (tilePage t 0) = 0) :
    addTiles y cmd = ((cmdTiles cmd).foldl (assignTile (cmdPitch cmd)) y, 0, le 2 (ofBits (cmdTiles cmd))) := by
  have hgood : firstBad ((cmdTiles cmd).map (tileStatus y)) = 0 := firstBad_eq_zero fun st hst => by
    obtain ⟨t, ht, rfl⟩ := List.mem_map.mp hst
    exact tileStatus_eq_zero (hfree t ht)
  rw [addTiles, hhosted, if_neg (by decide), hgood, if_neg (not_not_intro rfl)]

/-- The fence entry of pitch `q` for a rack, widened by `slots`; another entry as it is (R266). -/
def widened (q rack slots : Nat) (f : Fence) : Fence := if f.pitch = q ∧ f.rack = rack then { f with slots := f.slots ||| slots } else f

/-- A range that ADD_DRAM takes: whole granules of the stacks that are not dead, apart from every other range (R265). -/
structure FreeRange (y : Package) (start len : Nat) : Prop where
  startWhole : start % 0x200000 = 0
  lenWhole : len % 0x200000 = 0
  nonempty : len ≠ 0
  below : start + len ≤ 0x4800000000
  alive : ∀ u < 8, stackDead y u = false ∨ overlap start len (u * stackSize) stackSize = false
  apart : ∀ r ∈ y.hub.ranges, overlap start len r.start r.len = false

theorem addDram_of_free (hhosted : hostedHere y (cmdPitch cmd) = true) (hfree : FreeRange y (fieldAt cmd 8 8) (fieldAt cmd 16 8))
    (hroom : y.hub.ranges.length < 256) : addDram y cmd = ({ y with hub := { y.hub with
      ranges := y.hub.ranges ++ [{ pitch := cmdPitch cmd, start := fieldAt cmd 8 8, len := fieldAt cmd 16 8 }] } }, 0, []) := by
  have hwhole : ¬ (fieldAt cmd 8 8 % 0x200000 ≠ 0 ∨ fieldAt cmd 16 8 % 0x200000 ≠ 0 ∨ fieldAt cmd 16 8 = 0 ∨
      0x4800000000 < fieldAt cmd 8 8 + fieldAt cmd 16 8) := by
    simp [hfree.startWhole, hfree.lenWhole, hfree.nonempty, hfree.below]
  have halive : ¬ ((List.range 8).any fun u =>
      stackDead y u && overlap (fieldAt cmd 8 8) (fieldAt cmd 16 8) (u * stackSize) stackSize) = true := by
    rw [List.any_eq_true]
    rintro ⟨u, hu, hdead⟩
    obtain ⟨hstack, hover⟩ := Bool.and_eq_true_iff.mp hdead
    rcases hfree.alive u (List.mem_range.mp hu) with h | h
    · exact Bool.false_ne_true (h.symm.trans hstack)
    · exact Bool.false_ne_true (h.symm.trans hover)
  have hapart : ¬ (y.hub.ranges.any fun r => overlap (fieldAt cmd 8 8) (fieldAt cmd 16 8) r.start r.len) = true := by
    simpa using hfree.apart
  rw [addDram, hhosted, if_neg (by decide), if_neg hwhole, if_neg halive, if_neg hapart, if_neg (Nat.not_le_of_lt hroom)]

theorem addDram_of_part (hhosted : hostedHere y (cmdPitch cmd) = true)
    (hpart : fieldAt cmd 8 8 % 0x200000 ≠ 0 ∨ fieldAt cmd 16 8 % 0x200000 ≠ 0 ∨ fieldAt cmd 16 8 = 0) :
    addDram y cmd = (y, 0x07, []) := by
  have hfault : fieldAt cmd 8 8 % 0x200000 ≠ 0 ∨ fieldAt cmd 16 8 % 0x200000 ≠ 0 ∨ fieldAt cmd 16 8 = 0 ∨
      0x4800000000 < fieldAt cmd 8 8 + fieldAt cmd 16 8 := hpart.imp_right (Or.imp_right .inl)
  rw [addDram, hhosted, if_neg (by decide), if_pos hfault]

theorem addFence_of_new (hhosted : hostedHere y (cmdPitch cmd) = true)
    (hnew : ∀ f ∈ y.hub.fences, ¬ (f.pitch = cmdPitch cmd ∧ f.rack = byteAt cmd 8)) (hroom : y.hub.fences.length < 64) :
    addFence y cmd = ({ y with hub := { y.hub with fences := y.hub.fences ++
      [{ absorb := false, pitch := cmdPitch cmd, rack := byteAt cmd 8, slots := fieldAt cmd 16 8 }] } }, 0, []) := by
  have hnone : ¬ (y.hub.fences.any fun f => decide (f.pitch = cmdPitch cmd ∧ f.rack = byteAt cmd 8)) = true := by
    simpa using hnew
  rw [addFence, hhosted, if_neg (by decide), if_neg hnone, if_neg (Nat.not_le_of_lt hroom)]

theorem addFence_of_own (hhosted : hostedHere y (cmdPitch cmd) = true)
    (hown : ∃ f ∈ y.hub.fences, f.pitch = cmdPitch cmd ∧ f.rack = byteAt cmd 8) :
    addFence y cmd = ({ y with hub := { y.hub with
      fences := y.hub.fences.map (widened (cmdPitch cmd) (byteAt cmd 8) (fieldAt cmd 16 8)) } }, 0, []) := by
  have hsome : (y.hub.fences.any fun f => decide (f.pitch = cmdPitch cmd ∧ f.rack = byteAt cmd 8)) = true := by
    simpa using hown
  have hwiden : y.hub.fences.map (widened (cmdPitch cmd) (byteAt cmd 8) (fieldAt cmd 16 8)) = y.hub.fences.map fun f =>
      (if decide (f.pitch = cmdPitch cmd ∧ f.rack = byteAt cmd 8) then { f with slots := f.slots ||| fieldAt cmd 16 8 } else f) := by
    simp only [decide_eq_true_eq]
    rfl
  rw [addFence, hhosted, if_neg (by decide), if_pos hsome, hwiden]

theorem addFence_of_unhosted (h : hostedHere y (cmdPitch cmd) = false) : addFence y cmd = (y, 0x03, []) := by
  rw [addFence, h]
  rfl

end

theorem strikeCommand_of_fit {p y : Package} {via : Via} {cmd : Bytes} (hop : byteAt cmd 0 = 0x14)
    (htake : takeCommand p via cmd = .ok y) (hbad : badCommand cmd = false) (hpitch : pitchStriking y (cmdPitch cmd) = false)
    (hup : broughtUp y = true) (hhosted : byteAt cmd 8 = 5 ∨ hostedHere y (cmdPitch cmd) = true) :
    strikeCommand p via cmd = beginStrike y
      { newStrike y (if via = .mailbox then pfPage else hubPage 0) (byteAt cmd 8) (byteAt cmd 8)
          (if byteAt cmd 8 = 5 then 0 else cmdPitch cmd) 0 (if via = .mailbox then 0 else 1) with replyTo := some (via, cmd) } := by
  have hbegun : ¬ ((!broughtUp y) = true ∨ pitchStriking y (cmdPitch cmd) = true) := by simp [hup, hpitch]
  have hthere : ¬ (byteAt cmd 8 ≠ 5 ∧ (!hostedHere y (cmdPitch cmd)) = true) := by
    rintro ⟨hne, hnot⟩
    simp [hhosted.resolve_left hne] at hnot
  unfold strikeCommand
  rw [if_neg (not_not_intro hop), htake]
  cases via <;> simp only [hbad, if_neg hbegun, if_neg hthere] <;> rfl

/-- A command that finds a STRIKE command running stays at the front of the inbox. -/
theorem takeMsp_of_running {p : Package} {cmd : Bytes} (hrun : commandRuns p = true)
    (hfront : p.base.msp.inbox.take (mspMessage 0x83 cmd).length = mspMessage 0x83 cmd) (hsome : p.base.msp.inbox ≠ []) :
    takeMsp p cmd = .error p := by
  have hinbox : (if p.base.msp.inbox.isEmpty then mspMessage 0x83 cmd else p.base.msp.inbox) = p.base.msp.inbox :=
    if_neg (by simpa using hsome)
  rw [takeMsp]
  simp only [hinbox, if_neg (not_not_intro hfront), hrun, true_or, if_true]
  rfl

theorem queryPitch_reads (y : Package) (cmd : Bytes) : queryPitch y cmd = (y, 0, (queryPitch y cmd).2.2) := rfl

theorem exec_pitchBadCommand_of_bad {s : State} {p : Nat} {via : Via} {cmd : Bytes} {y : Package}
    (htake : takeCommand (pkgOf s p) via cmd = .ok y) (hbad : badCommand cmd = true) :
    exec (.pitchBadCommand p via cmd) s = .next (setPkg s p { pitchReply y via cmd 0x01 [] with mem := (pkgOf s p).mem }) := by
  have hexec : exec (.pitchBadCommand p via cmd) s = execPitchBadCommand p via cmd s := rfl
  rw [hexec, execPitchBadCommand, onPkg, hbad]
  simp only [htake]
  rfl

theorem exec_query_of_running {s : State} {p : Nat} {cmd : Bytes} (hop : byteAt cmd 0 = 0x15) (hrun : commandRuns (pkgOf s p) = true)
    (hfront : (pkgOf s p).base.msp.inbox.take (mspMessage 0x83 cmd).length = mspMessage 0x83 cmd)
    (hsome : (pkgOf s p).base.msp.inbox ≠ []) : exec (.query p .msp cmd) s = .next (setPkg s p (pkgOf s p)) := by
  have hwait : runCommand (pkgOf s p) .msp cmd 0x15 queryPitch = pkgOf s p := by
    rw [runCommand, if_neg (not_not_intro hop), takeCommand, takeMsp_of_running hrun hfront hsome]
  have hexec : exec (.query p .msp cmd) s = onPkg p (fun x => runCommand x .msp cmd 0x15 queryPitch) s := rfl
  rw [hexec, onPkg, hwait]

/-- Settles O13: a command that the hub takes is judged by the checks that all share, and answers as it judges itself. -/
theorem pitchCommands : Obligations.PitchCommands := by
  unfold Obligations.PitchCommands
  refine ⟨fun s p via cmd y htake hbad hpitch => ⟨?_, ?_, ?_, ?_, ?_, ?_⟩,
    fun s p via cmd y htake => ⟨?_, fun hbad hdown => ⟨?_, ?_, ?_, ?_⟩, fun hbad hup hfailed hpitch => ⟨?_, ?_, ?_, ?_⟩⟩, ?_⟩
  · intro hop hup hfailed hunits hnew hover hroom howner hfree given hgiven
    have hfit := judged_of_fit (op := 0x10) (f := pitchCreate) hbad (.inr hup) (fun _ => hfailed) hpitch hunits
    exact exec_of_judged rfl hop htake (hfit.trans (pitchCreate_of_free hnew hover hroom howner hfree hgiven))
  · intro hop hup hfailed hunits hhosted hfree
    have hfit := judged_of_fit (op := 0x11) (f := addTiles) hbad (.inr hup) (fun _ => hfailed) hpitch hunits
    exact exec_of_judged rfl hop htake (hfit.trans (addTiles_of_free hhosted hfree))
  · intro hop hup hfailed hhosted hstart hlen hnonempty hbelow halive hapart hroom
    have hfit := judged_of_fit (f := addDram) hbad (.inr hup) (fun _ => hfailed) hpitch
      (unitStriking_of_none y cmd (op := 0x12) (by decide))
    exact exec_of_judged rfl hop htake
      (hfit.trans (addDram_of_free hhosted ⟨hstart, hlen, hnonempty, hbelow, halive, hapart⟩ hroom))
  · intro hop hup hhosted mine
    have hfit := judged_of_fit (f := addFence) hbad (.inr hup) (fun h => absurd h (by decide)) hpitch
      (unitStriking_of_none y cmd (op := 0x13) (by decide))
    exact ⟨fun hnew hroom => exec_of_judged rfl hop htake (hfit.trans (addFence_of_new hhosted hnew hroom)),
      fun hown => exec_of_judged rfl hop htake (hfit.trans (addFence_of_own hhosted hown))⟩
  · intro hop hup hhosted
    exact congrArg (fun q => Host.Outcome.next (setPkg s p q)) (strikeCommand_of_fit hop htake hbad hpitch hup hhosted)
  · intro hop
    have hfit := judged_of_fit (f := queryPitch) hbad (.inl rfl) (fun h => absurd h (by decide)) hpitch
      (unitStriking_of_none y cmd (op := 0x15) (by decide))
    exact exec_of_judged rfl hop htake (hfit.trans (queryPitch_reads y cmd))
  · exact exec_pitchBadCommand_of_bad htake
  · exact fun hop => exec_of_judged rfl hop htake (judged_of_down hbad (by decide) hdown)
  · exact fun hop => exec_of_judged rfl hop htake (judged_of_down hbad (by decide) hdown)
  · exact fun hop => exec_of_judged rfl hop htake (judged_of_down hbad (by decide) hdown)
  · exact fun hop => exec_of_judged rfl hop htake (judged_of_down hbad (by decide) hdown)
  · intro hop hunits hhosted
    have hfit := judged_of_fit (op := 0x10) (f := pitchCreate) hbad (.inr hup) (fun _ => hfailed) hpitch hunits
    exact exec_of_judged rfl hop htake (hfit.trans (pitchCreate_of_hosted hhosted))
  · intro hop hunits hnew hover
    have hfit := judged_of_fit (op := 0x10) (f := pitchCreate) hbad (.inr hup) (fun _ => hfailed) hpitch hunits
    exact exec_of_judged rfl hop htake (hfit.trans (pitchCreate_of_quarantine hnew hover))
  · intro hop hhosted hpart
    have hfit := judged_of_fit (f := addDram) hbad (.inr hup) (fun _ => hfailed) hpitch
      (unitStriking_of_none y cmd (op := 0x12) (by decide))
    exact exec_of_judged rfl hop htake (hfit.trans (addDram_of_part hhosted hpart))
  · intro hop hnot
    have hfit := judged_of_fit (f := addFence) hbad (.inr hup) (fun h => absurd h (by decide)) hpitch
      (unitStriking_of_none y cmd (op := 0x13) (by decide))
    exact exec_of_judged rfl hop htake (hfit.trans (addFence_of_unhosted hnot))
  · exact fun s p cmd => exec_query_of_running

end Sys2Proof.Machine
end

section
/-! PROOFS. The power-on source: what a condition that rises does while the source is asserted and while it is not, and what its
release starts (R290, R291, R296, R297, R301, R322, R347, R367). -/

namespace Sys2Proof.Machine

/-! ## A condition changes (R290) -/

/-- A condition that holds, of a source that is not asserted or that an own reset asserts again, is an accepted reset of reach 3. -/
theorem powerPkg_of_rise {f : PowerIn → PowerIn} {again : Bool} {p : Package} (hheld : powerCodes (f p.base.pwr) ≠ [])
    (hnew : p.base.pwr.asserted = false ∨ again = true) : powerPkg f again p = applyReset 3
      { p with base := emberRecord { p.base with pwr := { f p.base.pwr with asserted := true } } (powerCause (f p.base.pwr)) 3 } := by
  have hsome : ¬ (powerCodes (f p.base.pwr)).isEmpty = true := by simpa using hheld
  have hfresh : ¬ (p.base.pwr.asserted && !again) = true := by rcases hnew with h | h <;> simp [h]
  rw [powerPkg, if_neg hsome, if_neg hfresh]
  rfl

theorem powerWeir_of_rise {f : PowerIn → PowerIn} {again : Bool} {w : Weir} (hheld : powerCodes (f w.base.pwr) ≠ [])
    (hnew : w.base.pwr.asserted = false ∨ again = true) : powerWeir f again w = applyWeirReset
      { w with base := emberRecord { w.base with pwr := { f w.base.pwr with asserted := true } } (powerCause (f w.base.pwr)) 3 } := by
  have hsome : ¬ (powerCodes (f w.base.pwr)).isEmpty = true := by simpa using hheld
  have hfresh : ¬ (w.base.pwr.asserted && !again) = true := by rcases hnew with h | h <;> simp [h]
  rw [powerWeir, if_neg hsome, if_neg hfresh]

/-- Where the source is asserted already, a condition that rises only holds it longer. -/
theorem powerPkg_of_asserted {f : PowerIn → PowerIn} {p : Package} (hheld : powerCodes (f p.base.pwr) ≠ [])
    (hwas : p.base.pwr.asserted = true) (hkeep : (f p.base.pwr).asserted = p.base.pwr.asserted) :
    powerPkg f false p = { p with base := { p.base with pwr := f p.base.pwr } } := by
  have hsome : ¬ (powerCodes (f p.base.pwr)).isEmpty = true := by simpa using hheld
  have hsame : { f p.base.pwr with asserted := true } = f p.base.pwr := by rw [← hwas, ← hkeep]
  rw [powerPkg, if_neg hsome, hsame, hwas]
  rfl

theorem powerCodes_of_undervoltage {x : PowerIn} (h : x.undervoltage = true) : powerCodes x ≠ [] := by simp [powerCodes, h]
theorem powerCodes_of_porst {x : PowerIn} (h : x.porst = true) : powerCodes x ≠ [] := by simp [powerCodes, h]
theorem powerCodes_of_rail {x : PowerIn} (h : x.rail = true) : powerCodes x ≠ [] := by simp [powerCodes, h]
theorem powerCodes_of_overvoltage {x : PowerIn} (h : x.overvoltage = true) : powerCodes x ≠ [] := by simp [powerCodes, h]
theorem powerCodes_of_trip {x : PowerIn} (h : x.trip = true) : powerCodes x ≠ [] := by simp [powerCodes, h]

theorem porstPkg_of_high {p : Package} (h : p.base.pwr.porst = false) :
    porstPkg p = powerPkg porstIn true (p.mapBase fun b => { b with pins := { b.pins with thermtrip := false } }) :=
  if_neg (Bool.eq_false_iff.mp h)

theorem porstWeir_of_high {w : Weir} (h : w.base.pwr.porst = false) :
    porstWeir w = powerWeir porstIn true { w with base := { w.base with pins := { w.base.pins with thermtrip := false } } } :=
  if_neg (Bool.eq_false_iff.mp h)

/-! ## Kindling starts (R301) -/

/-- Two bases that agree in what a phase shown leaves alone: the kindling state, the MSP's queues, and which element it is. -/
structure SameKindle (b c : Base) : Prop where
  kin : c.kin = b.kin
  pwr : c.pwr = b.pwr
  inbox : c.msp.inbox = b.msp.inbox
  outbox : c.msp.outbox = b.msp.outbox
  isWeir : c.isWeir = b.isWeir

theorem sameKindle_kindleF (b : Base) (off hi lo v : Nat) : SameKindle b (kindleF b off hi lo v) := by
  unfold kindleF
  split
  · exact ⟨rfl, rfl, rfl, rfl, rfl⟩
  · exact ⟨rfl, rfl, rfl, rfl, rfl⟩

theorem sameKindle_showKPhase (b : Base) (n : Nat) : SameKindle b (showKPhase b n) := by
  obtain ⟨hkin, hpwr, hin, hout, hweir⟩ := sameKindle_kindleF b Off.KINDLE_STAT 2 0 n
  exact ⟨hkin, hpwr, hin, hout, hweir⟩

/-- Kindling's phase 1, before and after it is shown: the queues and the waits are cleared (R301). -/
def kindleCleared (b : Base) : Base :=
  let b := clearMspBuffers b
  setPhase { b with kin := { b.kin with resetEnd := b.time.raw, waited := 0, waitStart := none } } (.kindling 1)
def kindlePhase1 (b : Base) : Base := showKPhase (kindleCleared b) 1

theorem startKindling_eq (b : Base) : startKindling b =
    if (kindlePhase1 b).kin.fuseBad then mspF (setPhase (kindlePhase1 b) .kindleStuck) 11 11 1
    else if (kindlePhase1 b).isWeir then enterPhase3 (kindlePhase1 b)
    else showKPhase (setPhase (kindlePhase1 b) (.kindling 2)) 2 := rfl

/-- What phase 1 leaves: the queues empty, and everything that phase 1 does not name. -/
theorem kindlePhase1_kin (b : Base) : (kindlePhase1 b).kin.fuseBad = b.kin.fuseBad ∧ (kindlePhase1 b).kin.resetEnd = b.time.raw ∧
    (kindlePhase1 b).msp.inbox = [] ∧ (kindlePhase1 b).msp.outbox = [] ∧ (kindlePhase1 b).isWeir = b.isWeir ∧
    (kindlePhase1 b).pwr = b.pwr := by
  obtain ⟨hkin, hpwr, hin, hout, hweir⟩ := sameKindle_showKPhase (kindleCleared b) 1
  have hfuse : (kindlePhase1 b).kin.fuseBad = (kindleCleared b).kin.fuseBad := congrArg Kindle.fuseBad hkin
  have hend : (kindlePhase1 b).kin.resetEnd = (kindleCleared b).kin.resetEnd := congrArg Kindle.resetEnd hkin
  exact ⟨hfuse, hend, hin, hout, hweir, hpwr⟩

theorem enterPhase3_phase (b : Base) : (enterPhase3 b).kin.phase = .kindling 3 ∧ (enterPhase3 b).pwr = b.pwr := by
  have hshow := sameKindle_showKPhase (setPhase b (.kindling 3)) 3
  have hwait := sameKindle_kindleF (showKPhase (setPhase b (.kindling 3)) 3) Off.KINDLE_STAT 10 10 1
  unfold enterPhase3
  simp only
  split
  · exact ⟨congrArg Kindle.phase hshow.kin, hshow.pwr⟩
  · exact ⟨congrArg Kindle.phase (hwait.kin.trans hshow.kin), hwait.pwr.trans hshow.pwr⟩

/-- Kindling of a package starts at phase 1 and goes on to phase 2; a bad fuse CRC holds it (R301). -/
theorem startKindling_pkg {b : Base} (hpkg : b.isWeir = false) :
    (startKindling b).kin.phase = (if b.kin.fuseBad then .kindleStuck else .kindling 2) ∧ (startKindling b).kin.resetEnd = b.time.raw ∧
    (startKindling b).msp.inbox = [] ∧ (startKindling b).msp.outbox = [] ∧ (startKindling b).pwr = b.pwr := by
  obtain ⟨hfuse, hend, hin, hout, hkind, hpwr⟩ := kindlePhase1_kin b
  rw [startKindling_eq, hfuse]
  split
  · exact ⟨rfl, hend, hin, hout, hpwr⟩
  · rw [if_neg (Bool.eq_false_iff.mp (hkind.trans hpkg))]
    obtain ⟨hkin2, hpwr2, hin2, hout2, -⟩ := sameKindle_showKPhase (setPhase (kindlePhase1 b) (.kindling 2)) 2
    exact ⟨congrArg Kindle.phase hkin2, (congrArg Kindle.resetEnd hkin2).trans hend, hin2.trans hin, hout2.trans hout, hpwr2.trans hpwr⟩

theorem startKindling_weir {b : Base} (hweir : b.isWeir = true) :
    (startKindling b).kin.phase = (if b.kin.fuseBad then .kindleStuck else .kindling 3) ∧ (startKindling b).pwr = b.pwr := by
  obtain ⟨hfuse, -, -, -, hkind, hpwr⟩ := kindlePhase1_kin b
  rw [startKindling_eq, hfuse]
  split
  · exact ⟨rfl, hpwr⟩
  · rw [if_pos (hkind.trans hweir)]
    exact ⟨(enterPhase3_phase _).1, (enterPhase3_phase _).2.trans hpwr⟩

/-- A reset of reach 2 or 3 that nothing holds any more ends in kindling (R290). -/
theorem endReset_of_free {b : Base} {r : Nat} (hphase : b.kin.phase = .inReset r) (hr : r ≠ 1) (hlow : b.kin.resetLow = false)
    (hwait : b.kin.pending1 = false) (hoff : b.pwr.asserted = false) : endReset b = startKindling b := by
  simp only [endReset, hphase, hlow, hwait, hoff, if_neg hr]
  rfl

/-- POWER_ON_RELEASE of an element that nothing else holds in its reset of reach 3. -/
theorem released_of_clear {b : Base} (hclear : b.pwr = { inrush := b.pwr.inrush, asserted := true }) (hlow : b.kin.resetLow = false)
    (hwait : b.kin.pending1 = false) (hphase : b.kin.phase = .inReset 3) :
    (if (powerCodes b.pwr).isEmpty ∧ b.pwr.asserted then endReset { b with pwr := { b.pwr with asserted := false } } else b) =
      startKindling { b with pwr := { b.pwr with asserted := false } } := by
  have hend : (powerCodes b.pwr).isEmpty = true ∧ b.pwr.asserted = true := by
    rw [hclear]
    exact ⟨rfl, rfl⟩
  rw [if_pos hend]
  exact endReset_of_free (r := 3) hphase (by decide) hlow hwait rfl

theorem exec_powerOnRelease_pkg {s : State} {k : Nat} (hclear : (pkgOf s k).base.pwr = { inrush := (pkgOf s k).base.pwr.inrush, asserted := true })
    (hlow : (pkgOf s k).base.kin.resetLow = false) (hwait : (pkgOf s k).base.kin.pending1 = false)
    (hphase : (pkgOf s k).base.kin.phase = .inReset 3) : exec (.powerOnRelease (.pkg k)) s = .next (setPkg s k { pkgOf s k with
      base := startKindling { (pkgOf s k).base with pwr := { (pkgOf s k).base.pwr with asserted := false } } }) := by
  rw [← released_of_clear hclear hlow hwait hphase]
  rfl

theorem exec_powerOnRelease_weir {s : State} {k : Nat} (hclear : (weirOf s k).base.pwr = { inrush := (weirOf s k).base.pwr.inrush, asserted := true })
    (hlow : (weirOf s k).base.kin.resetLow = false) (hwait : (weirOf s k).base.kin.pending1 = false)
    (hphase : (weirOf s k).base.kin.phase = .inReset 3) : exec (.powerOnRelease (.weir k)) s = .next (setWeir s k { weirOf s k with
      base := startKindling { (weirOf s k).base with pwr := { (weirOf s k).base.pwr with asserted := false } } }) := by
  rw [← released_of_clear hclear hlow hwait hphase]
  rfl

/-- Settles O15: a rising condition by whether the source is asserted, an ending one by its executor, and the release by the start of
kindling. -/
theorem powerOn : Obligations.PowerOn := by
  unfold Obligations.PowerOn
  refine ⟨fun s k => ⟨fun hoff => ⟨?_, ?_, ?_, ?_⟩, fun hhigh => ?_, rfl⟩, fun s k => ⟨fun hoff => ⟨?_, ?_, ?_⟩, rfl, fun hhigh => ?_, rfl⟩,
    fun s k => ⟨fun hon => ⟨?_, ?_⟩, rfl, rfl, rfl, rfl, rfl, rfl, rfl, rfl, ?_, ?_⟩⟩
  · exact congrArg (fun q => Host.Outcome.next (setPkg s k q)) (powerPkg_of_rise (powerCodes_of_undervoltage rfl) (.inl hoff))
  · exact congrArg (fun q => Host.Outcome.next (setPkg s k q)) (powerPkg_of_rise (powerCodes_of_overvoltage rfl) (.inl hoff))
  · exact congrArg (fun q => Host.Outcome.next (setPkg s k q)) (powerPkg_of_rise (powerCodes_of_rail rfl) (.inl hoff))
  · exact congrArg (fun q => Host.Outcome.next (setPkg s k q)) (powerPkg_of_rise (powerCodes_of_trip rfl) (.inl hoff))
  · exact congrArg (fun q => Host.Outcome.next (setPkg s k q))
      ((porstPkg_of_high hhigh).trans (powerPkg_of_rise (powerCodes_of_porst rfl) (.inr rfl)))
  · exact congrArg (fun q => Host.Outcome.next (setWeir s k q)) (powerWeir_of_rise (powerCodes_of_undervoltage rfl) (.inl hoff))
  · exact congrArg (fun q => Host.Outcome.next (setWeir s k q)) (powerWeir_of_rise (powerCodes_of_rail rfl) (.inl hoff))
  · exact congrArg (fun q => Host.Outcome.next (setWeir s k q)) (powerWeir_of_rise (powerCodes_of_trip rfl) (.inl hoff))
  · exact congrArg (fun q => Host.Outcome.next (setWeir s k q))
      ((porstWeir_of_high hhigh).trans (powerWeir_of_rise (powerCodes_of_porst rfl) (.inr rfl)))
  · exact congrArg (fun q => Host.Outcome.next (setPkg s k q)) (powerPkg_of_asserted (powerCodes_of_undervoltage rfl) hon rfl)
  · exact congrArg (fun q => Host.Outcome.next (setPkg s k q)) (powerPkg_of_asserted (powerCodes_of_rail rfl) hon rfl)
  · intro hclear hlow hwait hphase hpkg
    refine ⟨_, exec_powerOnRelease_pkg hclear hlow hwait hphase, ?_⟩
    rw [pkgOf_setPkg_self]
    obtain ⟨hkind, hend, hin, hout, hpwr⟩ :=
      startKindling_pkg (b := { (pkgOf s k).base with pwr := { (pkgOf s k).base.pwr with asserted := false } }) hpkg
    exact ⟨congrArg PowerIn.asserted hpwr, hkind, hin, hout, hend, rfl, rfl⟩
  · intro hclear hlow hwait hphase hweir
    refine ⟨_, exec_powerOnRelease_weir hclear hlow hwait hphase, ?_⟩
    rw [weirOf_setWeir_self]
    obtain ⟨hkind, hpwr⟩ :=
      startKindling_weir (b := { (weirOf s k).base with pwr := { (weirOf s k).base.pwr with asserted := false } }) hweir
    exact ⟨congrArg PowerIn.asserted hpwr, hkind⟩

end Sys2Proof.Machine
end

section
/-! PROOFS. Fields of registers: what a field reads after it, or one apart from it, is written (R8). -/

namespace Sys2Proof.Machine

theorem testBit_fld (v : Nat) {hi lo : Nat} (i : Nat) : (fld v hi lo).testBit i = (decide (i < hi + 1 - lo) && v.testBit (lo + i)) := by
  rw [fld, Nat.testBit_mod_two_pow, Nat.testBit_div_two_pow, Nat.add_comm i]

theorem testBit_setFld (v x : Nat) {hi lo : Nat} (h : lo ≤ hi) (i : Nat) :
    (setFld v hi lo x).testBit i = if lo ≤ i ∧ i ≤ hi then x.testBit (i - lo) else v.testBit i := by
  simp only [← bitOf_eq_testBit]
  exact bitOf_setFld v x h i

/-- A field of a register's 32 bits. -/
theorem fld_mod_word (v : Nat) {hi lo : Nat} (hhi : hi < 32) : fld (v % 2 ^ 32) hi lo = fld v hi lo := by
  refine Nat.eq_of_testBit_eq fun i => ?_
  rw [testBit_fld, testBit_fld, Nat.testBit_mod_two_pow]
  by_cases hi' : i < hi + 1 - lo
  · simp [show lo + i < 32 by omega]
  · simp [hi']

theorem fld_setFld_self (v x : Nat) {hi lo : Nat} (h : lo ≤ hi) : fld (setFld v hi lo x) hi lo = x % 2 ^ (hi + 1 - lo) := by
  refine Nat.eq_of_testBit_eq fun i => ?_
  rw [testBit_fld, testBit_setFld v x h, Nat.testBit_mod_two_pow, Nat.add_sub_cancel_left]
  by_cases hi' : i < hi + 1 - lo
  · simp [hi', show lo + i ≤ hi by omega]
  · simp [hi']

theorem fld_setFld_apart (v x : Nat) {hi lo hi' lo' : Nat} (h : lo ≤ hi) (hapart : hi' < lo ∨ hi < lo') :
    fld (setFld v hi lo x) hi' lo' = fld v hi' lo' := by
  refine Nat.eq_of_testBit_eq fun i => ?_
  rw [testBit_fld, testBit_fld, testBit_setFld v x h]
  by_cases hi' : i < hi' + 1 - lo'
  · rw [if_neg (by omega)]
  · simp [hi']

theorem Package.wrF_eq_wr (p : Package) (a hi lo v : Nat) : p.wrF a hi lo v = p.wr a (setFld (p.rd a) hi lo v) := rfl

/-- A field written in a package's register. -/
theorem Package.rdF_wrF_self (p : Package) (a x : Nat) {hi lo : Nat} (h : lo ≤ hi) (hhi : hi < 32) :
    (p.wrF a hi lo x).rdF a hi lo = x % 2 ^ (hi + 1 - lo) :=
  calc fld ((p.wrF a hi lo x).rd a) hi lo = fld (setFld (p.rd a) hi lo x % 2 ^ 32) hi lo := by rw [Package.rd_wrF, if_pos rfl]
    _ = x % 2 ^ (hi + 1 - lo) := by rw [fld_mod_word _ hhi, fld_setFld_self _ _ h]

theorem Package.rdF_wrF_apart (p : Package) (a x : Nat) {hi lo hi' lo' : Nat} (h : lo ≤ hi) (hhi' : hi' < 32)
    (hapart : hi' < lo ∨ hi < lo') : (p.wrF a hi lo x).rdF a hi' lo' = p.rdF a hi' lo' :=
  calc fld ((p.wrF a hi lo x).rd a) hi' lo' = fld (setFld (p.rd a) hi lo x % 2 ^ 32) hi' lo' := by rw [Package.rd_wrF, if_pos rfl]
    _ = fld (p.rd a) hi' lo' := by rw [fld_mod_word _ hhi', fld_setFld_apart _ _ h hapart]

end Sys2Proof.Machine
end

section
/-! PROOFS. The inlet temperature: a tray controller's write of T_IN, and a T_IN that no write keeps up (R359, R363). -/

namespace Sys2Proof.Machine

/-- T_IN as a tray controller's write leaves it, and the fantail's history of it (R357, R359, R369). -/
def tInStored (p : Package) (temp : Nat) : Package := tInWritten (p.wrF (pw Off.T_IN) 15 0 temp)

/-- The row of T_IN (R369). -/
def tInRow : RegRow := ⟨0x094, 1, 0x4, [⟨15, 0, .rwMsp, .w, 0x140, false⟩, ⟨31, 16, .ro, .w, 0x140, false⟩]⟩

theorem rowAt_tIn : rowAt .power Off.T_IN = some tInRow := rfl

theorem storeRow_tIn (old v : Nat) : storeRow .cs tInRow old v = setFld old 15 0 (fld v 15 0) := rfl

/-- A write of a register with no locked and no quiesce-only field stores what its row makes of it (R11). -/
theorem plainWrite_of_row {p : Package} {src : Src} {page off v new : Nat} {kd : PKind} {r : RegRow} (hrow : rowAt kd off = some r)
    (hlock : (r.fields.any fun f => f.acc = .rwl) = false) (hquiesce : ∀ old new, changesQuiesce r old new = false)
    (hnew : storeRow src r (p.rd (page + off)) (storeRule p (page + off) kd off (p.rd (page + off)) v) = new) :
    plainWrite p src page kd off v = .ok (p.wr (page + off) new) := by
  unfold plainWrite
  simp only [hrow, hlock, hquiesce, hnew]
  rfl

theorem powerWrite_tIn (p : Package) (temp : Nat) :
    powerWrite p .cs powerPage Off.T_IN temp = .ok (tInStored p (fld temp 15 0)) := by
  have hrule (old : Nat) : storeRule p (powerPage + Off.T_IN) .power Off.T_IN old temp = temp := by
    simp only [storeRule]
    rw [if_neg (by decide), if_neg (by decide), if_neg (by decide)]
  have hplain := plainWrite_of_row (p := p) (page := powerPage) (v := temp) rowAt_tIn rfl (fun _ _ => rfl)
    ((storeRow_tIn _ _).trans (congrArg (fun v => setFld (p.rd (powerPage + Off.T_IN)) 15 0 (fld v 15 0)) (hrule _)))
  rw [powerWrite, if_neg (by decide), hplain, Except.map, if_pos ⟨rfl, rfl⟩, tInStored, Package.wrF_eq_wr, pw]

theorem inletT_tInStored (p : Package) {temp : Nat} (htemp : temp < 2 ^ 16) : inletT (tInStored p temp) = temp := by
  have hfield : (p.wrF (pw Off.T_IN) 15 0 temp).rdF (pw Off.T_IN) 15 0 = temp % 2 ^ 16 :=
    Package.rdF_wrF_self p (pw Off.T_IN) temp (by decide) (by decide)
  exact hfield.trans (Nat.mod_eq_of_lt htemp)

/-- The tray controller's write of T_IN at a package where it arrives. -/
theorem onCtl_tIn {s : State} {k temp : Nat} (hreach : Safety.reaches s k .cs (pw Off.T_IN) .power = true) (htemp : temp < 2 ^ 16) :
    onCtl k .cs (pw Off.T_IN) 4 temp s = .next (Safety.written s k (pw Off.T_IN) (tInStored (pkgOf s k) temp)) := by
  have hfit : fld (temp % 2 ^ 32) 15 0 = temp := by simp only [fld]; omega
  have hpage : pageOf (pw Off.T_IN) = powerPage := by decide
  have hoff : offOf (pw Off.T_IN) = Off.T_IN := by decide
  rw [onCtl_of_reaches hreach, hpage, hoff, if_neg (by decide), blockWrite, powerWrite_tIn, hfit]

theorem inletT_acceptWrite (p : Package) (a : Nat) : inletT (acceptWrite p (pageOf a)) = inletT p := by
  have hread : (acceptWrite p (pageOf a)).rd (pw Off.T_IN) = p.rd (pw Off.T_IN) := rd_acceptWrite p a (by decide) (by decide)
  show (if p.pwr.tInStale then 320 else fld ((acceptWrite p (pageOf a)).rd (pw Off.T_IN)) 15 0) = _
  rw [hread]
  rfl

/-- The package where T_IN goes stale (R359). -/
theorem inletStale_of_fresh {p : Package} (h : p.pwr.tInStale = false) : inletStale p =
    raise (({ p with pwr := { p.pwr with tInStale := true } } : Package).wrF (pw Off.T_IN) 31 16 320) powerPage 6
      { c2 := (p.base.gtime - p.pwr.tInAt) / 1000000 % 2 ^ 32 } := if_neg (Bool.eq_false_iff.mp h)

theorem rdF_tIn_raise (p : Package) (bit : Nat) (c : Capt) (hi lo : Nat) :
    (raise p powerPage bit c).rdF (pw Off.T_IN) hi lo = p.rdF (pw Off.T_IN) hi lo :=
  congrArg (fun v => fld v hi lo) (sameRegs_raise p (a := powerPage) (offOf_pg 2 0) bit c (pw Off.T_IN) (by decide))

end Sys2Proof.Machine

namespace Sys2Proof
open Machine

/-- Settles O23: a stale T_IN reads 40 °C wherever the fantail uses it, and the next write is used again. -/
theorem inletStale : Obligations.InletStale := by
  unfold Obligations.InletStale
  refine fun s p => ⟨fun hfresh => ?_, fun hreach temp htemp => ⟨_, onCtl_tIn hreach htemp, ?_⟩⟩
  · refine ⟨setPkg s p { Machine.inletStale (pkgOf s p) with mem := (pkgOf s p).mem }, rfl, ?_⟩
    have hsame : { Machine.inletStale (pkgOf s p) with mem := (pkgOf s p).mem } = Machine.inletStale (pkgOf s p) := by
      have hmem : (Machine.inletStale (pkgOf s p)).mem = (pkgOf s p).mem := by
        rw [inletStale_of_fresh hfresh, raise_mem]
        rfl
      rw [← hmem]
    have hstale : (Machine.inletStale (pkgOf s p)).pwr.tInStale = true := by
      rw [inletStale_of_fresh hfresh, raise_pwr]
      rfl
    rw [hsame, pkgOf_setPkg_self]
    refine ⟨if_pos hstale, fun ahead => if_pos hstale, ?_, ?_⟩
    · rw [inletStale_of_fresh hfresh, rdF_tIn_raise]
      exact Package.rdF_wrF_self _ (pw Off.T_IN) 320 (hi := 31) (lo := 16) (by decide) (by decide)
    · rw [inletStale_of_fresh hfresh]
      exact bitOf_raise _ (offOf_pg 2 0) _ (by decide)
  · rw [pkgOf_written]
    exact ⟨rfl, (inletT_acceptWrite _ _).trans (inletT_tInStored _ htemp)⟩

end Sys2Proof
end

section
/-! PROOFS. A virtual function's rings, its shadow and its vectors (R333–R336, R344). -/

namespace Sys2Proof.Machine

/-! ## A write of a function's own registers (R344) -/

theorem offOf_vfReg (v : Nat) {off : Nat} (hoff : off < 0x1000) : offOf (vfPage v + off) = off := offOf_page_add (offOf_pg 4 v) hoff

/-- A register of a function's page beyond the header is judged by the function. -/
theorem write_vfReg (free : Nat) (p : Package) (src : Src) {v off : Nat} (val : Nat) (hv : v ≤ 16) (hoff : 0x80 ≤ off ∧ off < 0x1000) :
    (if offOf (vfPage v + off) < 0x80 then headerWrite free p src (pageOf (vfPage v + off)) .vf (offOf (vfPage v + off)) val
      else blockWrite p src (pageOf (vfPage v + off)) .vf (offOf (vfPage v + off)) val) = vfWrite p v off val := by
  obtain ⟨hlow, hhigh⟩ := hoff
  have hinst : instOf (pageOf (vfPage v + off)) = v := by simp only [instOf, pageOf, vfPage, pg]; omega
  rw [offOf_vfReg v hhigh, if_neg (by omega), blockWrite, hinst]

section
variable {s : State} {k : Nat} {src : Src} {v off val : Nat} (hv : v ≤ 16) (hoff : 0x80 ≤ off ∧ off < 0x1000) (hval : val < 2 ^ 32)
  (hreaches : Safety.reaches s k src (vfPage v + off) .vf = true)
include hv hoff hval hreaches

theorem onCtl_vfReg_ok {q : Package} (hq : vfWrite (pkgOf s k) v off val = .ok q) :
    onCtl k src (vfPage v + off) 4 val s = .next (Safety.written s k (vfPage v + off) q) := by
  rw [onCtl_of_reaches hreaches, write_vfReg _ _ _ _ hv hoff, Nat.mod_eq_of_lt hval, hq]

theorem onCtl_vfReg_error {reason : Nat} (hr : vfWrite (pkgOf s k) v off val = .error reason) :
    onCtl k src (vfPage v + off) 4 val s = .next (Safety.refused s k src (vfPage v + off) val reason) := by
  rw [onCtl_of_reaches hreaches, write_vfReg _ _ _ _ hv hoff, Nat.mod_eq_of_lt hval, hr]

end

section
variable (p : Package) (v val : Nat)

theorem vfWrite_hcqCfg : vfWrite p v Off.HCQ_CFG val = hcqCfgWrite p v val := rfl
theorem vfWrite_heqCfg : vfWrite p v Off.HEQ_CFG val = heqCfgWrite p v val := rfl
theorem vfWrite_hcqProd : vfWrite p v Off.HCQ_PROD val = ringProd p v Off.HCQ_PROD Off.HCQ_CONS Off.HCQ_CFG val := rfl
theorem vfWrite_heqProd : vfWrite p v Off.HEQ_PROD val = ringProd p v Off.HEQ_PROD Off.HEQ_CONS Off.HEQ_CFG val := rfl
theorem vfWrite_hcqCons : vfWrite p v Off.HCQ_CONS val = .ok (hostDrain (p.wr (vfPage v + Off.HCQ_CONS) val) v) := rfl
theorem vfWrite_heqCons : vfWrite p v Off.HEQ_CONS val = .ok (eventDrain (p.wr (vfPage v + Off.HEQ_CONS) val) v) := rfl

end

/-! ## What a ring's write stores (R333, R335, R344) -/

/-- What a ring's CFG holds after a write that is taken. -/
def ringStored (top lo hi val : Nat) : Nat := ringSize lo hi (fld val top 0) + b2n (bitOf val 8) * 2 ^ 8 + fld val 25 16 * 2 ^ 16

theorem ringStored_lt {top lo hi : Nat} (hle : lo ≤ hi) (hhi : hi < 32) (val : Nat) : ringStored top lo hi val < 2 ^ 32 := by
  have hsize : ringSize lo hi (fld val top 0) ≤ hi := ringSize_le hle _
  have hhold : fld val 25 16 < 2 ^ 10 := Nat.mod_lt _ (by decide)
  have hcommit : b2n (bitOf val 8) ≤ 1 := by cases bitOf val 8 <;> decide
  simp only [ringStored]
  omega

theorem ringCfgWrite_staged {p : Package} {a : Nat} (top lo hi val : Nat) (busy : Bool) (h : bitOf (p.rd a) 8 = false) :
    ringCfgWrite p a top lo hi val busy = .ok (p.wr a (ringStored top lo hi val)) := if_neg (Bool.eq_false_iff.mp h)

theorem ringCfgWrite_busy {p : Package} {a : Nat} (top lo hi : Nat) {val : Nat} (h : bitOf (p.rd a) 8 = true)
    (hval : bitOf val 8 = false) : ringCfgWrite p a top lo hi val true = .error 1 := by
  rw [ringCfgWrite, if_pos h, if_neg (Bool.eq_false_iff.mp hval), if_pos rfl]

theorem hcqCfgWrite_staged {p : Package} {v : Nat} (val : Nat) (h : bitOf (p.rd (vfPage v + Off.HCQ_CFG)) 8 = false) :
    hcqCfgWrite p v val = .ok (hostDrain (p.wr (vfPage v + Off.HCQ_CFG) (ringStored 4 8 16 val)) v) := by
  rw [hcqCfgWrite, ringCfgWrite_staged 4 8 16 val _ h]
  rfl

theorem hcqCfgWrite_busy {p : Package} {v val : Nat} (h : bitOf (p.rd (vfPage v + Off.HCQ_CFG)) 8 = true) (hval : bitOf val 8 = false)
    (hbusy : ∃ h < 4, p.rd (hhReg v h Off.HH_ACC) ≠ p.rd (hhReg v h Off.HH_DONE)) : hcqCfgWrite p v val = .error 1 := by
  have hopen : (List.range 4).any (hhOpen p v) = true := by
    obtain ⟨h, hh, hne⟩ := hbusy
    exact List.any_eq_true.mpr ⟨h, List.mem_range.mpr hh, decide_eq_true hne⟩
  rw [hcqCfgWrite, hopen, ringCfgWrite_busy 4 8 16 h hval]
  rfl

theorem heqCfgWrite_staged {p : Package} {v : Nat} (val : Nat) (h : bitOf (p.rd (vfPage v + Off.HEQ_CFG)) 8 = false) :
    heqCfgWrite p v val = .ok (eventDrain (p.wr (vfPage v + Off.HEQ_CFG) (ringStored 3 6 12 val)) v) := by
  rw [heqCfgWrite, ringCfgWrite_staged 3 6 12 val _ h]
  rfl

theorem ringProd_staged {p : Package} {v cfg : Nat} (prod cons val : Nat) (h : bitOf (p.rd (vfPage v + cfg)) 8 = false) :
    ringProd p v prod cons cfg val = .ok (touchShadow ((p.wr (vfPage v + prod) val).wr (vfPage v + cons) val) v) :=
  if_neg (Bool.eq_false_iff.mp h)

theorem ringProd_committed {p : Package} {v cfg : Nat} (prod cons val : Nat) (h : bitOf (p.rd (vfPage v + cfg)) 8 = true) :
    ringProd p v prod cons cfg val = .error 5 := if_pos h

/-! ## What a ring's drain leaves (R335) -/

theorem sameRegs_eventDrain (p : Package) (v : Nat) : SameRegs p (eventDrain p v) := by
  have hheq (q : Package) (x y : Bytes) : SameRegs q (heqWrite q v x y) :=
    (sameRegs_hostWrite q v _ _).trans <| (sameRegs_wr _ _ (offOf_pg 4 v) (off := Off.HEQ_PROD) (by decide)).trans <|
      (sameRegs_setVf _ v _).trans (sameRegs_vfSignal _ v 1)
  exact .ite ((sameRegs_setVf p v _).trans <| (hheq _ _ _).trans (sameRegs_raise _ (offOf_pg 4 v) 13 {})) (.refl p)

theorem eventDrain_mem (p : Package) (v : Nat) : (eventDrain p v).mem = p.mem := by
  have hwork : SameWork p (eventDrain p v) :=
    .ite ((sameWork_setVf p v _).trans <| (sameWork_heqWrite _ v _ _).trans (sameWork_raise _ _ _ _)) (.refl p)
  exact hwork.1

/-- A register that a write of the function stored, beside the counters of the write: what every later change leaves. -/
theorem rd_written_vfReg {s : State} {k v off c val : Nat} {q r : Package} (hoff : 0x80 ≤ c ∧ c < 0x1000)
    (hkeep : q.rd (vfPage v + c) = r.rd (vfPage v + c)) (hval : r.rd (vfPage v + c) = val) :
    (pkgOf (Safety.written s k (vfPage v + off) q) k).rd (vfPage v + c) = val := by
  have hcount : offOf (vfPage v + c) ≠ Off.SEQ_IN ∧ offOf (vfPage v + c) ≠ Off.SEQ_OUT := by
    rw [offOf_vfReg v hoff.2]
    simp only [Off.SEQ_IN, Off.SEQ_OUT]
    omega
  rw [pkgOf_written, rd_acceptWrite _ _ hcount.1 hcount.2, hkeep, hval]

theorem mem_written (s : State) (k a : Nat) (q : Package) : (pkgOf (Safety.written s k a q) k).mem = q.mem := by
  rw [pkgOf_written, acceptWrite_mem]

theorem rd_hostDrain_vfReg (p : Package) (v : Nat) {off : Nat} (hoff : off = Off.HCQ_CFG ∨ off = Off.HCQ_CONS) :
    (hostDrain p v).rd (vfPage v + off) = p.rd (vfPage v + off) := by
  refine (drained_hostDrain p v).regs _ ?_
  rcases hoff with rfl | rfl
  · rw [offOf_vfReg v (by decide)]
    decide
  · rw [offOf_vfReg v (by decide)]
    decide

theorem rd_eventDrain_vfReg (p : Package) (v : Nat) {off : Nat} (hoff : off = Off.HEQ_CFG ∨ off = Off.HEQ_CONS) :
    (eventDrain p v).rd (vfPage v + off) = p.rd (vfPage v + off) := by
  refine sameRegs_eventDrain p v _ ?_
  rcases hoff with rfl | rfl
  · rw [offOf_vfReg v (by decide)]
    decide
  · rw [offOf_vfReg v (by decide)]
    decide

/-! ## The shadow (R334) -/

theorem shadowBytes_eq (p : Package) (v : Nat) : shadowBytes p v =
    le 4 (p.rd (hhReg v 0 Off.HH_ACC)) ++ (le 4 (p.rd (hhReg v 0 Off.HH_DONE)) ++
    (le 4 (p.rd (hhReg v 1 Off.HH_ACC)) ++ (le 4 (p.rd (hhReg v 1 Off.HH_DONE)) ++
    (le 4 (p.rd (hhReg v 2 Off.HH_ACC)) ++ (le 4 (p.rd (hhReg v 2 Off.HH_DONE)) ++
    (le 4 (p.rd (hhReg v 3 Off.HH_ACC)) ++ (le 4 (p.rd (hhReg v 3 Off.HH_DONE)) ++
    (le 4 (p.rd (vfPage v + Off.HCQ_PROD)) ++ (le 4 (p.rd (vfPage v + Off.HEQ_PROD)) ++ (le 8 p.base.gtime ++ zeros 16)))))))))) := by
  have hhoppers : List.range 4 = [0, 1, 2, 3] := rfl
  simp only [shadowBytes, hhoppers, List.flatMap_cons, List.flatMap_nil, List.append_nil, List.append_assoc, hhReg]

theorem length_shadowBytes (p : Package) (v : Nat) : (shadowBytes p v).length = 64 := by
  simp only [shadowBytes_eq, List.length_append, length_le, length_zeros]

theorem fieldAt_shadowBytes_hopper (p : Package) (v : Nat) {h : Nat} (hh : h < 4) :
    fieldAt (shadowBytes p v) (8 * h) 4 = p.rd (hhReg v h Off.HH_ACC) % 2 ^ 32 ∧
      fieldAt (shadowBytes p v) (8 * h + 4) 4 = p.rd (hhReg v h Off.HH_DONE) % 2 ^ 32 := by
  rw [shadowBytes_eq]
  match h, hh with
  | 0, _ => exact ⟨by simp, by simp⟩
  | 1, _ => exact ⟨by simp, by simp⟩
  | 2, _ => exact ⟨by simp, by simp⟩
  | 3, _ => exact ⟨by simp, by simp⟩

theorem fieldAt_shadowBytes_rings (p : Package) (v : Nat) :
    fieldAt (shadowBytes p v) 32 4 = p.rd (vfPage v + Off.HCQ_PROD) % 2 ^ 32 ∧
      fieldAt (shadowBytes p v) 36 4 = p.rd (vfPage v + Off.HEQ_PROD) % 2 ^ 32 := by
  rw [shadowBytes_eq]
  exact ⟨by simp, by simp⟩

theorem dmaOk_of_awake {p : Package} {v : Nat} (h : v ∉ p.host.d3) : p.dmaOk v = true := by simp [Package.dmaOk, h]

/-- A shadow written where it is enabled and the function awake. -/
theorem writeShadow_of_enabled {p : Package} {v : Nat} (hon : bitOf (p.rd (vfPage v + Off.SHADOW_CTL)) 0 = true) (hd3 : v ∉ p.host.d3) :
    ∃ x : Vf, x.shadowDirty = false ∧ writeShadow p v = { p with host := { p.host with
      outMsgs := p.host.outMsgs ++ [.write (p.rd (vfPage v + Off.SHADOW_BASE_LO) / 64 * 64 + p.rd (vfPage v + Off.SHADOW_BASE_HI) * 2 ^ 32)
        (shadowBytes p v)], vfs := mset p.host.vfs v x } } := by
  refine ⟨{ p.vf v with shadowDirty := false }, rfl, ?_⟩
  have hdma := dmaOk_of_awake hd3
  have hboth : (bitOf (p.rd (vfPage v + Off.SHADOW_CTL)) 0 && p.dmaOk v) = true := by rw [hon, hdma]; rfl
  rw [writeShadow, if_pos hboth, hostWrite, if_pos hdma]
  rfl

/-! ## Vectors (R336) -/

theorem nth_setNth_false (l : List Bool) (i : Nat) : nth false (setNth l i false) i = false := by
  simp only [nth, setNth, List.getElem?_set_self']
  cases l[i]? <;> rfl

@[simp] theorem vf_setVf_self (p : Package) (v : Nat) (x : Vf) : (p.setVf v x).vf v = x := by simp [Package.vf, Package.setVf]

theorem writeShadow_frame (p : Package) (v : Nat) : (writeShadow p v).host.d3 = p.host.d3 ∧
    ((writeShadow p v).vf v).pendingVec = (p.vf v).pendingVec := by
  unfold writeShadow hostWrite
  dsimp only
  split
  · split <;> simp [Package.setVf, Package.vf]
  · exact ⟨rfl, rfl⟩

/-- A vector whose holdoff does not run, of a function that is awake: the signal is the last message, and nothing is held back anew. -/
theorem vfSignal_sent {p : Package} {v vec : Nat} (hover : nth false (p.vf v).holdoff vec = false) (hd3 : v ∉ p.host.d3) :
    (vfSignal p v vec).host.outMsgs.getLast? = some (.msix v vec) ∧ ((vfSignal p v vec).vf v).pendingVec = (p.vf v).pendingVec := by
  obtain ⟨hsame, hpending⟩ := writeShadow_frame p v
  have hawake : (writeShadow p v).dmaOk v = true := dmaOk_of_awake (hsame ▸ hd3)
  have hfree : ¬ (nth false (p.vf v).holdoff vec || !p.dmaOk v) = true := by rw [hover, dmaOk_of_awake hd3]; decide
  have hlast : (hostMsix (writeShadow p v) v vec).host.outMsgs.getLast? = some (.msix v vec) := by
    rw [hostMsix, if_pos hawake]
    exact List.getLast?_concat
  have hkept : ((hostMsix (writeShadow p v) v vec).vf v).pendingVec = (p.vf v).pendingVec := by
    rw [hostMsix, if_pos hawake]
    exact hpending
  rw [vfSignal, if_neg hfree]
  exact iteInduction (motive := fun q : Package => q.host.outMsgs.getLast? = some (.msix v vec) ∧
      (q.vf v).pendingVec = (p.vf v).pendingVec) (fun _ => ⟨hlast, hkept⟩)
    fun _ => ⟨hlast, (congrArg Vf.pendingVec (vf_setVf_self _ v _)).trans hkept⟩

/-! ## The executors -/

theorem exec_shadowWrite_clean {s : State} {p v : Nat} (h : ((pkgOf s p).vf v).shadowDirty = false) :
    exec (.shadowWrite p v) s = .next (setPkg s p (pkgOf s p)) := by
  have hexec : exec (.shadowWrite p v) s = execShadowWrite p v s := rfl
  rw [hexec, execShadowWrite, onPkg, if_neg (Bool.eq_false_iff.mp h)]

theorem exec_shadowWrite_dirty {s : State} {p v : Nat} (h : ((pkgOf s p).vf v).shadowDirty = true) :
    exec (.shadowWrite p v) s = .next (setPkg s p { writeShadow (pkgOf s p) v with mem := (pkgOf s p).mem }) := by
  have hexec : exec (.shadowWrite p v) s = execShadowWrite p v s := rfl
  rw [hexec, execShadowWrite, onPkg, if_pos h]

/-- The function with the holdoff of a vector over, before what waited is signalled (R336). -/
def holdoffOver (p : Package) (v vec : Nat) : Package :=
  p.setVf v { p.vf v with holdoff := setNth (p.vf v).holdoff vec false, pendingVec := setNth (p.vf v).pendingVec vec false }

theorem exec_msixHoldoffEnd (s : State) (p v vec : Nat) : exec (.msixHoldoffEnd p v vec) s = .next (setPkg s p
    { (if nth false ((pkgOf s p).vf v).pendingVec vec then vfSignal (holdoffOver (pkgOf s p) v vec) v vec
        else holdoffOver (pkgOf s p) v vec) with mem := (pkgOf s p).mem }) := rfl

/-- Settles O49: each register by its own write, the shadow by its bytes, and a holdoff's end by what waited. -/
theorem hostRings : Obligations.HostRings := by
  unfold Obligations.HostRings
  refine ⟨fun s p src v val _ hv hval => ⟨fun hreach => ⟨fun hstaged => ?_, fun hcommitted hoff hbusy => ?_⟩, fun hreach hstaged => ?_,
    fun hreach => ⟨fun hstaged => ?_, fun hcommitted => ?_⟩, fun hreach => ⟨fun hstaged => ?_, fun hcommitted => ?_⟩,
    fun hreach => ?_, fun hreach => ?_⟩, fun s p v => ⟨exec_shadowWrite_clean, fun hdirty hon hd3 => ?_⟩,
    fun s p v vec => ⟨fun hnone => ?_, fun hwaits _ hd3 => ?_⟩⟩
  · refine ⟨_, onCtl_vfReg_ok hv (by decide) hval hreach ((vfWrite_hcqCfg _ v val).trans (hcqCfgWrite_staged val hstaged)), ?_, ?_⟩
    · refine rd_written_vfReg (by decide) (rd_hostDrain_vfReg _ v (.inl rfl)) ?_
      rw [Package.rd_wr_self, Nat.mod_eq_of_lt (ringStored_lt (by decide) (by decide) val), ringStored]
    · rw [mem_written, (drained_hostDrain _ v).mem, Package.wr_mem]
  · exact onCtl_vfReg_error hv (by decide) hval hreach ((vfWrite_hcqCfg _ v val).trans (hcqCfgWrite_busy hcommitted hoff hbusy))
  · refine ⟨_, onCtl_vfReg_ok hv (by decide) hval hreach ((vfWrite_heqCfg _ v val).trans (heqCfgWrite_staged val hstaged)), ?_, ?_⟩
    · refine rd_written_vfReg (by decide) (rd_eventDrain_vfReg _ v (.inl rfl)) ?_
      rw [Package.rd_wr_self, Nat.mod_eq_of_lt (ringStored_lt (by decide) (by decide) val), ringStored]
    · rw [mem_written, eventDrain_mem, Package.wr_mem]
  · exact onCtl_vfReg_ok hv (by decide) hval hreach ((vfWrite_hcqProd _ v val).trans (ringProd_staged _ _ val hstaged))
  · exact onCtl_vfReg_error hv (by decide) hval hreach ((vfWrite_hcqProd _ v val).trans (ringProd_committed _ _ val hcommitted))
  · exact onCtl_vfReg_ok hv (by decide) hval hreach ((vfWrite_heqProd _ v val).trans (ringProd_staged _ _ val hstaged))
  · exact onCtl_vfReg_error hv (by decide) hval hreach ((vfWrite_heqProd _ v val).trans (ringProd_committed _ _ val hcommitted))
  · refine ⟨_, onCtl_vfReg_ok hv (by decide) hval hreach (vfWrite_hcqCons _ v val), ?_, ?_, ?_⟩
    · refine rd_written_vfReg (by decide) (rd_hostDrain_vfReg _ v (.inr rfl)) ?_
      rw [Package.rd_wr_self, Nat.mod_eq_of_lt hval]
    · exact rd_written_vfReg (by decide) (rd_hostDrain_vfReg _ v (.inl rfl)) (Package.rd_wr_ne _ _ (by simp))
    · rw [mem_written, (drained_hostDrain _ v).mem, Package.wr_mem]
  · refine ⟨_, onCtl_vfReg_ok hv (by decide) hval hreach (vfWrite_heqCons _ v val), ?_, ?_, ?_⟩
    · refine rd_written_vfReg (by decide) (rd_eventDrain_vfReg _ v (.inr rfl)) ?_
      rw [Package.rd_wr_self, Nat.mod_eq_of_lt hval]
    · exact rd_written_vfReg (by decide) (rd_eventDrain_vfReg _ v (.inl rfl)) (Package.rd_wr_ne _ _ (by simp))
    · rw [mem_written, eventDrain_mem, Package.wr_mem]
  · obtain ⟨x, hclean, hshadow⟩ := writeShadow_of_enabled hon hd3
    refine ⟨_, shadowBytes (pkgOf s p) v, exec_shadowWrite_dirty hdirty, ?_⟩
    rw [pkgOf_setPkg_self, hshadow]
    obtain ⟨hcq, heq⟩ := fieldAt_shadowBytes_rings (pkgOf s p) v
    exact ⟨rfl, length_shadowBytes _ v, fun h hh => fieldAt_shadowBytes_hopper _ v hh, hcq, heq,
      (congrArg Vf.shadowDirty (mget_mset_self _ _ _ _)).trans hclean, rfl⟩
  · refine ⟨_, exec_msixHoldoffEnd s p v vec, ?_⟩
    rw [pkgOf_setPkg_self, if_neg (Bool.eq_false_iff.mp hnone)]
    exact ⟨rfl, rfl⟩
  · refine ⟨_, exec_msixHoldoffEnd s p v vec, ?_⟩
    rw [pkgOf_setPkg_self, if_pos hwaits]
    have hover : nth false ((holdoffOver (pkgOf s p) v vec).vf v).holdoff vec = false := by
      rw [holdoffOver, vf_setVf_self]
      exact nth_setNth_false _ vec
    obtain ⟨hsent, hpending⟩ := vfSignal_sent hover hd3
    refine ⟨hsent, ?_, vfSignal_base _ v vec⟩
    refine (congrArg (fun l => nth false l vec) hpending).trans ?_
    rw [holdoffOver, vf_setVf_self]
    exact nth_setNth_false _ vec

end Sys2Proof.Machine
end

section
/-! PROOFS. Global time: how an offset corrects a clock, and what timing frames, TIMESYNC edges and the loss of a source leave
(R433, R435–R440). -/

namespace Sys2Proof.Machine

/-! ## A correction (R438) -/

section
variable {t : TimeSt} {o : Int} (hfull : t.half = 0)
include hfull

theorem correctTime_slew (hlow : -1000 ≤ o) (hhigh : o ≤ 1000) : correctTime t o = ({ t with slew := o, half := 0 }, false) := by
  rw [correctTime, if_neg (by simp [hfull]), if_neg (Int.not_lt.mpr hhigh), if_neg (Int.not_lt.mpr hlow)]

theorem correctTime_step (h : 1000 < o) :
    correctTime t o = ({ t with now := (t.now + o.toNat) % 2 ^ 64, slew := 0, half := 0 }, true) := by
  rw [correctTime, if_neg (by simp [hfull]), if_pos h]

theorem correctTime_half (h : o < -1000) : correctTime t o = ({ t with half := (-o).toNat, slew := 0 }, true) := by
  rw [correctTime, if_neg (by simp [hfull]), if_neg (by omega), if_pos h]

/-- The clock as a correction leaves it, by how far the offset is. -/
theorem correctTime_cases : (-1000 ≤ o → o ≤ 1000 → (correctTime t o).1.now = t.now ∧ (correctTime t o).1.slew = o) ∧
    (1000 < o → (correctTime t o).1.now = (t.now + o.toNat) % 2 ^ 64 ∧ (correctTime t o).1.slew = 0) ∧
    (o < -1000 → (correctTime t o).1.now = t.now ∧ (correctTime t o).1.half = (-o).toNat) ∧
    (o < -1000 ∨ 1000 < o → (correctTime t o).2 = true) := by
  refine ⟨fun hlow hhigh => ?_, fun h => ?_, fun h => ?_, fun h => ?_⟩
  · rw [correctTime_slew hfull hlow hhigh]
    exact ⟨rfl, rfl⟩
  · rw [correctTime_step hfull h]
    exact ⟨rfl, rfl⟩
  · rw [correctTime_half hfull h]
    exact ⟨rfl, rfl⟩
  · rcases h with h | h
    · rw [correctTime_half hfull h]
    · rw [correctTime_step hfull h]

end

/-! ## A time record, and a correction of a package (R438, R441, R442) -/

theorem eventClosed_time (t : TimeSt) : EventClosed fun q => q.base.time = t :=
  ⟨fun _ _ h => h, fun _ h => h, fun _ h => h, fun _ h => h, fun _ h => h⟩

theorem raise_time (p : Package) {a : Nat} (ha : offOf a = 0) (bit : Nat) (c : Capt) : (raise p a bit c).base.time = p.base.time :=
  (eventClosed_time p.base.time).keeps_raise ha rfl bit c

section
variable (p : Package) (sev kind port : Nat) (o : Int)

theorem timeRecord_time : (timeRecord p sev kind port o).base.time = p.base.time := by
  have hP := eventClosed_time p.base.time
  have hring := hP.keeps_ringAppend rfl 4 sev 0 (timePayload kind port o)
  exact iteInduction (motive := fun q : Package => q.base.time = p.base.time) (fun _ => hP.keeps_raise (offOf_pg 0 3) hring 2 {})
    fun _ => hring

theorem sameRegs_timeRecord : SameRegs p (timeRecord p sev kind port o) := by
  have hring := sameRegs_ringAppend p 4 sev 0 (timePayload kind port o)
  exact .ite (hring.trans (sameRegs_raise _ (offOf_pg 0 3) 2 {})) hring

theorem keepsEvents_timeRecord : KeepsEvents p (timeRecord p sev kind port o) := by
  have hring := keepsEvents_ringAppend p 4 sev 0 (timePayload kind port o)
  exact .ite (hring.trans (keepsEvents_raise _ (offOf_pg 0 3) 2 {})) hring

end

theorem offOf_hubPage (i : Nat) : offOf (hubPage i) = 0 := offOf_pg 0 i

/-- Two time registers of the ring page. -/
theorem rp_ne {off off' : Nat} (h : off ≠ off') : rp off ≠ rp off' := by simp only [rp]; omega

theorem rp_notMem {off : Nat} (hlt : off < 0x1000) (h : off ∉ eventOffs) : offOf (rp off) ∉ eventOffs := by
  rw [rp, offOf_page_add (offOf_hubPage 3) hlt]
  exact h

section
variable (p : Package) (o : Int)

/-- The package with its clock corrected and the offset shown. -/
def offsetShown : Package :=
  (p.mapBase fun b => setTime b (correctTime p.base.time o).1).wr (rp Off.TIME_OFFSET)
    (toTwos 32 (max (-(2 ^ 31 - 1)) (min (2 ^ 31 - 1) o)))

/-- The same with the step counted. -/
def stepCounted : Package := (offsetShown p o).mapBase fun b => bumpSat b (rp Off.TIME_STEPS) 1

theorem pkgCorrect_eq : pkgCorrect p o = if (correctTime p.base.time o).2 then
    timeRecord (raise (stepCounted p o) (hubPage 3) 0 {}) 0 1 ((stepCounted p o).rdF (rp Off.TIME_STAT) 12 8) o
    else offsetShown p o := rfl

theorem pkgCorrect_time : (pkgCorrect p o).base.time = (correctTime p.base.time o).1 := by
  rw [pkgCorrect_eq]
  split
  · rw [timeRecord_time, raise_time _ (offOf_hubPage 3)]
    rfl
  · rfl

/-- A correction writes no register of the page's time but the offset and the count of steps. -/
theorem rd_pkgCorrect {off : Nat} (hoff : off = Off.TIME_STAT ∨ off = Off.TIME_FLIGHT) :
    (pkgCorrect p o).rd (rp off) = p.rd (rp off) := by
  have hapart : off ≠ Off.TIME_OFFSET ∧ off ≠ Off.TIME_STEPS ∧ off < 0x1000 ∧ off ∉ eventOffs := by
    rcases hoff with rfl | rfl <;> decide
  obtain ⟨hoffset, hsteps, hlt, hnone⟩ := hapart
  have hevent := rp_notMem hlt hnone
  have hshown : (offsetShown p o).rd (rp off) = p.rd (rp off) := Package.rd_wr_ne _ _ (rp_ne hoffset)
  have hcounted : (stepCounted p o).rd (rp off) = (offsetShown p o).rd (rp off) := Package.rd_wr_ne _ _ (rp_ne hsteps)
  rw [pkgCorrect_eq]
  split
  · rw [sameRegs_timeRecord _ _ _ _ _ _ hevent, sameRegs_raise _ (offOf_hubPage 3) _ _ _ hevent, hcounted, hshown]
  · exact hshown

theorem rd_steps_pkgCorrect (h : (correctTime p.base.time o).2 = true) :
    (pkgCorrect p o).rd (rp Off.TIME_STEPS) = satAdd 0xFFFFFFFF (p.rd (rp Off.TIME_STEPS)) 1 := by
  have hevent : offOf (rp Off.TIME_STEPS) ∉ eventOffs := rp_notMem (by decide) (by decide)
  have hshown : (offsetShown p o).rd (rp Off.TIME_STEPS) = p.rd (rp Off.TIME_STEPS) := Package.rd_wr_ne _ _ (rp_ne (by decide))
  have hlt : satAdd 0xFFFFFFFF ((offsetShown p o).rd (rp Off.TIME_STEPS)) 1 < 2 ^ 32 := by simp only [satAdd]; omega
  have hcounted : (stepCounted p o).rd (rp Off.TIME_STEPS) = satAdd 0xFFFFFFFF ((offsetShown p o).rd (rp Off.TIME_STEPS)) 1 :=
    (Package.rd_wr_self (offsetShown p o) (rp Off.TIME_STEPS) _).trans (Nat.mod_eq_of_lt hlt)
  rw [pkgCorrect_eq, if_pos h, sameRegs_timeRecord _ _ _ _ _ _ hevent, sameRegs_raise _ (offOf_hubPage 3) _ _ _ hevent, hcounted, hshown]

end

/-! ## The source of a package's time (R438–R440, R442) -/

theorem lt_of_sourcePort {b : Base} {q : Nat} (h : sourcePort b = some q) : q < 18 := List.mem_range.mp (List.mem_of_find?_eq_some h)

section
variable (p : Package) (q : Nat)

/-- The clock stands apart from the registers. -/
theorem Package.rd_setTime (f : Base → TimeSt) (c : Nat) : (p.mapBase fun b => setTime b (f b)).rd c = p.rd c := rfl

theorem rd_setSource (c : Nat) : (setSource p q).rd c = ((p.wrF (rp Off.TIME_STAT) 12 8 q).wrF (rp Off.TIME_FLIGHT) 15 0
    (min 0xFFFF ((p.wrF (rp Off.TIME_STAT) 12 8 q).base.port q).flight)).rd c := Package.rd_setTime _ _ c

theorem rd_setSource_stat : (setSource p q).rd (rp Off.TIME_STAT) = (p.wrF (rp Off.TIME_STAT) 12 8 q).rd (rp Off.TIME_STAT) := by
  rw [rd_setSource, Package.rd_wrF, if_neg (rp_ne (by decide))]

theorem rdF_setSource_port (hq : q < 18) : (setSource p q).rdF (rp Off.TIME_STAT) 12 8 = q := by
  have hfield : (p.wrF (rp Off.TIME_STAT) 12 8 q).rdF (rp Off.TIME_STAT) 12 8 = q % 2 ^ 5 :=
    Package.rdF_wrF_self p _ q (by decide) (by decide)
  exact (congrArg (fun v => fld v 12 8) (rd_setSource_stat p q)).trans (hfield.trans (Nat.mod_eq_of_lt (by omega)))

theorem locked_setSource : bitOf ((setSource p q).rd (rp Off.TIME_STAT)) 0 = bitOf (p.rd (rp Off.TIME_STAT)) 0 := by
  rw [rd_setSource_stat, Package.rd_wrF, if_pos rfl, bitOf_mod_two_pow _ (by decide), bitOf_setFld _ _ (by decide), if_neg (by decide)]

/-- The package as its source port's frame locks it, before the correction. -/
def sourceLocked : Package :=
  ((setSource p q).wrF (rp Off.TIME_STAT) 0 0 1).mapBase fun b => setTime b { b.time with lastRef := b.time.raw }

theorem takeTiming_eq (tSend : Nat) : takeTiming p q tSend =
    pkgCorrect (sourceLocked p q) ((tSend : Int) + ((p.base.port q).flight : Int) - (p.base.gtime : Int)) := rfl

theorem rd_sourceLocked (c : Nat) : (sourceLocked p q).rd c = ((setSource p q).wrF (rp Off.TIME_STAT) 0 0 1).rd c :=
  Package.rd_setTime _ _ c

theorem locked_sourceLocked : bitOf ((sourceLocked p q).rd (rp Off.TIME_STAT)) 0 = true := by
  rw [rd_sourceLocked, Package.rd_wrF, if_pos rfl, bitOf_mod_two_pow _ (by decide), bitOf_setFld _ _ (by decide), if_pos (by decide)]
  decide

theorem rdF_sourceLocked_port (hq : q < 18) : (sourceLocked p q).rdF (rp Off.TIME_STAT) 12 8 = q := by
  have hfield : ((setSource p q).wrF (rp Off.TIME_STAT) 0 0 1).rdF (rp Off.TIME_STAT) 12 8 = (setSource p q).rdF (rp Off.TIME_STAT) 12 8 :=
    Package.rdF_wrF_apart _ _ _ (by decide) (by decide) (.inr (by decide))
  have hsame : (sourceLocked p q).rdF (rp Off.TIME_STAT) 12 8 = ((setSource p q).wrF (rp Off.TIME_STAT) 0 0 1).rdF (rp Off.TIME_STAT) 12 8 :=
    congrArg (fun v => fld v 12 8) (rd_sourceLocked p q (rp Off.TIME_STAT))
  exact hsame.trans (hfield.trans (rdF_setSource_port p q hq))

theorem rd_sourceLocked_steps : (sourceLocked p q).rd (rp Off.TIME_STEPS) = p.rd (rp Off.TIME_STEPS) := by
  rw [rd_sourceLocked, Package.rd_wrF, if_neg (rp_ne (by decide)), rd_setSource, Package.rd_wrF, if_neg (rp_ne (by decide)),
    Package.rd_wrF, if_neg (rp_ne (by decide))]

end

theorem timingFrame_of_source {p : Package} {q : Nat} (tSend tRecv : Nat) (h : sourcePort p.base = some q) :
    timingFrame p q tSend tRecv false = takeTiming p q tSend := by
  rw [timingFrame, if_neg (by decide), if_pos h]

theorem timingFrame_of_reply {p : Package} {q t1 : Nat} (tSend tRecv : Nat) (hverify : (p.base.port q).phase = 5)
    (h : (p.base.port q).timingT1 = some t1) : timingFrame p q tSend tRecv true =
      p.mapBase fun b => b.setPort q { b.port q with
        flight := (((p.base.gtime : Int) - (t1 : Int) - ((tSend : Int) - (tRecv : Int))) / 2).toNat, timingT1 := none } := by
  rw [timingFrame, if_pos rfl, if_pos hverify, takeReply, h]

/-- The package that has lost its source: no longer LOCKED, with the event and the record (R440). -/
def sourceLost (p : Package) : Package :=
  let last := p.rdF (rp Off.TIME_STAT) 12 8
  timeRecord (raise (p.wrF (rp Off.TIME_STAT) 0 0 0) (hubPage 3) 1 { c2 := last }) 2 2 last 0

theorem timeUnlock_of_lost {p : Package} (hlocked : bitOf (p.rd (rp Off.TIME_STAT)) 0 = true)
    (h : sourcePort p.base = none ∨ sourcePort p.base = some (p.rdF (rp Off.TIME_STAT) 12 8)) : timeUnlock p = sourceLost p := by
  have hlost : (if pkgLocked p then sourceLost p else p) = sourceLost p := if_pos hlocked
  rw [timeUnlock]
  rcases h with h | h
  · simp only [h]
    exact hlost
  · simp only [h]
    exact (if_pos trivial).trans hlost

theorem timeUnlock_of_other {p : Package} {q : Nat} (h : sourcePort p.base = some q) (hne : q ≠ p.rdF (rp Off.TIME_STAT) 12 8) :
    timeUnlock p = setSource p q := by
  rw [timeUnlock]
  simp only [h]
  exact if_neg hne

theorem locked_sourceLost (p : Package) : bitOf ((sourceLost p).rd (rp Off.TIME_STAT)) 0 = false := by
  have hevent : offOf (rp Off.TIME_STAT) ∉ eventOffs := rp_notMem (by decide) (by decide)
  rw [sourceLost, sameRegs_timeRecord _ _ _ _ _ _ hevent, sameRegs_raise _ (offOf_hubPage 3) _ _ _ hevent, Package.rd_wrF, if_pos rfl,
    bitOf_mod_two_pow _ (by decide), bitOf_setFld _ _ (by decide), if_pos (by decide)]
  decide

theorem raised_sourceLost (p : Package) : bitOf ((sourceLost p).rd (hubPage 3 + Off.EVT_STAT)) 1 = true :=
  keepsEvents_timeRecord _ 2 2 _ 0 _ _ (offOf_page_add (offOf_hubPage 3) (by decide)) (by decide)
    (bitOf_raise _ (offOf_hubPage 3) _ (by decide))

/-! ## The Weir (R436, R437) -/

theorem timesyncEdge_locked (b : Base) : bitOf (rd (timesyncEdge b) 0x5000C) 0 = true := by
  unfold timesyncEdge
  rw [wrF, rd_wr, if_pos rfl, bitOf_mod_two_pow _ (by decide), bitOf_setFld _ _ (by decide), if_pos (by decide)]
  decide

theorem timesyncEdge_armed {b : Base} {v : Nat} (h : b.time.secondsArmed = some v) :
    (timesyncEdge b).time.now = v * 1000000000 % 2 ^ 64 ∧ (timesyncEdge b).time.secondsArmed = none := by
  simp only [timesyncEdge, h]
  exact ⟨rfl, rfl⟩

theorem timesyncEdge_unarmed {b : Base} (h : b.time.secondsArmed = none) (hfull : b.time.half = 0)
    (hlow : -1000 ≤ (nearestSecond b.gtime : Int) - b.gtime) (hhigh : (nearestSecond b.gtime : Int) - b.gtime ≤ 1000) :
    (timesyncEdge b).time.slew = (nearestSecond b.gtime : Int) - b.gtime ∧ (timesyncEdge b).time.now = b.time.now := by
  have hslew : weirCorrect b ((nearestSecond b.gtime : Int) - b.gtime) =
      setTime b { b.time with slew := (nearestSecond b.gtime : Int) - b.gtime, half := 0 } := by
    simp only [weirCorrect, correctTime_slew hfull hlow hhigh]
    rfl
  simp only [timesyncEdge, h, hslew]
  exact ⟨rfl, rfl⟩

/-- A frame leaves port `q` where it is ACTIVE (R437). -/
def timingStep (w : Weir) (q : Nat) : Weir :=
  if portUp w.base q then w.mapBase fun b => b.setPort q ((b.port q).sendTiming
    { tSend := b.gtime, tRecv := 0, reply := false, locked := weirLocked b })
  else w

theorem timingSend_eq (w : Weir) : timingSend w = (List.range 64).foldl timingStep w := rfl

/-- Once a frame has left each of the first `n` ports that are ACTIVE, the ports alone differ. -/
theorem timingStep_upto (w : Weir) (n : Nat) : ∃ ports,
    (List.range n).foldl timingStep w = w.mapBase (fun b => { b with ports := ports }) ∧
    ∀ q, mget {} ports q = if q < n ∧ portState w.base q = 7 then
        (w.base.port q).sendTiming { tSend := w.base.gtime, tRecv := 0, reply := false, locked := weirLocked w.base }
      else w.base.port q := by
  induction n with
  | zero => exact ⟨w.base.ports, rfl, fun q => (if_neg (by omega)).symm⟩
  | succ n ih =>
    obtain ⟨ports, hfold, hports⟩ := ih
    rw [List.range_succ, List.foldl_append, hfold, List.foldl_cons, List.foldl_nil]
    have hlast : mget {} ports n = w.base.port n := (hports n).trans (if_neg (by omega))
    by_cases hup : portState w.base n = 7
    · have hsends : portUp (w.mapBase fun b => { b with ports := ports }).base n = true := decide_eq_true hup
      refine ⟨mset ports n ((mget ({} : Port) ports n).sendTiming
        { tSend := w.base.gtime, tRecv := 0, reply := false, locked := weirLocked w.base }), ?_, fun q => ?_⟩
      · rw [timingStep, if_pos hsends]
        rfl
      by_cases hq : q = n
      · rw [hq, mget_mset_self, hlast, if_pos ⟨Nat.lt_succ_self n, hup⟩]
      · have hsame : (q < n + 1 ∧ portState w.base q = 7) ↔ (q < n ∧ portState w.base q = 7) := by omega
        rw [mget_mset_ne _ _ _ hq, hports, if_congr hsame rfl rfl]
    · have hquiet : ¬ portUp (w.mapBase fun b => { b with ports := ports }).base n = true := by
        rw [portUp, decide_eq_true_iff]
        exact hup
      refine ⟨ports, if_neg hquiet, fun q => ?_⟩
      have hsame : (q < n + 1 ∧ portState w.base q = 7) ↔ (q < n ∧ portState w.base q = 7) := by
        by_cases hq : q = n
        · subst hq
          simp [hup]
        · omega
      rw [hports, if_congr hsame rfl rfl]

theorem weirSet_seconds (w : Weir) {v : Nat} (hv : v < 2 ^ 32) :
    weirSet 0x50008 v w = w.mapBase fun b => { b with time := { b.time with secondsArmed := some v } } := by
  have hsound : weirFaults 0x50008 4 = false := by decide
  have hfour : weirWrite4 w 0x50008 v = .ok (w.mapBase fun b => { b with time := { b.time with secondsArmed := some v } }) := by
    rw [weirWrite4, if_neg (by decide), if_neg (by decide), if_neg (by decide), if_neg (by decide), if_neg (by decide),
      if_neg (by decide), if_pos rfl]
  rw [weirSet, weirWrite, hsound]
  simp only [Nat.mod_eq_of_lt hv, hfour]
  rfl

/-! ## The rack's time master (R435) -/

theorem ptpSync_locked (r : RackCtl) (o : Int) : (ptpSync r o).ptpLocked = true ∧ (ptpSync r o).firstLock = true := by
  unfold ptpSync
  cases hlock : r.ptpLocked <;> simp only [Bool.false_eq_true, if_false, if_true] <;> split <;> exact ⟨by simp [ownLog, hlock], rfl⟩

theorem ptpSync_first {r : RackCtl} (o : Int) (hfirst : r.firstLock = false) (hplanes : r.planesEnabled = false) :
    (ptpSync r o).time.now = ((r.time.now : Int) + o).toNat % 2 ^ 64 := by
  cases hlock : r.ptpLocked <;> simp [ptpSync, ownLog, hfirst, hplanes, hlock]

theorem ptpSync_later {r : RackCtl} (o : Int) (h : r.firstLock = true ∨ r.planesEnabled = true) :
    (ptpSync r o).time = { r.time with slew := o } := by
  cases hlock : r.ptpLocked <;> rcases h with h | h <;> simp [ptpSync, ownLog, h, hlock]

/-! ## Fragments of global time (R433) -/

theorem extendTime_fragment {g e : Nat} (hlate : e < g + 2 ^ 31) (hearly : g < e + 2 ^ 31) : extendTime g (e % 2 ^ 32) = e := by
  simp only [extendTime]
  split <;> omega

/-! ## The executors -/

theorem exec_timingFrame (s : State) (k q tSend tRecv : Nat) (reply : Bool) : exec (.timingFrame k q tSend tRecv reply) s =
    .next (setPkg s k { timingFrame (pkgOf s k) q tSend tRecv reply with mem := (pkgOf s k).mem }) := rfl

theorem exec_timeUnlock (s : State) (k : Nat) : exec (.timeUnlock k) s =
    .next (setPkg s k { timeUnlock (pkgOf s k) with mem := (pkgOf s k).mem }) := rfl

theorem exec_packageTimesyncEdge (s : State) (k : Nat) : exec (.packageTimesyncEdge k) s =
    .next (setPkg s k { (if pkgLocked (pkgOf s k) then pkgOf s k else
      pkgCorrect (pkgOf s k) ((nearestSecond (pkgOf s k).base.gtime : Int) - ((pkgOf s k).base.gtime : Int))) with
      mem := (pkgOf s k).mem }) := rfl

theorem exec_ptpLockLoss {s : State} {rack : Nat} (h : (rcOf s rack).ptpLocked = true) : exec (.ptpLockLoss rack) s =
    .next (setRc s rack (ownLog { rcOf s rack with ptpLocked := false, time := { (rcOf s rack).time with slew := 0 } } 0)) := by
  have hexec : exec (.ptpLockLoss rack) s = execPtpLockLoss rack s := rfl
  rw [hexec, execPtpLockLoss, onRc, if_pos h]

/-- Settles O43: a frame and an edge by the correction they make, a lost source by what takes its place, the Weir's ports one by one. -/
theorem globalTime : Obligations.GlobalTime := by
  unfold Obligations.GlobalTime
  refine ⟨fun s k q tSend tRecv => ⟨fun hsource hfull => ?_, fun t1 hverify hsent => ?_⟩,
    fun s k => ⟨fun hlost hlocked => ?_, fun q hsource hne => ?_, ?_⟩,
    fun s w v => ⟨⟨_, rfl, ?_, ?_, ?_⟩, fun hv => ?_, ?_, rfl⟩, fun s rack o => ⟨⟨_, rfl, ?_⟩, fun hlock => ?_⟩,
    fun g e => extendTime_fragment⟩
  · refine ⟨_, exec_timingFrame s k q tSend tRecv false, ?_⟩
    rw [pkgOf_setPkg_self, timingFrame_of_source tSend tRecv hsource, takeTiming_eq]
    have hstat (o : Int) : (pkgCorrect (sourceLocked (pkgOf s k) q) o).rd (rp Off.TIME_STAT) =
        (sourceLocked (pkgOf s k) q).rd (rp Off.TIME_STAT) := rd_pkgCorrect _ o (.inl rfl)
    have hq := lt_of_sourcePort hsource
    obtain ⟨hslew, hstep, hhalf, hcount⟩ := correctTime_cases (t := (sourceLocked (pkgOf s k) q).base.time)
      (o := (tSend : Int) + ((pkgOf s k).base.port q).flight - (pkgOf s k).base.gtime) hfull
    refine ⟨(congrArg (fun v => bitOf v 0) (hstat _)).trans (locked_sourceLocked _ q),
      (congrArg (fun v => fld v 12 8) (hstat _)).trans (rdF_sourceLocked_port _ q hq), fun hlow hhigh => ?_, fun h => ?_, fun h => ?_,
      fun h => ?_⟩
    · exact ⟨(congrArg TimeSt.now (pkgCorrect_time _ _)).trans (hslew hlow hhigh).1,
        (congrArg TimeSt.slew (pkgCorrect_time _ _)).trans (hslew hlow hhigh).2⟩
    · exact ⟨(congrArg TimeSt.now (pkgCorrect_time _ _)).trans (hstep h).1,
        (congrArg TimeSt.slew (pkgCorrect_time _ _)).trans (hstep h).2⟩
    · exact ⟨(congrArg TimeSt.now (pkgCorrect_time _ _)).trans (hhalf h).1,
        (congrArg TimeSt.half (pkgCorrect_time _ _)).trans (hhalf h).2⟩
    · exact (rd_steps_pkgCorrect _ _ (hcount h)).trans
        (congrArg (fun v => satAdd 0xFFFFFFFF v 1) (rd_sourceLocked_steps (pkgOf s k) q))
  · refine ⟨_, exec_timingFrame s k q tSend tRecv true, ?_⟩
    rw [pkgOf_setPkg_self, timingFrame_of_reply tSend tRecv hverify hsent]
    have hport : mget {} (mset (pkgOf s k).base.ports q { (pkgOf s k).base.port q with
      flight := ((((pkgOf s k).base.gtime : Int) - t1 - ((tSend : Int) - tRecv)) / 2).toNat, timingT1 := none }) q = _ :=
      mget_mset_self _ _ _ _
    exact ⟨congrArg Port.flight hport, congrArg Port.timingT1 hport, rfl⟩
  · refine ⟨_, exec_timeUnlock s k, ?_⟩
    rw [pkgOf_setPkg_self, timeUnlock_of_lost hlocked hlost]
    exact ⟨locked_sourceLost _, raised_sourceLost _⟩
  · refine ⟨_, exec_timeUnlock s k, ?_⟩
    rw [pkgOf_setPkg_self, timeUnlock_of_other hsource hne]
    exact ⟨rdF_setSource_port _ q (lt_of_sourcePort hsource), locked_setSource _ q⟩
  · refine ⟨_, exec_packageTimesyncEdge s k, fun hlocked => ?_, fun hopen hfull => ?_⟩
    · rw [if_pos (show pkgLocked (pkgOf s k) = true from hlocked)]
    · rw [pkgOf_setPkg_self, if_neg (Bool.eq_false_iff.mp (show pkgLocked (pkgOf s k) = false from hopen))]
      obtain ⟨hslew, hstep, -, -⟩ := correctTime_cases (t := (pkgOf s k).base.time)
        (o := (nearestSecond (pkgOf s k).base.gtime : Int) - ((pkgOf s k).base.gtime : Int)) hfull
      exact ⟨fun hlow hhigh => ⟨(congrArg TimeSt.slew (pkgCorrect_time _ _)).trans (hslew hlow hhigh).2,
          (congrArg TimeSt.now (pkgCorrect_time _ _)).trans (hslew hlow hhigh).1⟩,
        fun h => (congrArg TimeSt.now (pkgCorrect_time _ _)).trans (hstep h).1⟩
  · rw [weirOf_setWeir_self]
    exact timesyncEdge_locked _
  · rw [weirOf_setWeir_self]
    exact fun v harmed => timesyncEdge_armed harmed
  · rw [weirOf_setWeir_self]
    exact fun hnone hfull ⟨hlow, hhigh⟩ => timesyncEdge_unarmed hnone hfull hlow hhigh
  · exact congrArg (fun x => Host.Outcome.next (setWeir s w x)) (weirSet_seconds (weirOf s w) hv)
  · refine ⟨_, rfl, fun q => ?_⟩
    obtain ⟨ports, hfold, hports⟩ := timingStep_upto (weirOf s w) 64
    rw [weirOf_setWeir_self, timingSend_eq, hfold]
    exact hports q
  · rw [rcOf_setRc_self]
    obtain ⟨hlock, hfirst⟩ := ptpSync_locked (rcOf s rack) o
    exact ⟨hlock, hfirst, ptpSync_first o, ptpSync_later o⟩
  · refine ⟨_, exec_ptpLockLoss hlock, ?_⟩
    rw [rcOf_setRc_self]
    exact ⟨rfl, rfl⟩

end Sys2Proof.Machine
end

section
/-! PROOFS. The parts of the span, as a tray controller changes one of them: what each change reads back, and what it leaves
(R373, R381, R390). -/

namespace Sys2Proof.Machine

/-! ## The parts that stand apart -/

/-- Two states with the same packages and Weirs. -/
structure SameElems (s t : State) : Prop where
  pkgs : t.pkgs = s.pkgs
  weirs : t.weirs = s.weirs

theorem SameElems.refl (s : State) : SameElems s s := ⟨rfl, rfl⟩
theorem SameElems.trans {s t u : State} (h : SameElems s t) (g : SameElems t u) : SameElems s u :=
  ⟨g.pkgs.trans h.pkgs, g.weirs.trans h.weirs⟩

/-- Two states with the same tray controllers and rack controllers. -/
structure SameCtls (s t : State) : Prop where
  tcs : t.tcs = s.tcs
  rcs : t.rcs = s.rcs

theorem SameCtls.refl (s : State) : SameCtls s s := ⟨rfl, rfl⟩
theorem SameCtls.trans {s t u : State} (h : SameCtls s t) (g : SameCtls t u) : SameCtls s u :=
  ⟨g.tcs.trans h.tcs, g.rcs.trans h.rcs⟩
theorem SameCtls.ite {s t u : State} {c : Prop} [Decidable c] (h : SameCtls s t) (g : SameCtls s u) :
    SameCtls s (if c then t else u) := by
  split
  · exact h
  · exact g

theorem SameElems.pkgOf {s t : State} (h : SameElems s t) (k : Nat) : pkgOf t k = pkgOf s k := by rw [Machine.pkgOf, h.pkgs]; rfl
theorem SameElems.weirOf {s t : State} (h : SameElems s t) (k : Nat) : weirOf t k = weirOf s k := by rw [Machine.weirOf, h.weirs]; rfl
theorem SameElems.baseOf {s t : State} (h : SameElems s t) (e : Elem) : baseOf t e = baseOf s e := by
  cases e with
  | pkg k => exact congrArg Package.base (h.pkgOf k)
  | weir k => exact congrArg Weir.base (h.weirOf k)
theorem SameElems.sealedElem {s t : State} (h : SameElems s t) (e : Elem) : sealedElem t e = sealedElem s e := by
  cases e with
  | pkg k => exact congrArg isSealed (h.pkgOf k)
  | weir k => rfl

theorem SameCtls.tcOf {s t : State} (h : SameCtls s t) (k : Nat) : tcOf t k = tcOf s k := by rw [Machine.tcOf, h.tcs]; rfl
theorem SameCtls.rcOf {s t : State} (h : SameCtls s t) (k : Nat) : rcOf t k = rcOf s k := by rw [Machine.rcOf, h.rcs]; rfl
theorem SameCtls.posOf {s t : State} (h : SameCtls s t) (tc pos : Nat) : posOf t tc pos = posOf s tc pos := by
  rw [Machine.posOf, h.tcOf]; rfl

/-! ## An element changed -/

section
variable (s : State) (e : Elem)

theorem sameCtls_modElem (fp : Package → Package) (fw : Weir → Weir) : SameCtls s (modElem s e fp fw) := by
  cases e <;> exact ⟨rfl, rfl⟩

theorem sameCtls_modBase (f : Base → Base) : SameCtls s (modBase s e f) := sameCtls_modElem s e _ _
theorem sameCtls_lowReset : SameCtls s (lowReset s e) := sameCtls_modElem s e _ _
theorem sameCtls_freeReset : SameCtls s (freeReset s e) := sameCtls_modElem s e _ _
theorem sameCtls_pulseReset : SameCtls s (pulseReset s e) := (sameCtls_lowReset s e).trans (sameCtls_freeReset _ e)
theorem sameCtls_lowPorst : SameCtls s (lowPorst s e) := sameCtls_modElem s e _ _
theorem sameCtls_freePorst : SameCtls s (freePorst s e) := sameCtls_modElem s e _ _

@[simp] theorem baseOf_modBase_self (f : Base → Base) : baseOf (modBase s e f) e = f (baseOf s e) := by
  cases e with
  | pkg k => exact congrArg Package.base (pkgOf_setPkg_self s k _)
  | weir k => exact congrArg Weir.base (weirOf_setWeir_self s k _)

end

section
variable {s t : State} (h : SameElems s t) (e : Elem)
include h

/-- An element changes alike in two states with the same elements. -/
theorem SameElems.modElem (fp : Package → Package) (fw : Weir → Weir) : SameElems (modElem s e fp fw) (modElem t e fp fw) := by
  cases e with
  | pkg k => exact ⟨by simp only [Machine.modElem, modPkg, setPkg, h.pkgs, h.pkgOf], h.weirs⟩
  | weir k => exact ⟨h.pkgs, by simp only [Machine.modElem, modWeir, setWeir, h.weirs, h.weirOf]⟩

theorem SameElems.lowReset : SameElems (lowReset s e) (lowReset t e) := h.modElem e _ _
theorem SameElems.pulseReset : SameElems (pulseReset s e) (pulseReset t e) := (h.modElem e _ _).modElem e _ _
theorem SameElems.freePorst : SameElems (freePorst s e) (freePorst t e) := h.modElem e _ _

end

/-! ## A tray controller changed -/

section
variable (s : State) (tc : Nat)

theorem sameElems_logAt (pos sev code : Nat) (data : Bytes) : SameElems s (logAt s tc pos sev code data) := ⟨rfl, rfl⟩

@[simp] theorem rcOf_modPos (pos r : Nat) (f : Position → Position) : rcOf (modPos s tc pos f) r = rcOf s r := rfl
@[simp] theorem rcOf_modCool (r : Nat) (f : CoolSt → CoolSt) : rcOf (modCool s tc f) r = rcOf s r := rfl
@[simp] theorem rcOf_logAt (pos sev code r : Nat) (data : Bytes) : rcOf (logAt s tc pos sev code data) r = rcOf s r := rfl
@[simp] theorem rcOf_logTc (source sev code r : Nat) (data : Bytes) : rcOf (logTc s tc source sev code data) r = rcOf s r := rfl

@[simp] theorem tcOf_report (rack subject j : Nat) (name : String) : tcOf (report s rack name subject) j = tcOf s j := rfl
@[simp] theorem tcOf_reportPos (pos j : Nat) (name : String) : tcOf (reportPos s tc pos name) j = tcOf s j := rfl
@[simp] theorem tcOf_rcAnswer (rack subject http j : Nat) (name : String) : tcOf (rcAnswer s rack name subject http) j = tcOf s j := rfl

@[simp] theorem posOf_modRc (rack pos : Nat) (f : RackCtl → RackCtl) : posOf (modRc s rack f) tc pos = posOf s tc pos := rfl
@[simp] theorem posOf_report (rack subject pos : Nat) (name : String) : posOf (report s rack name subject) tc pos = posOf s tc pos := rfl
@[simp] theorem posOf_reportPos (j pos p : Nat) (name : String) : posOf (reportPos s j pos name) tc p = posOf s tc p := rfl
@[simp] theorem posOf_rcAnswer (rack subject http pos : Nat) (name : String) :
    posOf (rcAnswer s rack name subject http) tc pos = posOf s tc pos := rfl

theorem tcOf_logAt (pos sev code : Nat) (data : Bytes) :
    tcOf (logAt s tc pos sev code data) tc = logRecord (logSource tc pos) sev code data (tcOf s tc) := tcOf_modTc s tc _
theorem tcOf_logTc (source sev code : Nat) (data : Bytes) :
    tcOf (logTc s tc source sev code data) tc = logRecord source sev code data (tcOf s tc) := tcOf_modTc s tc _
theorem tcOf_modPos (pos : Nat) (f : Position → Position) :
    tcOf (modPos s tc pos f) tc = { tcOf s tc with positions := mupd {} (tcOf s tc).positions pos f } := tcOf_modTc s tc _
theorem tcOf_modCool (f : CoolSt → CoolSt) : tcOf (modCool s tc f) tc = { tcOf s tc with cool := f (tcOf s tc).cool } :=
  tcOf_modTc s tc _

/-- What a log record leaves of its tray controller. -/
@[simp] theorem posOf_logAt (pos sev code p : Nat) (data : Bytes) : posOf (logAt s tc pos sev code data) tc p = posOf s tc p :=
  (logAt_frame s tc pos sev code data).2.2.2.1 p
@[simp] theorem cool_logAt (pos sev code : Nat) (data : Bytes) : (tcOf (logAt s tc pos sev code data) tc).cool = (tcOf s tc).cool :=
  (congrArg TrayCtl.cool (tcOf_logAt s tc pos sev code data)).trans rfl
@[simp] theorem now_logAt (pos sev code : Nat) (data : Bytes) : (tcOf (logAt s tc pos sev code data) tc).now = (tcOf s tc).now :=
  (congrArg TrayCtl.now (tcOf_logAt s tc pos sev code data)).trans rfl
@[simp] theorem posOf_logTc (source sev code p : Nat) (data : Bytes) : posOf (logTc s tc source sev code data) tc p = posOf s tc p :=
  (congrArg (fun t : TrayCtl => mget ({} : Position) t.positions p) (tcOf_logTc s tc source sev code data)).trans rfl
@[simp] theorem cool_logTc (source sev code : Nat) (data : Bytes) : (tcOf (logTc s tc source sev code data) tc).cool = (tcOf s tc).cool :=
  (congrArg TrayCtl.cool (tcOf_logTc s tc source sev code data)).trans rfl

@[simp] theorem cool_modPos (pos : Nat) (f : Position → Position) : (tcOf (modPos s tc pos f) tc).cool = (tcOf s tc).cool :=
  (congrArg TrayCtl.cool (tcOf_modPos s tc pos f)).trans rfl
@[simp] theorem now_modPos (pos : Nat) (f : Position → Position) : (tcOf (modPos s tc pos f) tc).now = (tcOf s tc).now :=
  (congrArg TrayCtl.now (tcOf_modPos s tc pos f)).trans rfl
@[simp] theorem log_modPos (pos : Nat) (f : Position → Position) : (tcOf (modPos s tc pos f) tc).log = (tcOf s tc).log :=
  (congrArg TrayCtl.log (tcOf_modPos s tc pos f)).trans rfl
@[simp] theorem lseq_modPos (pos : Nat) (f : Position → Position) : (tcOf (modPos s tc pos f) tc).lseq = (tcOf s tc).lseq :=
  (congrArg TrayCtl.lseq (tcOf_modPos s tc pos f)).trans rfl

theorem posOf_modPos_ne {pos p : Nat} (f : Position → Position) (h : p ≠ pos) : posOf (modPos s tc pos f) tc p = posOf s tc p := by
  rw [posOf, modPos, tcOf_modTc]
  exact mget_mset_ne _ _ _ h

/-- Two changes of a position that give it the same are the same. -/
theorem modPos_congr {pos : Nat} {f g : Position → Position} (h : f (posOf s tc pos) = g (posOf s tc pos)) :
    modPos s tc pos f = modPos s tc pos g :=
  congrArg (fun x => setTc s tc { tcOf s tc with positions := mset (tcOf s tc).positions pos x }) h

@[simp] theorem cool_modCool (f : CoolSt → CoolSt) : (tcOf (modCool s tc f) tc).cool = f (tcOf s tc).cool :=
  (congrArg TrayCtl.cool (tcOf_modCool s tc f)).trans rfl
@[simp] theorem posOf_modCool (f : CoolSt → CoolSt) (p : Nat) : posOf (modCool s tc f) tc p = posOf s tc p :=
  (congrArg (fun t : TrayCtl => mget ({} : Position) t.positions p) (tcOf_modCool s tc f)).trans rfl

/-- The last record of the log. -/
theorem log_logAt (pos sev code : Nat) (data : Bytes) : (tcOf (logAt s tc pos sev code data) tc).log.getLast? =
    some (logBytes (tcOf s tc) (logSource tc pos) sev code data) := (logAt_frame s tc pos sev code data).2.2.2.2

/-- A record's bytes are of the controller's number and time alone. -/
theorem logBytes_congr {t u : TrayCtl} (hseq : u.lseq = t.lseq) (hnow : u.now = t.now) (source sev code : Nat) (data : Bytes) :
    logBytes u source sev code data = logBytes t source sev code data := by
  rw [logBytes, hseq, hnow]
  rfl

end

/-! ## Messages (R390) -/

section
variable (s : State)

/-- What is reported is among the messages. -/
theorem mem_report (rack subject : Nat) (name : String) :
    ({ name := name, subject := subject, http := 0 } : RfMsg) ∈ (rcOf (report s rack name subject) rack).msgs := by
  rw [report_msgs]
  exact List.mem_append_right _ (List.mem_singleton_self _)

theorem mem_reportPos (tc pos : Nat) (name : String) :
    ({ name := name, subject := subjectOf tc pos, http := 0 } : RfMsg) ∈ (rcOf (reportPos s tc pos name) (tc / 30)).msgs :=
  mem_report s _ _ name

/-- What is answered is the last message. -/
theorem rcAnswer_last (rack subject http : Nat) (name : String) : (rcOf (rcAnswer s rack name subject http) rack).msgs.getLast? =
    some { name := name, subject := subject, http := http } := by
  rw [rcAnswer, rcOf_modRc]
  exact List.getLast?_concat

end

/-! ## Elements and positions (R15–R17, R373) -/

theorem elemAt_isSome {tc pos : Nat} (h : pos < posCount tc) : ∃ e, elemAt tc pos = some e := by
  rw [elemAt, if_neg (Nat.not_le_of_lt h)]
  split
  · exact ⟨_, rfl⟩
  · exact ⟨_, rfl⟩

theorem lt_of_elemAt {tc pos : Nat} {e : Elem} (h : elemAt tc pos = some e) : pos < posCount tc := by
  rw [elemAt] at h
  split at h
  · exact absurd h (by simp)
  · omega

/-- The number of a package from its position. -/
theorem elemAt_pkg {tc pos k : Nat} (h : elemAt tc pos = some (.pkg k)) : k = tc / 30 * 64 + 4 * (tc % 30) + pos := by
  rw [elemAt] at h
  split at h
  · exact absurd h (by simp)
  · split at h
    · exact (Elem.pkg.inj (Option.some.inj h)).symm
    · exact absurd h (by simp)

/-- An element names its tray controller and its position. -/
theorem tcOfElem_elemAt {tc pos : Nat} {e : Elem} (h : elemAt tc pos = some e) : tcOfElem e = (tc, pos) := by
  have hpos := lt_of_elemAt h
  rw [elemAt, if_neg (Nat.not_le_of_lt hpos)] at h
  by_cases hcompute : isCompute tc = true
  · rw [if_pos hcompute] at h
    rw [posCount, if_pos hcompute] at hpos
    have hlow : tc % 30 < 16 := of_decide_eq_true hcompute
    rw [← Option.some.inj h, tcOfElem]
    exact Prod.ext (by simp only; omega) (by simp only; omega)
  · rw [if_neg hcompute] at h
    rw [posCount, if_neg hcompute] at hpos
    by_cases hswitch : isSwitch tc = true
    · rw [if_pos hswitch] at hpos
      obtain ⟨hlow, hhigh⟩ : 16 ≤ tc % 30 ∧ tc % 30 < 25 := of_decide_eq_true hswitch
      rw [← Option.some.inj h, tcOfElem]
      exact Prod.ext (by simp only; omega) (by simp only; omega)
    · rw [if_neg hswitch] at hpos
      omega

/-- A row about a position that is present. -/
theorem atPos_present {tc pos : Nat} {s : State} {e : Elem} (he : elemAt tc pos = some e) (hp : (posOf s tc pos).present = true)
    (f : State → Elem → State) : atPos tc pos f s = .next (f s e) := by
  simp only [atPos, he]
  rw [if_pos hp]

/-- What holds before the first position of a tray, and from each to the next, holds after the last. -/
theorem eachPos_induct {P : Nat → State → Prop} {s : State} {tc : Nat} {f : State → Nat → State} (h0 : P 0 s)
    (hstep : ∀ n t, n < posCount tc → P n t → P (n + 1) (f t n)) : P (posCount tc) (eachPos s tc f) := by
  have hupto : ∀ n, n ≤ posCount tc → P n ((List.range n).foldl f s) := by
    intro n
    induction n with
    | zero => exact fun _ => h0
    | succ n ih =>
      intro hn
      rw [List.range_succ, List.foldl_append]
      exact hstep n _ hn (ih (Nat.le_of_succ_le hn))
  exact hupto _ (Nat.le_refl _)

/-- What each position's part keeps, all of them keep. -/
theorem eachPos_keeps {P : State → Prop} {s : State} {f : State → Nat → State} (tc : Nat) (hstep : ∀ t pos, P t → P (f t pos)) (h : P s) :
    P (eachPos s tc f) := foldl_keeps P f hstep _ s h

end Sys2Proof.Machine
end

section
/-! PROOFS. Holds of PORST_N, and an inlet above 40 °C: what a position and its tray keep (R365, R373, R377). -/

namespace Sys2Proof.Machine

/-- Two states in which a tray's controller differs at one position and in its log, and no rack controller does. -/
structure OnePos (tc pos : Nat) (s t : State) : Prop where
  others : ∀ p, p ≠ pos → posOf t tc p = posOf s tc p
  cool : (tcOf t tc).cool = (tcOf s tc).cool
  rcs : t.rcs = s.rcs

section
variable {tc pos : Nat}

theorem OnePos.refl (s : State) : OnePos tc pos s s := ⟨fun _ _ => rfl, rfl, rfl⟩
theorem OnePos.trans {s t u : State} (h : OnePos tc pos s t) (g : OnePos tc pos t u) : OnePos tc pos s u :=
  ⟨fun p hp => (g.others p hp).trans (h.others p hp), g.cool.trans h.cool, g.rcs.trans h.rcs⟩
theorem SameCtls.onePos {s t : State} (h : SameCtls s t) : OnePos tc pos s t :=
  ⟨fun p _ => h.posOf tc p, congrArg TrayCtl.cool (h.tcOf tc), h.rcs⟩
theorem OnePos.rcOf {s t : State} (h : OnePos tc pos s t) (r : Nat) : rcOf t r = rcOf s r := by rw [Machine.rcOf, h.rcs]; rfl

theorem onePos_modPos (s : State) (f : Position → Position) : OnePos tc pos s (modPos s tc pos f) :=
  ⟨fun _ hp => posOf_modPos_ne s tc f hp, cool_modPos s tc pos f, rfl⟩
theorem onePos_logAt (s : State) (sev code : Nat) (data : Bytes) : OnePos tc pos s (logAt s tc pos sev code data) :=
  ⟨fun p _ => posOf_logAt s tc pos sev code p data, cool_logAt s tc pos sev code data, rfl⟩

end

section
variable {tc pos cause : Nat} {s : State} {e : Elem} (he : elemAt tc pos = some e)
include he

theorem holdPorst_of_held (h : cause ∈ (posOf s tc pos).porstHolds) : holdPorst s tc cause pos = s := by
  simp only [holdPorst, he]
  exact if_pos (List.contains_iff_mem.mpr h)

theorem holdPorst_of_free (h : cause ∉ (posOf s tc pos).porstHolds) : holdPorst s tc cause pos =
    logAt (modPos (if (posOf s tc pos).porstHolds.isEmpty then lowPorst s e else s) tc pos fun x =>
      { x with porstHolds := x.porstHolds ++ [cause], hbSeen := false }) tc pos 1 0x0013 (le 1 1 ++ le 1 cause) := by
  simp only [holdPorst, he]
  exact if_neg fun hc => h (List.contains_iff_mem.mp hc)

theorem releasePorst_of_free (h : cause ∉ (posOf s tc pos).porstHolds) : releasePorst s tc cause pos = s := by
  simp only [releasePorst, he]
  exact if_pos (by simpa using h)

theorem releasePorst_of_held (h : cause ∈ (posOf s tc pos).porstHolds) : releasePorst s tc cause pos =
    logAt (modPos (if ((posOf s tc pos).porstHolds.filter (· ≠ cause)).isEmpty then freePorst s e else s) tc pos fun x =>
      { x with porstHolds := (posOf s tc pos).porstHolds.filter (· ≠ cause) }) tc pos 1 0x0013 (le 1 0 ++ le 1 cause) := by
  simp only [releasePorst, he]
  exact if_neg (by simpa using h)

/-- A position that a cause holds anew. -/
theorem posOf_holdPorst_of_free (h : cause ∉ (posOf s tc pos).porstHolds) : posOf (holdPorst s tc cause pos) tc pos =
    { posOf s tc pos with porstHolds := (posOf s tc pos).porstHolds ++ [cause], hbSeen := false } := by
  have hpin : posOf (if (posOf s tc pos).porstHolds.isEmpty then lowPorst s e else s) tc pos = posOf s tc pos :=
    (SameCtls.ite (sameCtls_lowPorst s e) (.refl s)).posOf tc pos
  rw [holdPorst_of_free he h, posOf_logAt, posOf_modPos, hpin]

theorem mem_holdPorst : cause ∈ (posOf (holdPorst s tc cause pos) tc pos).porstHolds := by
  by_cases h : cause ∈ (posOf s tc pos).porstHolds
  · rwa [holdPorst_of_held he h]
  · rw [posOf_holdPorst_of_free he h]
    exact List.mem_append_right _ (List.mem_singleton_self _)

theorem onePos_holdPorst : OnePos tc pos s (holdPorst s tc cause pos) := by
  by_cases h : cause ∈ (posOf s tc pos).porstHolds
  · rw [holdPorst_of_held he h]
    exact .refl s
  · rw [holdPorst_of_free he h]
    exact ((SameCtls.ite (sameCtls_lowPorst s e) (.refl s)).onePos.trans (onePos_modPos _ _)).trans (onePos_logAt _ _ _ _)

/-- A position that a cause no longer holds. -/
theorem posOf_releasePorst : posOf (releasePorst s tc cause pos) tc pos =
    { posOf s tc pos with porstHolds := (posOf s tc pos).porstHolds.filter (· ≠ cause) } := by
  by_cases h : cause ∈ (posOf s tc pos).porstHolds
  · have hpin : posOf (if ((posOf s tc pos).porstHolds.filter (· ≠ cause)).isEmpty then freePorst s e else s) tc pos = posOf s tc pos :=
      (SameCtls.ite (sameCtls_freePorst s e) (.refl s)).posOf tc pos
    rw [releasePorst_of_held he h, posOf_logAt, posOf_modPos, hpin]
  · have hsame : (posOf s tc pos).porstHolds.filter (· ≠ cause) = (posOf s tc pos).porstHolds :=
      List.filter_eq_self.mpr fun c hc => decide_eq_true fun hcause => h (hcause ▸ hc)
    rw [releasePorst_of_free he h, hsame]

theorem onePos_releasePorst : OnePos tc pos s (releasePorst s tc cause pos) := by
  by_cases h : cause ∈ (posOf s tc pos).porstHolds
  · rw [releasePorst_of_held he h]
    exact ((SameCtls.ite (sameCtls_freePorst s e) (.refl s)).onePos.trans (onePos_modPos _ _)).trans (onePos_logAt _ _ _ _)
  · rw [releasePorst_of_free he h]
    exact .refl s

end

/-! ## The conditions of a tray's coolant (R365) -/

section
variable (s : State) (tc row : Nat)

/-- A condition entered is in force, and no other ends; nothing else of the coolant changes. -/
theorem cool_enterCond : ∃ conds, (tcOf (enterCond s tc row) tc).cool = { (tcOf s tc).cool with conds := conds } ∧ row ∈ conds ∧
    ∀ c ∈ (tcOf s tc).cool.conds, c ∈ conds := by
  unfold enterCond
  split
  case isTrue h => exact ⟨_, rfl, List.contains_iff_mem.mp h, fun _ h => h⟩
  case isFalse =>
    refine ⟨(tcOf s tc).cool.conds ++ [row], ?_, List.mem_append_right _ (List.mem_singleton_self _),
      fun c hc => List.mem_append_left _ hc⟩
    rw [cool_logTc, cool_modCool]

/-- A condition left is out of force, and no other begins. -/
theorem cool_leaveCond : (tcOf (leaveCond s tc row) tc).cool =
    { (tcOf s tc).cool with conds := (tcOf s tc).cool.conds.filter (· ≠ row) } := by
  unfold leaveCond
  split
  · rw [cool_logTc, cool_modCool]
  case isFalse h =>
    have hnone : row ∉ (tcOf s tc).cool.conds := fun hrow => h (List.contains_iff_mem.mpr hrow)
    have hsame : (tcOf s tc).cool.conds.filter (· ≠ row) = (tcOf s tc).cool.conds :=
      List.filter_eq_self.mpr fun c hc => decide_eq_true fun hrow => hnone (hrow ▸ hc)
    rw [hsame]

/-- An inlet above 40 °C is a condition, and no position and no message changes by it. -/
theorem recheckCoolant_frame : SameElems s (recheckCoolant s tc) ∧ (∀ p, posOf (recheckCoolant s tc) tc p = posOf s tc p) ∧
    (rcOf (recheckCoolant s tc) (tc / 30)).msgs = (rcOf s (tc / 30)).msgs := by
  unfold recheckCoolant
  dsimp only
  split
  · refine ⟨⟨rfl, rfl⟩, fun p => ?_, ?_⟩
    · rw [posOf_modRc, posOf_logTc, posOf_modCool]
    · rw [rcOf_modRc]
      rfl
  · exact ⟨.refl s, fun _ => rfl, rfl⟩

theorem cool_recheckCoolant : ∃ conds, (tcOf (recheckCoolant s tc) tc).cool = { (tcOf s tc).cool with conds := conds } ∧
    (320 < (tcOf s tc).cool.inlet → 1 ∈ conds) ∧ ∀ c ∈ (tcOf s tc).cool.conds, c ∈ conds := by
  unfold recheckCoolant
  dsimp only
  split
  · refine ⟨(tcOf s tc).cool.conds ++ [1], ?_, fun _ => List.mem_append_right _ (List.mem_singleton_self _),
      fun c hc => List.mem_append_left _ hc⟩
    rw [tcOf_modRc, cool_logTc, cool_modCool]
  case isFalse h =>
    refine ⟨(tcOf s tc).cool.conds, rfl, fun hhot => ?_, fun _ hc => hc⟩
    by_contra hnone
    exact h ⟨hhot, by simpa using hnone⟩

end

end Sys2Proof.Machine
end

section
/-! PROOFS. Supervision of a tray's positions: attempts, holds, trips, the error pins, and what the rack controller's actions clear
(R365, R376–R378, R389, R447). -/

namespace Sys2Proof.Machine

/-! ## Recovery (R378) -/

section
variable (s : State) (tc pos : Nat) (e : Elem)

theorem posOf_holdFailed : posOf (holdFailed s tc pos e) tc pos =
    { posOf s tc pos with resetHeld := true, packageFailed := true, attemptRunning := false, hbSeen := false } := by
  rw [holdFailed, posOf_reportPos, posOf_logAt, posOf_modPos, (sameCtls_lowReset s e).posOf]

theorem baseOf_holdFailed : baseOf (holdFailed s tc pos e) e = baseOf (lowReset s e) e :=
  SameElems.baseOf (s := lowReset s e) ⟨rfl, rfl⟩ e

theorem msgs_holdFailed : (rcOf (holdFailed s tc pos e) (tc / 30)).msgs =
    (rcOf s (tc / 30)).msgs ++ [{ name := "PackageFailed", subject := subjectOf tc pos, http := 0 }] := by
  rw [holdFailed, reportPos, report_msgs, rcOf_logAt, rcOf_modPos, (sameCtls_lowReset s e).rcOf]

variable {s tc pos}

/-- A fault before the third attempt pulses RESET_N. -/
theorem startAttempt_of_few (reason : Nat) (h : (recentAttempts (tcOf s tc).now (posOf s tc pos)).length < 3) :
    posOf (startAttempt s tc pos reason e) tc pos = { posOf s tc pos with
      attempts := recentAttempts (tcOf s tc).now (posOf s tc pos) ++ [(tcOf s tc).now], attemptRunning := true, hbSeen := false } ∧
    baseOf (startAttempt s tc pos reason e) e = baseOf (pulseReset s e) e ∧ (startAttempt s tc pos reason e).rcs = s.rcs := by
  rw [startAttempt, if_neg (Nat.not_le_of_lt h)]
  refine ⟨?_, ?_, ?_⟩
  · rw [posOf_modPos, (sameCtls_pulseReset _ e).posOf, posOf_logAt]
  · exact ((sameElems_logAt s tc pos _ _ _).pulseReset e).baseOf e
  · exact (sameCtls_pulseReset _ e).rcs

theorem startAttempt_of_many (reason : Nat) (h : 3 ≤ (recentAttempts (tcOf s tc).now (posOf s tc pos)).length) :
    startAttempt s tc pos reason e = holdFailed s tc pos e := if_pos h

/-- An attempt that fails before the third only ends. -/
theorem attemptFails_of_few (h : (recentAttempts (tcOf s tc).now (posOf s tc pos)).length < 3) :
    attemptFails s tc pos e = modPos s tc pos fun x => { x with attemptRunning := false } := by
  have hfew : ¬ 3 ≤ (recentAttempts (tcOf (modPos s tc pos fun x => { x with attemptRunning := false }) tc).now
      (posOf (modPos s tc pos fun x => { x with attemptRunning := false }) tc pos)).length := by
    rw [now_modPos, posOf_modPos]
    exact Nat.not_le_of_lt h
  exact if_neg hfew

theorem attemptFails_of_many (h : 3 ≤ (recentAttempts (tcOf s tc).now (posOf s tc pos)).length) :
    attemptFails s tc pos e = holdFailed (modPos s tc pos fun x => { x with attemptRunning := false }) tc pos e := by
  have hmany : 3 ≤ (recentAttempts (tcOf (modPos s tc pos fun x => { x with attemptRunning := false }) tc).now
      (posOf (modPos s tc pos fun x => { x with attemptRunning := false }) tc pos)).length := by
    rw [now_modPos, posOf_modPos]
    exact h
  exact if_pos hmany

/-- Two states that differ in records and messages alone, as far as a position is concerned. -/
structure SamePos (tc pos : Nat) (s u : State) : Prop where
  elems : SameElems s u
  now : (tcOf u tc).now = (tcOf s tc).now
  pos : posOf u tc pos = posOf s tc pos

/-- A position held after three attempts, wherever the records and messages before it stand. -/
theorem holdFailed_fails {u : State} (h : SameElems s u) : (posOf (holdFailed u tc pos e) tc pos).resetHeld = true ∧
    (posOf (holdFailed u tc pos e) tc pos).packageFailed = true ∧ baseOf (holdFailed u tc pos e) e = baseOf (lowReset s e) e ∧
    ({ name := "PackageFailed", subject := subjectOf tc pos, http := 0 } : RfMsg) ∈ (rcOf (holdFailed u tc pos e) (tc / 30)).msgs := by
  rw [posOf_holdFailed, msgs_holdFailed, baseOf_holdFailed, (h.lowReset e).baseOf]
  exact ⟨rfl, rfl, rfl, List.mem_append_right _ (List.mem_singleton_self _)⟩

/-- A position pulsed, wherever the records and messages before it stand. -/
theorem startAttempt_attempts {u : State} (h : SamePos tc pos s u) (reason : Nat)
    (hfew : (recentAttempts (tcOf s tc).now (posOf s tc pos)).length < 3) :
    (posOf (startAttempt u tc pos reason e) tc pos).attempts = recentAttempts (tcOf s tc).now (posOf s tc pos) ++ [(tcOf s tc).now] ∧
    (posOf (startAttempt u tc pos reason e) tc pos).attemptRunning = true ∧
    (posOf (startAttempt u tc pos reason e) tc pos).hbSeen = false ∧
    baseOf (startAttempt u tc pos reason e) e = baseOf (pulseReset s e) e := by
  obtain ⟨hafter, hbase, -⟩ := startAttempt_of_few (s := u) (tc := tc) (pos := pos) e reason (by rwa [h.now, h.pos])
  rw [hafter, h.now, h.pos, hbase, (h.elems.pulseReset e).baseOf]
  exact ⟨rfl, rfl, rfl, rfl⟩

end

/-! ## Heartbeats (R376, R377) -/

/-- The record of a missing heartbeat. -/
def heartbeatLogged (s : State) (tc pos : Nat) (e : Elem) : State :=
  logAt s tc pos 2 0x0010 (le 4 (posOf s tc pos).lastEdge ++ le 4 (resetCountSeen (baseOf s e)))

/-- The record of a kindling without a heartbeat. -/
def kindlingLogged (s : State) (tc pos : Nat) (e : Elem) : State :=
  logAt s tc pos 2 0x0011 (le 1 (mspReg (baseOf s e) 1 % 8))

/-- A missing heartbeat logged and reported. -/
def heartbeatTold (s : State) (tc pos : Nat) (e : Elem) : State := reportPos (heartbeatLogged s tc pos e) tc pos "HeartbeatFault"

theorem samePos_heartbeatTold (s : State) (tc pos : Nat) (e : Elem) : SamePos tc pos s (heartbeatTold s tc pos e) :=
  ⟨⟨rfl, rfl⟩, now_logAt s tc pos _ _ _, posOf_logAt s tc pos _ _ pos _⟩

theorem samePos_kindlingLogged (s : State) (tc pos : Nat) (e : Elem) : SamePos tc pos s (kindlingLogged s tc pos e) :=
  ⟨⟨rfl, rfl⟩, now_logAt s tc pos _ _ _, posOf_logAt s tc pos _ _ pos _⟩

section
variable {s : State} {tc pos : Nat} {e : Elem} (he : elemAt tc pos = some e) (hp : (posOf s tc pos).present = true)
include he hp

theorem exec_heartbeatEdge (hfree : (posOf s tc pos).resetHeld = false) : exec (.heartbeatEdge tc pos) s =
    .next (modPos s tc pos fun y => { y with hbSeen := true, lastEdge := (tcOf s tc).now }) := by
  have hexec : exec (.heartbeatEdge tc pos) s = execHeartbeatEdge tc pos s := rfl
  rw [hexec, execHeartbeatEdge, atPos_present he hp]
  exact congrArg Host.Outcome.next (modPos_congr s tc (if_neg (Bool.eq_false_iff.mp hfree)))

theorem exec_heartbeatFault (hfree : (posOf s tc pos).resetHeld = false) (hseen : (posOf s tc pos).hbSeen = true) :
    exec (.heartbeatFault tc pos) s = .next (if outranked s tc pos e then heartbeatLogged s tc pos e
      else if sealedElem s e then heartbeatTold s tc pos e
      else startAttempt (heartbeatTold s tc pos e) tc pos 1 e) := by
  have hsealed : sealedElem (heartbeatTold s tc pos e) e = sealedElem s e :=
    SameElems.sealedElem ⟨rfl, rfl⟩ e
  have hwatched : ¬ ((posOf s tc pos).resetHeld = true ∨ (!(posOf s tc pos).hbSeen) = true) := by simp [hfree, hseen]
  rw [← hsealed]
  have hexec : exec (.heartbeatFault tc pos) s = execHeartbeatFault tc pos s := rfl
  rw [hexec, execHeartbeatFault, atPos_present he hp]
  exact congrArg Host.Outcome.next (if_neg hwatched)

theorem exec_kindlingFault (hfree : (posOf s tc pos).resetHeld = false) (hseen : (posOf s tc pos).hbSeen = false)
    (hout : outranked s tc pos e = false) (hsealed : sealedElem s e = false) :
    exec (.kindlingFault tc pos) s = .next (startAttempt (kindlingLogged s tc pos e) tc pos 2 e) := by
  have hunseen : ¬ ((posOf s tc pos).resetHeld = true ∨ (posOf s tc pos).hbSeen = true) := by simp [hfree, hseen]
  have hlogged : sealedElem (kindlingLogged s tc pos e) e = false := (SameElems.sealedElem ⟨rfl, rfl⟩ e).trans hsealed
  have hgoverned : ¬ (outranked s tc pos e || sealedElem (kindlingLogged s tc pos e) e) = true := by rw [hout, hlogged]; decide
  have hexec : exec (.kindlingFault tc pos) s = execKindlingFault tc pos s := rfl
  rw [hexec, execKindlingFault, atPos_present he hp]
  exact congrArg Host.Outcome.next ((if_neg hunseen).trans (if_neg hgoverned))

theorem exec_recoveryTimeout (hruns : (posOf s tc pos).attemptRunning = true) :
    exec (.recoveryTimeout tc pos) s = .next (attemptFails s tc pos e) := by
  have hexec : exec (.recoveryTimeout tc pos) s = execRecoveryTimeout tc pos s := rfl
  rw [hexec, execRecoveryTimeout, atPos_present he hp]
  exact congrArg Host.Outcome.next (if_pos hruns)

end

/-- What was told stands beside what an attempt tells. -/
theorem mem_startAttempt {u : State} {tc pos : Nat} (e : Elem) (reason : Nat) {m : RfMsg} (h : m ∈ (rcOf u (tc / 30)).msgs) :
    m ∈ (rcOf (startAttempt u tc pos reason e) (tc / 30)).msgs := by
  by_cases hfew : (recentAttempts (tcOf u tc).now (posOf u tc pos)).length < 3
  · obtain ⟨-, -, hrcs⟩ := startAttempt_of_few e reason hfew
    have hsame : rcOf (startAttempt u tc pos reason e) (tc / 30) = rcOf u (tc / 30) := by
      rw [rcOf, hrcs]
      rfl
    rwa [hsame]
  · rw [startAttempt_of_many e reason (Nat.le_of_not_lt hfew), msgs_holdFailed]
    exact List.mem_append_left _ h

/-! ## Trips (R377) -/

/-- A second trip within the hour of the position's last pulse (R377). -/
def tripsSoon (now : Nat) (x : Position) : Bool :=
  match x.tripAt with
  | some t => decide (now < t + 3600000000000)
  | none => false

theorem tripsSoon_of_within {now u : Nat} {x : Position} (h : x.tripAt = some u) (hnow : now < u + 3600000000000) :
    tripsSoon now x = true := by
  simp only [tripsSoon, h]
  exact decide_eq_true hnow

theorem tripsSoon_of_past {now : Nat} {x : Position} (h : ∀ u, x.tripAt = some u → u + 3600000000000 ≤ now) : tripsSoon now x = false := by
  unfold tripsSoon
  split
  case h_1 u hu => exact decide_eq_false (Nat.not_lt_of_le (h u hu))
  case h_2 => rfl

/-- What a thermal trip leaves before the coolant is checked. -/
def tripReported (s : State) (tc pos : Nat) : State :=
  reportPos (modPos (logAt s tc pos 3 0x0022 (le 2 (tcOf s tc).cool.inlet ++ le 2 (tcOf s tc).cool.flow)) tc pos fun x =>
    { x with tripWaitsClear := x.tripWaitsClear || tripsSoon (tcOf s tc).now x }) tc pos "ThermalTrip"

theorem exec_thermtripAssert {s : State} {tc pos : Nat} {e : Elem} (he : elemAt tc pos = some e)
    (hp : (posOf s tc pos).present = true) : exec (.thermtripAssert tc pos) s = .next (recheckCoolant (tripReported s tc pos) tc) := by
  have hthere : ¬ (elemAt tc pos).isNone = true := by simp [he]
  have hlogged : ¬ (!(posOf (logAt s tc pos 3 0x0022 (le 2 (tcOf s tc).cool.inlet ++ le 2 (tcOf s tc).cool.flow)) tc pos).present) = true := by
    rw [posOf_logAt, hp]
    decide
  have hexec : exec (.thermtripAssert tc pos) s = execThermtripAssert tc pos s := rfl
  rw [hexec, execThermtripAssert, if_neg hthere]
  exact congrArg Host.Outcome.next (if_neg hlogged)

theorem thermtripAssert_frame (s : State) (tc pos : Nat) :
    ({ name := "ThermalTrip", subject := subjectOf tc pos, http := 0 } : RfMsg) ∈
      (rcOf (recheckCoolant (tripReported s tc pos) tc) (tc / 30)).msgs ∧
    (recheckCoolant (tripReported s tc pos) tc).pkgs = s.pkgs ∧ (recheckCoolant (tripReported s tc pos) tc).weirs = s.weirs ∧
    (posOf (recheckCoolant (tripReported s tc pos) tc) tc pos).tripWaitsClear =
      ((posOf s tc pos).tripWaitsClear || tripsSoon (tcOf s tc).now (posOf s tc pos)) := by
  obtain ⟨helems, hpos, hmsgs⟩ := recheckCoolant_frame (tripReported s tc pos) tc
  refine ⟨hmsgs ▸ mem_reportPos _ tc pos "ThermalTrip", helems.pkgs, helems.weirs, ?_⟩
  rw [hpos, tripReported, posOf_reportPos, posOf_modPos, posOf_logAt]

section
variable {s : State} {tc pos : Nat} {e : Elem} (he : elemAt tc pos = some e) (hp : (posOf s tc pos).present = true)
include he hp

/-- PORST_N pulsed for a trip (R377). -/
def repulsed (s : State) (tc pos : Nat) : State :=
  modPos (releasePorst (holdPorst s tc 1 pos) tc 1 pos) tc pos fun x => { x with tripAt := some (tcOf s tc).now }

theorem exec_tripRepulse_now (htrip : (baseOf s e).pins.thermtrip = true) (hholds : (posOf s tc pos).porstHolds = [])
    (hwaits : (posOf s tc pos).tripWaitsClear = false) (hpast : tripsSoon (tcOf s tc).now (posOf s tc pos) = false) :
    exec (.tripRepulse tc pos) s = .next (repulsed s tc pos) := by
  have hdue : ¬ ((!(baseOf s e).pins.thermtrip) = true ∨ (posOf s tc pos).tripWaitsClear = true ∨
      tripsSoon (tcOf s tc).now (posOf s tc pos) = true ∨ (!(posOf s tc pos).porstHolds.isEmpty) = true) := by
    simp [htrip, hwaits, hpast, hholds]
  have hexec : exec (.tripRepulse tc pos) s = execTripRepulse tc pos s := rfl
  rw [hexec, execTripRepulse, atPos_present he hp]
  exact congrArg Host.Outcome.next (if_neg hdue)

theorem exec_tripRepulse_waits (hwaits : (posOf s tc pos).tripWaitsClear = true) : exec (.tripRepulse tc pos) s = .next s := by
  have hexec : exec (.tripRepulse tc pos) s = execTripRepulse tc pos s := rfl
  rw [hexec, execTripRepulse, atPos_present he hp]
  exact congrArg Host.Outcome.next (if_pos (.inr (.inl hwaits)))

omit hp in
theorem repulsed_frame (hholds : (posOf s tc pos).porstHolds = []) : (posOf (repulsed s tc pos) tc pos).porstHolds = [] ∧
    (posOf (repulsed s tc pos) tc pos).tripAt = some (tcOf s tc).now ∧
    baseOf (repulsed s tc pos) e = baseOf (freePorst (lowPorst s e) e) e := by
  have hnone : 1 ∉ (posOf s tc pos).porstHolds := by simp [hholds]
  have hheld : (posOf (holdPorst s tc 1 pos) tc pos).porstHolds = [1] := by
    rw [posOf_holdPorst_of_free he hnone, hholds]
    rfl
  have hone : 1 ∈ (posOf (holdPorst s tc 1 pos) tc pos).porstHolds := by simp [hheld]
  refine ⟨?_, ?_, ?_⟩
  · rw [repulsed, posOf_modPos, posOf_releasePorst he, hheld]
    rfl
  · rw [repulsed, posOf_modPos]
  · have hlow : SameElems (lowPorst s e) (holdPorst s tc 1 pos) := by
      rw [holdPorst_of_free he hnone, hholds]
      exact ⟨rfl, rfl⟩
    have hfree : SameElems (freePorst (holdPorst s tc 1 pos) e) (repulsed s tc pos) := by
      rw [repulsed, releasePorst_of_held he hone, hheld]
      exact ⟨rfl, rfl⟩
    exact ((hlow.freePorst e).trans hfree).baseOf e

end

/-! ## The error pins (R377, R447) -/

theorem copyRing_frame (s : State) (tc pos : Nat) (e : Elem) : SameElems s (copyRing s tc pos e) ∧
    (posOf (copyRing s tc pos e) tc pos).fatalEdges = (posOf s tc pos).fatalEdges := by
  have hcopied (l : List Bytes) : SameElems s (l.foldl (logCopy tc pos) s) ∧ posOf (l.foldl (logCopy tc pos) s) tc pos = posOf s tc pos :=
    foldl_keeps (fun t => SameElems s t ∧ posOf t tc pos = posOf s tc pos) (logCopy tc pos)
      (fun t r ⟨helems, hpos⟩ => ⟨helems.trans ⟨rfl, rfl⟩, (posOf_logAt t tc pos _ _ pos _).trans hpos⟩) l s ⟨.refl s, rfl⟩
  cases e with
  | weir k => exact ⟨.refl s, rfl⟩
  | pkg k =>
    rw [copyRing]
    dsimp only
    split
    · exact ⟨.refl s, rfl⟩
    · obtain ⟨helems, hpos⟩ := hcopied (newRingErrors (pkgOf s k) (posOf s tc pos).lastRseq)
      split
      · exact ⟨helems.trans ⟨rfl, rfl⟩, by rw [posOf_modPos, hpos]⟩
      · exact ⟨helems, congrArg Position.fatalEdges hpos⟩

/-- An edge of ERR_FATAL_N counted and logged. -/
def fatalLogged (s : State) (tc pos : Nat) : State :=
  let s := modPos s tc pos fun x => { x with fatalEdges := satAdd 0xFFFFFFFF x.fatalEdges 1 }
  logAt s tc pos 2 0x0020 (le 4 (posOf s tc pos).fatalEdges)

section
variable {s : State} {tc pos : Nat} {e : Elem} (he : elemAt tc pos = some e) (hp : (posOf s tc pos).present = true)
include he hp

theorem exec_errFatalAssert (hout : outranked s tc pos e = false) (hfree : (posOf s tc pos).resetHeld = false) :
    exec (.errFatalAssert tc pos) s = .next (reportPos (copyRing (fatalLogged s tc pos) tc pos e) tc pos "PackageError") := by
  have hgoverned : ¬ (outranked s tc pos e || (posOf s tc pos).resetHeld) = true := by rw [hout, hfree]; decide
  have hexec : exec (.errFatalAssert tc pos) s = execErrFatalAssert tc pos s := rfl
  rw [hexec, execErrFatalAssert, atPos_present he hp]
  exact congrArg Host.Outcome.next (if_neg hgoverned)

/-- An edge of ERR_CORR_N counted, and summed up in the log. -/
def corrLogged (s : State) (tc pos : Nat) : State :=
  let t := modPos s tc pos fun x => { x with corrEdges := satAdd 0xFFFFFFFF x.corrEdges 1 }
  modPos (logAt t tc pos 1 0x0021 (le 4 (posOf t tc pos).corrEdges)) tc pos fun x =>
    { x with corrEdges := 0, corrLogged := some (tcOf s tc).now }

theorem exec_errCorrEdge (hdue : ∀ u, (posOf s tc pos).corrLogged = some u → u + 1000000000 ≤ (tcOf s tc).now) :
    exec (.errCorrEdge tc pos) s = .next (corrLogged s tc pos) := by
  have hcounted : (posOf (modPos s tc pos fun x => { x with corrEdges := satAdd 0xFFFFFFFF x.corrEdges 1 }) tc pos).corrLogged =
      (posOf s tc pos).corrLogged := by rw [posOf_modPos]
  have hlogs : (match (posOf (modPos s tc pos fun x => { x with corrEdges := satAdd 0xFFFFFFFF x.corrEdges 1 }) tc pos).corrLogged with
      | some t => decide (t + 1000000000 ≤ (tcOf s tc).now)
      | none => true) = true := by
    rw [hcounted]
    cases hlast : (posOf s tc pos).corrLogged with
    | none => rfl
    | some u => exact decide_eq_true (hdue u hlast)
  have hexec : exec (.errCorrEdge tc pos) s = execErrCorrEdge tc pos s := rfl
  rw [hexec, execErrCorrEdge, atPos_present he hp]
  exact congrArg Host.Outcome.next (if_pos hlogs)

end

theorem log_corrLogged (s : State) (tc pos : Nat) : (tcOf (corrLogged s tc pos) tc).log.getLast? = some (logBytes (tcOf s tc)
    (logSource tc pos) 1 0x0021 (le 4 (min 0xFFFFFFFF ((posOf s tc pos).corrEdges + 1)))) := by
  rw [corrLogged, log_modPos, log_logAt, posOf_modPos, logBytes_congr (lseq_modPos s tc pos _) (now_modPos s tc pos _)]
  rfl

theorem exec_errCorrPulseEnd (s : State) (e : Elem) : ∃ t, exec (.errCorrPulseEnd e) s = .next t ∧
    (baseOf t e).pins = nextPulse (baseOf s e).pins := by
  cases e with
  | pkg k => exact ⟨_, rfl, congrArg (fun p : Package => p.base.pins) (pkgOf_setPkg_self s k _)⟩
  | weir k => exact ⟨_, rfl, congrArg (fun w : Weir => w.base.pins) (weirOf_setWeir_self s k _)⟩

theorem nextPulse_cases (x : Pins) : (nextPulse x).corrWait = x.corrWait - 1 ∧ (x.corrWait = 0 → (nextPulse x).corrPulse = false) ∧
    (0 < x.corrWait → (nextPulse x).corrPulse = x.corrPulse) := by
  unfold nextPulse
  split
  case isTrue h =>
    have hzero : x.corrWait = x.corrWait - 1 := by omega
    exact ⟨hzero, fun _ => rfl, fun hpos => by omega⟩
  case isFalse h => exact ⟨rfl, fun hzero => absurd hzero h, fun _ => rfl⟩

/-! ## The rack controller's actions (R389) -/

/-- A position forgets its attempts, and RESET_N is free (R389). -/
theorem posOf_resetPackage (rack slot : Nat) (s : State) {tc pos : Nat} (hat : tcOfElem (.pkg (rack * 64 + slot)) = (tc, pos)) :
    (posOf (resetPackage rack slot s) tc pos).resetHeld = false ∧ (posOf (resetPackage rack slot s) tc pos).packageFailed = false ∧
      (posOf (resetPackage rack slot s) tc pos).attempts = [] := by
  rw [resetPackage, hat]
  dsimp only
  rw [posOf_rcAnswer, (sameCtls_pulseReset _ _).posOf, posOf_logAt, posOf_modPos]
  exact ⟨rfl, rfl, rfl⟩

/-- A position's holds for a leak and a flow loss end, and its trips are forgotten (R365, R377). -/
def faultCleared (tc : Nat) (s : State) (pos : Nat) : State :=
  modPos (releasePorst (releasePorst s tc 2 pos) tc 3 pos) tc pos fun x => { x with tripAt := none, tripWaitsClear := false }

/-- What ClearFault leaves at a position. -/
def ClearedPos (x : Position) : Prop := 2 ∉ x.porstHolds ∧ 3 ∉ x.porstHolds ∧ x.tripAt = none ∧ x.tripWaitsClear = false

section
variable {tc pos : Nat} {e : Elem} (he : elemAt tc pos = some e) (s : State)
include he

theorem onePos_faultCleared : OnePos tc pos s (faultCleared tc s pos) :=
  ((onePos_releasePorst he).trans (onePos_releasePorst he)).trans (onePos_modPos _ _)

theorem clearedPos_faultCleared : ClearedPos (posOf (faultCleared tc s pos) tc pos) := by
  rw [faultCleared, posOf_modPos, posOf_releasePorst he, posOf_releasePorst he]
  refine ⟨?_, ?_, rfl, rfl⟩
  · simp
  · simp

end

/-- Every position of the tray is cleared, and its coolant stays. -/
theorem faultCleared_all (tc : Nat) (s : State) : (∀ pos < posCount tc, ClearedPos (posOf (eachPos s tc (faultCleared tc)) tc pos)) ∧
    (tcOf (eachPos s tc (faultCleared tc)) tc).cool = (tcOf s tc).cool := by
  refine eachPos_induct (P := fun n t => (∀ pos < n, ClearedPos (posOf t tc pos)) ∧ (tcOf t tc).cool = (tcOf s tc).cool)
    ⟨fun pos h => absurd h (Nat.not_lt_zero pos), rfl⟩ fun n t hn ⟨hpos, hcool⟩ => ?_
  obtain ⟨e, he⟩ := elemAt_isSome hn
  have hone := onePos_faultCleared he t
  refine ⟨fun pos hlt => ?_, hone.cool.trans hcool⟩
  by_cases hlast : pos = n
  · rw [hlast]
    exact clearedPos_faultCleared he t
  · rw [hone.others pos hlast]
    exact hpos pos (by omega)

theorem clearFault_eq (rack : Nat) (tray : Tray) (s : State) : clearFault rack tray s =
    modCool (eachPos (leaveCond (leaveCond s (trayTc rack tray) 4) (trayTc rack tray) 5) (trayTc rack tray)
      (faultCleared (trayTc rack tray))) (trayTc rack tray) fun c => { c with valveOpen := false, isolationClosed := false } := rfl

theorem clearFault_clears (rack : Nat) (tray : Tray) (s : State) :
    4 ∉ (tcOf (clearFault rack tray s) (trayTc rack tray)).cool.conds ∧ 5 ∉ (tcOf (clearFault rack tray s) (trayTc rack tray)).cool.conds ∧
    (tcOf (clearFault rack tray s) (trayTc rack tray)).cool.isolationClosed = false ∧
    ∀ pos < posCount (trayTc rack tray), ClearedPos (posOf (clearFault rack tray s) (trayTc rack tray) pos) := by
  obtain ⟨hpos, hcool⟩ := faultCleared_all (trayTc rack tray) (leaveCond (leaveCond s (trayTc rack tray) 4) (trayTc rack tray) 5)
  rw [clearFault_eq, cool_modCool, hcool, cool_leaveCond, cool_leaveCond]
  refine ⟨by simp, by simp, rfl, fun pos hlt => ?_⟩
  rw [posOf_modCool]
  exact hpos pos hlt

/-- Settles O51: each pin by the record, the message and the attempt or hold that it starts, and each action by what it clears. -/
theorem traySupervision : Obligations.TraySupervision := by
  unfold Obligations.TraySupervision
  refine ⟨fun s tc pos e he hp => ⟨exec_heartbeatEdge he hp, fun hfree hseen => ⟨fun hout => ?_, fun hout hsealed hfew => ?_,
      fun hout hsealed hmany => ?_⟩, fun hfree hseen hout hsealed => ⟨fun hfew => ?_, fun hmany => ?_⟩, fun hruns hfew => ?_,
      fun hruns hmany => ?_, ?_, fun htrip hholds => ⟨fun hwaits hpast => ?_, exec_tripRepulse_waits he hp⟩, fun hout hfree => ?_,
      fun hdue => ?_⟩,
    fun s e => ?_, fun s rack slot => ⟨fun hbeyond => ?_, fun hslot => ?_⟩, fun s rack tray => ⟨fun habsent => ?_, fun hthere => ?_⟩⟩
  · rw [exec_heartbeatFault he hp hfree hseen, if_pos hout]
    rfl
  · rw [exec_heartbeatFault he hp hfree hseen, if_neg (Bool.eq_false_iff.mp hout), if_neg (Bool.eq_false_iff.mp hsealed)]
    exact ⟨_, rfl, startAttempt_attempts e (samePos_heartbeatTold s tc pos e) 1 hfew, mem_startAttempt e 1 (mem_reportPos _ tc pos _)⟩
  · have hsame := samePos_heartbeatTold s tc pos e
    rw [exec_heartbeatFault he hp hfree hseen, if_neg (Bool.eq_false_iff.mp hout), if_neg (Bool.eq_false_iff.mp hsealed)]
    have hhold := startAttempt_of_many (s := heartbeatTold s tc pos e) (tc := tc) (pos := pos) e 1 (by rwa [hsame.now, hsame.pos])
    refine ⟨_, rfl, ?_, mem_startAttempt e 1 (mem_reportPos _ tc pos _)⟩
    rw [hhold]
    exact holdFailed_fails e hsame.elems
  · exact ⟨_, exec_kindlingFault he hp hfree hseen hout hsealed, startAttempt_attempts e (samePos_kindlingLogged s tc pos e) 2 hfew⟩
  · have hsame := samePos_kindlingLogged s tc pos e
    rw [exec_kindlingFault he hp hfree hseen hout hsealed, startAttempt_of_many e 2 (by rwa [hsame.now, hsame.pos])]
    exact ⟨_, rfl, holdFailed_fails e hsame.elems⟩
  · rw [exec_recoveryTimeout he hp hruns, attemptFails_of_few e hfew]
  · rw [exec_recoveryTimeout he hp hruns, attemptFails_of_many e hmany]
    exact ⟨_, rfl, holdFailed_fails e ⟨rfl, rfl⟩⟩
  · obtain ⟨htold, hpkgs, hweirs, hwaits⟩ := thermtripAssert_frame s tc pos
    refine ⟨_, exec_thermtripAssert he hp, htold, hpkgs, hweirs, fun u hu hnow => ?_⟩
    rw [hwaits, tripsSoon_of_within hu hnow, Bool.or_true]
  · exact ⟨_, exec_tripRepulse_now he hp htrip hholds hwaits (tripsSoon_of_past hpast), repulsed_frame he hholds⟩
  · obtain ⟨helems, hedges⟩ := copyRing_frame (fatalLogged s tc pos) tc pos e
    refine ⟨_, exec_errFatalAssert he hp hout hfree, ?_, mem_reportPos _ tc pos _, helems.pkgs, helems.weirs⟩
    rw [posOf_reportPos, hedges, fatalLogged, posOf_logAt, posOf_modPos]
    rfl
  · refine ⟨_, exec_errCorrEdge he hp hdue, ?_, ?_, log_corrLogged s tc pos⟩
    · rw [corrLogged, posOf_modPos]
    · rw [corrLogged, posOf_modPos]
  · obtain ⟨t, hexec, hpins⟩ := exec_errCorrPulseEnd s e
    refine ⟨t, hexec, ?_⟩
    rw [hpins]
    exact nextPulse_cases _
  · exact congrArg Host.Outcome.next (if_pos hbeyond)
  · obtain ⟨hheld, hfailed, hattempts⟩ := posOf_resetPackage rack slot s rfl
    exact ⟨_, congrArg Host.Outcome.next (if_neg (Nat.not_le_of_lt hslot)), hheld, hfailed, hattempts, rcAnswer_last _ rack slot 200 _⟩
  · exact congrArg Host.Outcome.next (if_neg (Bool.eq_false_iff.mp habsent))
  · obtain ⟨hflow, hleak, hvalve, hpos⟩ := clearFault_clears rack tray s
    exact ⟨_, congrArg Host.Outcome.next (if_pos hthere), hflow, hleak, hvalve, hpos, rcAnswer_last _ rack (trayNo tray) 200 _⟩

end Sys2Proof.Machine
end

section
/-! PROOFS. Tray coolant: the write of T_IN through the CS window, and the conditions of a tray as they are entered, held and left
(R363–R365, R409, R416). -/

namespace Sys2Proof.Machine

/-! ## T_IN over the window (R363, R409) -/

/-- A package whose window takes a write of T_IN. -/
structure TakesTIn (p : Package) : Prop where
  runs : hubRuns p.base = true
  heard : mspSilent p.base = false
  idle : p.base.msp.csBusy = false
  sound : faultReason p (pw Off.T_IN) 4 = 0
  kind : pageKind p.hubL1 (clsOf (pw Off.T_IN)) (instOf (pw Off.T_IN)) = some .power
  unsealed : sealedShut p = false
  calm : strikingPage p.base (pageOf (pw Off.T_IN)) = false

theorem takesTIn_of_reaches {s : State} {k : Nat} (hruns : hubRuns (pkgOf s k).base = true) (hheard : mspSilent (pkgOf s k).base = false)
    (hidle : (pkgOf s k).base.msp.csBusy = false) (hreach : Safety.reaches s k .cs (pw Off.T_IN) .power = true) : TakesTIn (pkgOf s k) := by
  obtain ⟨-, -, hsound, hkind, hopen, hcalm⟩ := (reaches_iff s k .cs _ _).mp hreach
  exact ⟨hruns, hheard, hidle, hsound, hkind, hopen, hcalm⟩

theorem write4_tIn {p : Package} (h : TakesTIn p) (free v : Nat) : write4 free p .cs (pw Off.T_IN) v =
    (acceptWrite (tInStored p (fld v 15 0)) (pageOf (pw Off.T_IN)), .done) := by
  have hpage : pageOf (pw Off.T_IN) = powerPage := by decide
  have hoff : offOf (pw Off.T_IN) = Off.T_IN := by decide
  have htry : tryWrite free p .cs (pageOf (pw Off.T_IN)) .power (offOf (pw Off.T_IN)) v = .ok (tInStored p (fld v 15 0)) := by
    have hcalm : ¬ (strikingPage p.base (pageOf (pw Off.T_IN)) && !openWhileStriking (offOf (pw Off.T_IN))) = true := by
      rw [h.calm]
      exact Bool.false_ne_true
    rw [tryWrite, if_neg (Bool.eq_false_iff.mp h.unsealed), if_neg hcalm, hoff, if_neg (by decide), hpage, blockWrite, powerWrite_tIn]
  unfold write4
  dsimp only
  rw [h.kind]
  dsimp only
  rw [htry]

/-- The window's address and data, as a tray controller sets them before a write of `v`. -/
def windowSet (p : Package) (a v : Nat) : Package :=
  p.mapBase fun b => setMsp b { b.msp with csAddr := w32 a, csLo := w32 v, csHi := 0 }

theorem windowSet_of_idle {p : Package} (hidle : p.base.msp.csBusy = false) (a v : Nat) :
    (p.mapBase fun b => mspRegWrite (mspRegWrite (mspRegWrite b 8 (w32 a)) 9 (w32 v)) 10 0) = windowSet p a v := by
  simp only [Package.mapBase, mspRegWrite, hidle, Bool.false_eq_true, if_false, setMsp, windowSet]

/-- A tray controller's write where the hub runs, and the window is heard and idle: one control write of four bytes. -/
theorem pkgOf_tcWrite {s : State} {k a v : Nat} (hruns : hubRuns (pkgOf s k).base = true)
    (hheard : mspSilent (pkgOf s k).base = false) (hidle : (pkgOf s k).base.msp.csBusy = false) (ha : a < 2 ^ 32) (hv : v < 2 ^ 32) :
    ∃ result reason, pkgOf (tcWrite s k a v) k = (csWrite s.free (windowSet (pkgOf s k) a v) .cs a 4 v).1.mapBase fun b =>
      csEnd b result reason none := by
  have htakes : ¬ (!hubRuns (pkgOf s k).base || mspSilent (pkgOf s k).base) = true := by rw [hruns, hheard]; decide
  have hserved : csRefused (windowSet (pkgOf s k) a v).base = none := by
    have hstill : (windowSet (pkgOf s k) a v).base.msp.csBusy = false := hidle
    have hup : hubRuns (windowSet (pkgOf s k) a v).base = true := hruns
    rw [csRefused, hstill, hup]
    rfl
  have haddr : (windowSet (pkgOf s k) a v).base.msp.csAddr.toNat = a := Nat.mod_eq_of_lt ha
  have hdata : csData (windowSet (pkgOf s k) a v).base = v := by
    have hlow : (windowSet (pkgOf s k) a v).base.msp.csLo.toNat = v := Nat.mod_eq_of_lt hv
    have hhigh : (windowSet (pkgOf s k) a v).base.msp.csHi.toNat = 0 := rfl
    rw [csData, hlow, hhigh, Nat.zero_mul, Nat.add_zero]
  have hgo : csGoPkg s.free (windowSet (pkgOf s k) a v) 3 = (csWrite s.free (windowSet (pkgOf s k) a v) .cs a 4 v).1.mapBase fun b =>
      csEnd b (csResultOf (csWrite s.free (windowSet (pkgOf s k) a v) .cs a 4 v).2).1
        (csResultOf (csWrite s.free (windowSet (pkgOf s k) a v) .cs a 4 v).2).2 none := by
    have hwrite : bitOf 3 1 = true := by decide
    have hfour : bitOf 3 2 = false := by decide
    have hstart : (!bitOf 3 0) = false := by decide
    simp only [csGoPkg, hstart, hserved, hwrite, hfour, haddr, hdata, Bool.false_eq_true, if_false, if_true]
  refine ⟨_, _, Eq.trans ?_ hgo⟩
  rw [tcWrite, if_neg htakes, windowSet_of_idle hidle, pkgOf_free, pkgOf_setPkg_self]

theorem pkgOf_tcWrite_ne (s : State) {k j : Nat} (a v : Nat) (h : j ≠ k) : pkgOf (tcWrite s k a v) j = pkgOf s j := by
  unfold tcWrite
  dsimp only
  split
  · rfl
  · rw [pkgOf_free, pkgOf_setPkg_ne _ _ h]

theorem sameCtls_tcWrite (s : State) (k a v : Nat) : SameCtls s (tcWrite s k a v) := by
  unfold tcWrite
  dsimp only
  split
  · exact .refl s
  · exact ⟨rfl, rfl⟩

/-- The window stands apart from what the fantail uses. -/
theorem inletT_mapMsp (p : Package) (m : Base → Msp) : inletT (p.mapBase fun b => setMsp b (m b)) = inletT p := rfl

/-- T_IN written through the window is what the fantail uses. -/
theorem inletT_tcWrite {s : State} {k v : Nat} (h : TakesTIn (pkgOf s k)) (hv : v < 2 ^ 16) :
    inletT (pkgOf (tcWrite s k (pw Off.T_IN) v) k) = v := by
  obtain ⟨result, reason, hpkg⟩ := pkgOf_tcWrite h.runs h.heard h.idle (a := pw Off.T_IN) (v := v) (by decide) (by omega)
  have hset : TakesTIn (windowSet (pkgOf s k) (pw Off.T_IN) v) := ⟨h.runs, h.heard, h.idle, h.sound, h.kind, h.unsealed, h.calm⟩
  have hfit : fld (v % 2 ^ 32) 15 0 = v := by simp only [fld]; omega
  have hwritten := csWrite_four s.free (windowSet (pkgOf s k) (pw Off.T_IN) v) .cs (pw Off.T_IN) v (by decide) rfl hset.sound
  rw [write4_tIn hset, hfit] at hwritten
  rw [hpkg, hwritten]
  exact (inletT_mapMsp _ _).trans ((inletT_acceptWrite _ _).trans (inletT_tInStored _ hv))

/-! ## T_IN of every package of a tray -/

/-- T_IN of the package at a position written. -/
def tInStep (tc inlet : Nat) (s : State) (pos : Nat) : State :=
  match elemAt tc pos with
  | some (.pkg k) => tcWrite s k (pw Off.T_IN) inlet
  | _ => s

theorem tInStep_pkg {tc pos k : Nat} (inlet : Nat) (s : State) (h : elemAt tc pos = some (.pkg k)) :
    tInStep tc inlet s pos = tcWrite s k (pw Off.T_IN) inlet := by
  simp only [tInStep, h]

theorem sameCtls_tInStep (tc inlet : Nat) (s : State) (pos : Nat) : SameCtls s (tInStep tc inlet s pos) := by
  unfold tInStep
  split
  · exact sameCtls_tcWrite s _ _ _
  · exact .refl s

theorem sameCtls_tInAll (tc inlet : Nat) (s : State) : SameCtls s (eachPos s tc (tInStep tc inlet)) :=
  eachPos_keeps tc (P := SameCtls s) (fun t pos h => h.trans (sameCtls_tInStep tc inlet t pos)) (.refl s)

/-- A position's step leaves the packages of other positions. -/
theorem pkgOf_tInStep_ne {tc inlet n pos k : Nat} (s : State) (h : elemAt tc pos = some (.pkg k)) (hne : pos ≠ n) :
    pkgOf (tInStep tc inlet s n) k = pkgOf s k := by
  unfold tInStep
  split
  case h_1 j hj =>
    have hapart : k ≠ j := by
      rw [elemAt_pkg h, elemAt_pkg hj]
      omega
    exact pkgOf_tcWrite_ne s _ _ hapart
  case h_2 => rfl

/-- Every package whose window takes it uses the inlet that was read. -/
theorem inletT_tInAll {tc inlet : Nat} (s : State) (hfit : inlet < 2 ^ 16) {pos k : Nat} (h : elemAt tc pos = some (.pkg k))
    (htakes : TakesTIn (pkgOf s k)) : inletT (pkgOf (eachPos s tc (tInStep tc inlet)) k) = inlet := by
  have hall := eachPos_induct (tc := tc) (f := tInStep tc inlet) (s := s)
    (P := fun n t => (pos < n → inletT (pkgOf t k) = inlet) ∧ (n ≤ pos → pkgOf t k = pkgOf s k))
    ⟨fun hlt => absurd hlt (Nat.not_lt_zero pos), fun _ => rfl⟩ fun n t _ ⟨hdone, hyet⟩ => ?_
  · exact hall.1 (lt_of_elemAt h)
  · by_cases hnow : pos = n
    · subst hnow
      refine ⟨fun _ => ?_, fun hle => absurd hle (Nat.not_succ_le_self pos)⟩
      rw [tInStep_pkg inlet t h]
      exact inletT_tcWrite ((hyet (Nat.le_refl pos)).symm ▸ htakes) hfit
    · have hsame := pkgOf_tInStep_ne (inlet := inlet) t h hnow
      exact ⟨fun hlt => hsame.symm ▸ hdone (by omega), fun hle => hsame.trans (hyet (by omega))⟩

/-! ## Conditions entered (R365) -/

/-- Every position of the tray is held for a cause; its coolant and the messages stay. -/
theorem holdAll_frame (s : State) (tc cause : Nat) : (∀ pos < posCount tc, cause ∈ (posOf (holdAll s tc cause) tc pos).porstHolds) ∧
    (tcOf (holdAll s tc cause) tc).cool = (tcOf s tc).cool ∧ (holdAll s tc cause).rcs = s.rcs := by
  refine eachPos_induct (P := fun n t => (∀ pos < n, cause ∈ (posOf t tc pos).porstHolds) ∧ (tcOf t tc).cool = (tcOf s tc).cool ∧
    t.rcs = s.rcs) ⟨fun pos h => absurd h (Nat.not_lt_zero pos), rfl, rfl⟩ fun n t hn ⟨hpos, hcool, hrcs⟩ => ?_
  obtain ⟨e, he⟩ := elemAt_isSome hn
  have hone := onePos_holdPorst he (cause := cause) (s := t)
  refine ⟨fun pos hlt => ?_, hone.cool.trans hcool, hone.rcs.trans hrcs⟩
  by_cases hlast : pos = n
  · rw [hlast]
    exact mem_holdPorst he
  · rw [hone.others pos hlast]
    exact hpos pos (by omega)

/-- What a condition that is entered keeps of the coolant: what was read, and the conditions in force. -/
structure CoolMore (c d : CoolSt) : Prop where
  inlet : d.inlet = c.inlet
  flow : d.flow = c.flow
  target : d.flowTarget = c.flowTarget
  faulty : d.faulty = c.faulty
  conds : ∀ x ∈ c.conds, x ∈ d.conds

theorem CoolMore.refl (c : CoolSt) : CoolMore c c := ⟨rfl, rfl, rfl, rfl, fun _ h => h⟩
theorem CoolMore.trans {c d f : CoolSt} (h : CoolMore c d) (g : CoolMore d f) : CoolMore c f :=
  ⟨g.inlet.trans h.inlet, g.flow.trans h.flow, g.target.trans h.target, g.faulty.trans h.faulty, fun x hx => g.conds x (h.conds x hx)⟩

section
variable {s : State} {tc : Nat}

theorem loseFlow_of_lost (h : 4 ∈ (tcOf s tc).cool.conds) : loseFlow s tc = s := if_pos (List.contains_iff_mem.mpr h)
theorem loseFlow_of_new (h : 4 ∉ (tcOf s tc).cool.conds) : loseFlow s tc =
    report (holdAll (modCool (enterCond s tc 4) tc fun c => { c with valveOpen := true }) tc 3) (tc / 30) "FlowLoss" (tc % 30) :=
  if_neg fun hc => h (List.contains_iff_mem.mp hc)

theorem leak_of_leaking (h : 5 ∈ (tcOf s tc).cool.conds) : leak s tc = s := if_pos (List.contains_iff_mem.mpr h)
theorem leak_of_new (h : 5 ∉ (tcOf s tc).cool.conds) : leak s tc =
    report (holdAll (modCool (enterCond s tc 5) tc fun c => { c with isolationClosed := true }) tc 2) (tc / 30) "LeakDetected" (tc % 30) :=
  if_neg fun hc => h (List.contains_iff_mem.mp hc)

/-- The coolant after a flow loss is new: the condition, and the valve. -/
theorem cool_loseFlow_of_new (h : 4 ∉ (tcOf s tc).cool.conds) : ∃ conds, (tcOf (loseFlow s tc) tc).cool =
    { (tcOf s tc).cool with conds := conds, valveOpen := true } ∧ 4 ∈ conds ∧ ∀ c ∈ (tcOf s tc).cool.conds, c ∈ conds := by
  obtain ⟨conds, hcool, hin, hkeep⟩ := cool_enterCond s tc 4
  refine ⟨conds, ?_, hin, hkeep⟩
  rw [loseFlow_of_new h, tcOf_report, (holdAll_frame _ tc 3).2.1, cool_modCool, hcool]

theorem cool_leak_of_new (h : 5 ∉ (tcOf s tc).cool.conds) : ∃ conds, (tcOf (leak s tc) tc).cool =
    { (tcOf s tc).cool with conds := conds, isolationClosed := true } ∧ 5 ∈ conds ∧ ∀ c ∈ (tcOf s tc).cool.conds, c ∈ conds := by
  obtain ⟨conds, hcool, hin, hkeep⟩ := cool_enterCond s tc 5
  refine ⟨conds, ?_, hin, hkeep⟩
  rw [leak_of_new h, tcOf_report, (holdAll_frame _ tc 2).2.1, cool_modCool, hcool]

theorem loseFlow_enters : CoolMore (tcOf s tc).cool (tcOf (loseFlow s tc) tc).cool ∧ 4 ∈ (tcOf (loseFlow s tc) tc).cool.conds := by
  by_cases h : 4 ∈ (tcOf s tc).cool.conds
  · rw [loseFlow_of_lost h]
    exact ⟨.refl _, h⟩
  · obtain ⟨conds, hcool, hin, hkeep⟩ := cool_loseFlow_of_new h
    rw [hcool]
    exact ⟨⟨rfl, rfl, rfl, rfl, hkeep⟩, hin⟩

theorem leak_enters : CoolMore (tcOf s tc).cool (tcOf (leak s tc) tc).cool ∧ 5 ∈ (tcOf (leak s tc) tc).cool.conds := by
  by_cases h : 5 ∈ (tcOf s tc).cool.conds
  · rw [leak_of_leaking h]
    exact ⟨.refl _, h⟩
  · obtain ⟨conds, hcool, hin, hkeep⟩ := cool_leak_of_new h
    rw [hcool]
    exact ⟨⟨rfl, rfl, rfl, rfl, hkeep⟩, hin⟩

end

/-! ## The poll (R363) -/

/-- The coolant state with a poll's readings, and then with T_IN written and the inlet checked. -/
def coolantRead (s : State) (tc : Nat) (r : Coolant) : State :=
  modCool s tc fun c =>
    { c with inlet := r.inlet.getD 320, flow := r.flow.getD 0, flowTarget := flowTarget s tc (r.power.headD 0), faulty := faultySensors r }
def coolantShown (s : State) (tc : Nat) (r : Coolant) : State :=
  recheckCoolant (eachPos (coolantRead s tc r) tc (tInStep tc (r.inlet.getD 320))) tc

/-- The same with the conditions that act at once. -/
def coolantActed (s : State) (tc : Nat) (r : Coolant) : State :=
  let s := if r.flow.isNone || pressureLost r then loseFlow s tc else s
  if r.leak.getD true then leak s tc else s

theorem coolantPoll_eq {tc : Nat} (h : 0 < posCount tc) (reading : Coolant) (s : State) : coolantPoll tc reading s =
    coolantActed (coolantShown s tc (usable (mget {} (tcOf s tc).segs 0).stuck reading)) tc
      (usable (mget {} (tcOf s tc).segs 0).stuck reading) := if_neg (Nat.ne_of_gt h)

theorem inlet_usable_lt (stuck : Bool) (reading : Coolant) : (usable stuck reading).inlet.getD 320 < 2 ^ 16 := by
  cases stuck with
  | true =>
    show 320 < 2 ^ 16
    decide
  | false =>
    show (inRange 560 reading.inlet).getD 320 < 2 ^ 16
    cases hread : inRange 560 reading.inlet with
    | none => decide
    | some v =>
      obtain ⟨-, hle⟩ := Option.filter_eq_some_iff.mp hread
      have hle : v ≤ 560 := of_decide_eq_true hle
      show v < 2 ^ 16
      omega

section
variable (s : State) (tc : Nat) (r : Coolant)

theorem cool_coolantShown : CoolMore { (tcOf s tc).cool with
      inlet := r.inlet.getD 320, flow := r.flow.getD 0, flowTarget := flowTarget s tc (r.power.headD 0), faulty := faultySensors r }
      (tcOf (coolantShown s tc r) tc).cool ∧
    (320 < r.inlet.getD 320 → 1 ∈ (tcOf (coolantShown s tc r) tc).cool.conds) := by
  have hread : (tcOf (eachPos (coolantRead s tc r) tc (tInStep tc (r.inlet.getD 320))) tc).cool = { (tcOf s tc).cool with
      inlet := r.inlet.getD 320, flow := r.flow.getD 0, flowTarget := flowTarget s tc (r.power.headD 0), faulty := faultySensors r } := by
    rw [(sameCtls_tInAll tc _ (coolantRead s tc r)).tcOf, coolantRead, cool_modCool]
  obtain ⟨conds, hcool, hhot, hkeep⟩ := cool_recheckCoolant (eachPos (coolantRead s tc r) tc (tInStep tc (r.inlet.getD 320))) tc
  rw [hread] at hcool hhot hkeep
  rw [coolantShown, hcool]
  exact ⟨⟨rfl, rfl, rfl, rfl, hkeep⟩, hhot⟩

theorem cool_coolantActed : CoolMore (tcOf s tc).cool (tcOf (coolantActed s tc r) tc).cool ∧
    (r.flow = none ∨ pressureLost r = true → 4 ∈ (tcOf (coolantActed s tc r) tc).cool.conds) ∧
    (r.leak ≠ some false → 5 ∈ (tcOf (coolantActed s tc r) tc).cool.conds) := by
  have hflow : CoolMore (tcOf s tc).cool (tcOf (if r.flow.isNone || pressureLost r then loseFlow s tc else s) tc).cool ∧
      (r.flow = none ∨ pressureLost r = true →
        4 ∈ (tcOf (if r.flow.isNone || pressureLost r then loseFlow s tc else s) tc).cool.conds) := by
    by_cases hlost : (r.flow.isNone || pressureLost r) = true
    · rw [if_pos hlost]
      exact ⟨loseFlow_enters.1, fun _ => loseFlow_enters.2⟩
    · rw [if_neg hlost]
      exact ⟨.refl _, fun h => absurd (by simpa using h) hlost⟩
  unfold coolantActed
  by_cases hleak : r.leak.getD true = true
  · dsimp only
    rw [if_pos hleak]
    exact ⟨hflow.1.trans leak_enters.1, fun h => leak_enters.1.conds 4 (hflow.2 h), fun _ => leak_enters.2⟩
  · dsimp only
    rw [if_neg hleak]
    refine ⟨hflow.1, hflow.2, fun h => absurd ?_ hleak⟩
    cases hread : r.leak with
    | none => rfl
    | some b =>
      cases b with
      | true => rfl
      | false => exact absurd hread h

/-- Where no condition acts at once, none does. -/
theorem coolantActed_of_calm (hflow : r.flow ≠ none) (hpress : pressureLost r = false) (hleak : r.leak = some false) :
    coolantActed s tc r = s := by
  have hsteady : ¬ (r.flow.isNone || pressureLost r) = true := by simpa [hpress] using hflow
  have hdry : ¬ r.leak.getD true = true := by simp [hleak]
  rw [coolantActed, if_neg hsteady, if_neg hdry]

theorem pkgOf_coolantShown {pos k : Nat} (h : elemAt tc pos = some (.pkg k)) (hfit : r.inlet.getD 320 < 2 ^ 16)
    (htakes : TakesTIn (pkgOf s k)) : inletT (pkgOf (coolantShown s tc r) k) = r.inlet.getD 320 := by
  rw [coolantShown, (recheckCoolant_frame _ tc).1.pkgOf]
  exact inletT_tInAll (coolantRead s tc r) hfit h htakes

end

/-! ## Caps (R353, R365, R392) -/

section
variable (s : State) (tc pos : Nat)

theorem cool_writeCapTc (watts : Nat) : (tcOf (writeCapTc s tc pos watts) tc).cool = (tcOf s tc).cool := by
  unfold writeCapTc
  split
  · split
    · rw [cool_logAt, (sameCtls_tcWrite s _ _ _).tcOf]
    · rfl
  · rfl

theorem cool_lowerCapTc : (tcOf (lowerCapTc s tc pos) tc).cool = (tcOf s tc).cool := by
  unfold lowerCapTc
  dsimp only
  split
  · split
    · exact cool_writeCapTc s tc pos 400
    · exact cool_writeCapTc s tc pos 400
  · exact cool_writeCapTc s tc pos 400

theorem cool_lowerAll : (tcOf (lowerAll s tc) tc).cool = (tcOf s tc).cool :=
  eachPos_keeps tc (P := fun t => (tcOf t tc).cool = (tcOf s tc).cool) (fun t pos h => (cool_lowerCapTc t tc pos).trans h) rfl

theorem cool_restoreCaps : (tcOf (restoreCaps s tc) tc).cool = (tcOf s tc).cool := by
  unfold restoreCaps
  split
  · rfl
  · exact eachPos_keeps tc (P := fun t => (tcOf t tc).cool = (tcOf s tc).cool) (fun t pos h => (cool_writeCapTc t tc pos _).trans h) rfl

end

/-! ## The executors -/

section
variable {s : State} {tc : Nat} (hcool : 0 < posCount tc)
include hcool

theorem onCool_of_tray (f : State → State) : onCool tc f s = .next (f s) := congrArg Host.Outcome.next (if_neg (Nat.ne_of_gt hcool))

theorem exec_inletHotTimeout : exec (.inletHotTimeout tc) s = .next (lowerAll (enterCond s tc 2) tc) :=
  onCool_of_tray hcool fun s => lowerAll (enterCond s tc 2) tc

theorem exec_flowLowTimeout : exec (.flowLowTimeout tc) s =
    .next (modCool (enterCond s tc 3) tc fun c => { c with valveFull := true }) :=
  onCool_of_tray hcool fun s => modCool (enterCond s tc 3) tc fun c => { c with valveFull := true }

theorem exec_flowStillLow : exec (.flowStillLow tc) s = .next (if (tcOf s tc).cool.conds.contains 3 then
    lowerAll (modCool s tc fun c => { c with flowCap := true }) tc else s) :=
  onCool_of_tray hcool fun s => if (tcOf s tc).cool.conds.contains 3 then
    lowerAll (modCool s tc fun c => { c with flowCap := true }) tc else s

theorem exec_flowLoss : exec (.flowLoss tc) s = .next (loseFlow s tc) := onCool_of_tray hcool fun s => loseFlow s tc
theorem exec_leakDetected : exec (.leakDetected tc) s = .next (leak s tc) := onCool_of_tray hcool fun s => leak s tc

/-- The end of a condition that is not in force, or that only the rack controller ends, does nothing. -/
theorem exec_coolantConditionEnd_none {row : Nat} (h : 3 < row ∨ row ∉ (tcOf s tc).cool.conds) :
    exec (.coolantConditionEnd tc row) s = .next s := by
  have hexec : exec (.coolantConditionEnd tc row) s = execCoolantConditionEnd tc row s := rfl
  rw [hexec, execCoolantConditionEnd, onCool_of_tray hcool]
  by_cases hrow : (!(tcOf s tc).cool.conds.contains row) = true
  · rw [if_pos hrow]
  · have hin : row ∈ (tcOf s tc).cool.conds := by simpa using hrow
    have hhigh : 3 < row := h.resolve_right (not_not_intro hin)
    rw [if_neg hrow, if_neg (by omega), if_neg (by omega), if_neg (by omega)]

theorem exec_coolantConditionEnd_hot (h : 1 ∈ (tcOf s tc).cool.conds) : exec (.coolantConditionEnd tc 1) s =
    .next (modRc (leaveCond s tc 1) (tc / 30) fun r => { r with inletHigh := r.inletHigh.filter (· ≠ tc % 30) }) := by
  have hexec : exec (.coolantConditionEnd tc 1) s = execCoolantConditionEnd tc 1 s := rfl
  rw [hexec, execCoolantConditionEnd, onCool_of_tray hcool, if_neg (by simpa using h), if_pos rfl]

theorem exec_coolantConditionEnd_cap (h : 2 ∈ (tcOf s tc).cool.conds) : exec (.coolantConditionEnd tc 2) s =
    .next (restoreCaps (leaveCond s tc 2) tc) := by
  have hexec : exec (.coolantConditionEnd tc 2) s = execCoolantConditionEnd tc 2 s := rfl
  rw [hexec, execCoolantConditionEnd, onCool_of_tray hcool, if_neg (by simpa using h), if_neg (by decide), if_pos rfl]

/-- The state after a low flow has ended: the valve is driven again, and no cap is forced. -/
def flowRestored (s : State) (tc : Nat) : State := modCool (leaveCond s tc 3) tc fun c => { c with valveFull := false, flowCap := false }

theorem exec_coolantConditionEnd_flow (h : 3 ∈ (tcOf s tc).cool.conds) : exec (.coolantConditionEnd tc 3) s =
    .next (if (tcOf s tc).cool.flowCap then restoreCaps (flowRestored s tc) tc else flowRestored s tc) := by
  have hexec : exec (.coolantConditionEnd tc 3) s = execCoolantConditionEnd tc 3 s := rfl
  rw [hexec, execCoolantConditionEnd, onCool_of_tray hcool, if_neg (by simpa using h), if_neg (by decide), if_neg (by decide), if_pos rfl]
  rfl

end

/-- Settles O54: a poll by its readings, the T_IN of each package and the conditions that act, each condition by its entry and end. -/
theorem trayCoolant : Obligations.TrayCoolant := by
  unfold Obligations.TrayCoolant
  refine ⟨fun s tc reading hcool => ?_, fun s tc reading hnone => congrArg Host.Outcome.next (if_pos hnone), fun s tc hcool =>
    ⟨⟨_, exec_inletHotTimeout hcool, ?_⟩, ⟨_, exec_flowLowTimeout hcool, ?_⟩, fun hlow => ⟨_, exec_flowStillLow hcool, ?_⟩, fun hfull => ?_,
      fun hnew => ⟨_, exec_flowLoss hcool, ?_⟩, fun hlost => ?_, fun hnew => ⟨_, exec_leakDetected hcool, ?_⟩, fun hlost => ?_,
      fun row hrow hin => ?_, fun row => exec_coolantConditionEnd_none hcool⟩⟩
  · have hshown := cool_coolantShown s tc (usable (mget {} (tcOf s tc).segs 0).stuck reading)
    have hacted := cool_coolantActed (coolantShown s tc (usable (mget {} (tcOf s tc).segs 0).stuck reading)) tc
      (usable (mget {} (tcOf s tc).segs 0).stuck reading)
    have hmore := hshown.1.trans hacted.1
    refine ⟨_, congrArg Host.Outcome.next (coolantPoll_eq hcool reading s), hmore.inlet, hmore.flow, hmore.target, ?_, hmore.faulty,
      fun hhot => hacted.1.conds 1 (hshown.2 hhot), hacted.2.1, hacted.2.2,
      fun hflow hpress hleak pos k he hruns hheard hidle hreach => ?_⟩
    · rw [hmore.target]
      exact Nat.min_le_left _ _
    · rw [coolantActed_of_calm _ tc _ hflow hpress hleak]
      exact pkgOf_coolantShown s tc _ he (inlet_usable_lt _ reading) (takesTIn_of_reaches hruns hheard hidle hreach)
  · obtain ⟨conds, hconds, hin, -⟩ := cool_enterCond s tc 2
    rw [cool_lowerAll, hconds]
    exact hin
  · obtain ⟨conds, hconds, hin, -⟩ := cool_enterCond s tc 3
    rw [cool_modCool, hconds]
    exact ⟨hin, rfl⟩
  · rw [if_pos (List.contains_iff_mem.mpr hlow), cool_lowerAll, cool_modCool]
  · rw [exec_flowStillLow hcool, if_neg fun hc => hfull (List.contains_iff_mem.mp hc)]
  · obtain ⟨conds, hconds, hin, -⟩ := cool_loseFlow_of_new hnew
    rw [hconds]
    refine ⟨hin, rfl, ?_⟩
    rw [loseFlow_of_new hnew]
    exact ⟨(holdAll_frame _ tc 3).1, mem_report _ _ _ _⟩
  · rw [exec_flowLoss hcool, loseFlow_of_lost hlost]
  · obtain ⟨conds, hconds, hin, -⟩ := cool_leak_of_new hnew
    rw [hconds]
    refine ⟨hin, rfl, ?_⟩
    rw [leak_of_new hnew]
    exact ⟨(holdAll_frame _ tc 2).1, mem_report _ _ _ _⟩
  · rw [exec_leakDetected hcool, leak_of_leaking hlost]
  · have hgone (row : Nat) : row ∉ (tcOf (leaveCond s tc row) tc).cool.conds := by
      rw [cool_leaveCond]
      simp
    rcases hrow with rfl | rfl | rfl
    · exact ⟨_, exec_coolantConditionEnd_hot hcool hin, hgone 1, fun h => absurd h (by decide)⟩
    · refine ⟨_, exec_coolantConditionEnd_cap hcool hin, ?_, fun h => absurd h (by decide)⟩
      rw [cool_restoreCaps]
      exact hgone 2
    · have hafter : (tcOf (if (tcOf s tc).cool.flowCap then restoreCaps (flowRestored s tc) tc else flowRestored s tc) tc).cool =
          (tcOf (flowRestored s tc) tc).cool := by
        split
        · exact cool_restoreCaps _ tc
        · rfl
      refine ⟨_, exec_coolantConditionEnd_flow hcool hin, ?_⟩
      rw [hafter, flowRestored, cool_modCool]
      exact ⟨hgone 3, fun _ => ⟨rfl, rfl⟩⟩

end Sys2Proof.Machine
end

section
/-! PROOFS. The messages a tray controller takes from an outbox, one by one, and the polls that take them (R364, R378, R380, R381,
R410, R411). -/

namespace Sys2Proof.Machine

/-! ## The front of an outbox (R411) -/

section
variable {s : State} {tc pos : Nat} {e : Elem} {type : Nat} {c : Bytes} (hfront : outFront (baseOf s e) = some (type, c))
include hfront

theorem takeFront_of_type {types : Nat → Bool} (h : types type = true) :
    takeFront types tc pos s e = onMessage tc pos e type c (modBase s e outDrop) := by
  simp only [takeFront, hfront]
  exact if_pos h

variable (he : elemAt tc pos = some e) (hp : (posOf s tc pos).present = true)
include he hp

/-- A row about a position that takes the front message takes one of its type. -/
theorem atPos_takeFront {types : Nat → Bool} (h : types type = true) :
    atPos tc pos (takeFront types tc pos) s = .next (onMessage tc pos e type c (modBase s e outDrop)) := by
  rw [atPos_present he hp, takeFront_of_type hfront h]

end

/-- A message at the front: its length word stands before it, and no raw read has begun it. -/
theorem outFront_some {b : Base} {type : Nat} {c : Bytes} (h : outFront b = some (type, c)) : ∃ w rest, b.msp.outbox = w :: rest ∧
    b.msp.outLeft = 0 := by
  unfold outFront at h
  split at h
  · exact absurd h (by simp)
  case h_2 w rest hbox =>
    dsimp only at h
    split at h
    · exact absurd h (by simp)
    case isFalse hwhole => exact ⟨w, rest, hbox, by_contra fun hleft => hwhole (.inl hleft)⟩

theorem sealedElem_modBase_outDrop (s : State) (e : Elem) : sealedElem (modBase s e outDrop) e = sealedElem s e := by
  cases e with
  | pkg k => exact (congrArg isSealed (pkgOf_setPkg_self s k _)).trans rfl
  | weir k => rfl

/-! ## Images and blobs (R380) -/

theorem mspErr_frame (b : Base) (lo n : Nat) : (mspErr b lo n).msp.bulkIn = b.msp.bulkIn ∧
    (mspErr b lo n).msp.bulkOut = b.msp.bulkOut ∧ (mspErr b lo n).msp.outbox = b.msp.outbox := ⟨rfl, rfl, rfl⟩

theorem inboxTake_frame (b : Base) (ws : List Word) : (inboxTake b ws).msp.bulkIn = b.msp.bulkIn ∧
    (inboxTake b ws).msp.bulkOut = b.msp.bulkOut ∧ (inboxTake b ws).msp.outbox = b.msp.outbox := mspErr_frame _ _ _

theorem bulkTake_frame (b : Base) (bytes : Bytes) :
    (bulkTake b bytes).msp.bulkIn = b.msp.bulkIn ++ bytes.take (2 ^ 22 - b.msp.bulkIn.length) ∧
    (bulkTake b bytes).msp.bulkOut = b.msp.bulkOut ∧ (bulkTake b bytes).msp.outbox = b.msp.outbox := mspErr_frame _ _ _

/-- An image or a blob delivered fills the bulk-in buffer, empties the bulk-out buffer, and leaves the outbox. -/
theorem deliver_bulk (kind : Nat) (bytes : Bytes) (b : Base) : (deliver kind bytes b).msp.bulkIn = bytes.take (2 ^ 22) ∧
    (deliver kind bytes b).msp.bulkOut = [] ∧ (deliver kind bytes b).msp.outbox = b.msp.outbox := by
  obtain ⟨hin, hout, hbox⟩ := inboxTake_frame (bulkTake (bulkResetNow b) bytes) (mspMessage 0x81 (le 4 kind ++ le 4 bytes.length))
  obtain ⟨hin', hout', hbox'⟩ := bulkTake_frame (bulkResetNow b) bytes
  have hempty : (bulkResetNow b).msp.bulkIn = [] := rfl
  rw [hempty, List.nil_append, List.length_nil, Nat.sub_zero] at hin'
  exact ⟨hin.trans hin', hout.trans hout', hbox.trans hbox'⟩

/-- A position's blob is of its controller and the span's routes alone. -/
theorem positionBlob_modBase (s : State) (tc pos : Nat) (e : Elem) (f : Base → Base) :
    positionBlob (modBase s e f) tc pos = positionBlob s tc pos := by
  cases e <;> rfl

theorem serialOf_outDrop (b : Base) : serialOf (outDrop b) = serialOf b := rfl

section
variable (s : State) (tc pos serial : Nat)

theorem sameElems_takeSerial : SameElems s (takeSerial s tc pos serial) := by
  unfold takeSerial
  split
  · exact .refl s
  · exact ⟨rfl, rfl⟩

/-- The serial that was read is the position's. -/
theorem serial_takeSerial : (posOf (takeSerial s tc pos serial) tc pos).serial = serial := by
  unfold takeSerial
  split
  case isTrue h => exact h
  case isFalse => rw [posOf_modPos]

end

section
variable (s : State) (tc pos : Nat) (e : Elem) (c : Bytes)

/-- The state with the serial of a position's element read. -/
def serialRead : State := takeSerial s tc pos (serialOf (baseOf s e))

theorem serial_serialRead_modBase (f : Base → Base) (h : serialOf (f (baseOf s e)) = serialOf (baseOf s e)) :
    (posOf (serialRead (modBase s e f) tc pos e) tc pos).serial = serialOf (baseOf s e) := by
  rw [serialRead, serial_takeSerial, baseOf_modBase_self, h]

theorem onBlobReq_delivers : (posOf (onBlobReq tc pos e c (modBase s e outDrop)) tc pos).serial = serialOf (baseOf s e) ∧
    (baseOf (onBlobReq tc pos e c (modBase s e outDrop)) e).msp.bulkIn =
      (positionBlob (onBlobReq tc pos e c (modBase s e outDrop)) tc pos).take (2 ^ 22) := by
  have hblob : onBlobReq tc pos e c (modBase s e outDrop) = modBase (serialRead (modBase s e outDrop) tc pos e) e
      (deliver 2 (positionBlob (serialRead (modBase s e outDrop) tc pos e) tc pos)) := rfl
  rw [hblob, (sameCtls_modBase _ e _).posOf, baseOf_modBase_self, positionBlob_modBase]
  exact ⟨serial_serialRead_modBase s tc pos e outDrop (serialOf_outDrop _), (deliver_bulk _ _ _).1⟩

/-- The settings that a position keeps once `got` has joined them, of `n` bytes in all (R380). -/
def settingsMerged (n : Nat) (got : Bytes) (x : Position) : Position :=
  if n = 20 then { x with savedPorts := mergeEntries 20 1 x.savedPorts got }
  else { x with savedDram :=
    (List.range (got.length / 8)).foldl (fun d i => mergeEntries 8 8 d ((got.drop (8 * i)).take 8)) x.savedDram }

theorem serial_settingsMerged (n : Nat) (got : Bytes) (x : Position) : (settingsMerged n got x).serial = x.serial := by
  unfold settingsMerged
  split <;> rfl

/-- The state with the settings out of the buffer, and then with them joined to the position's own. -/
def bulkTaken : State :=
  modBase s e fun b => setMsp b { b.msp with bulkOut := b.msp.bulkOut.drop (fieldAt c 0 4) }
def settingsKept : State := modPos (serialRead (bulkTaken s e c) tc pos e) tc pos
  (settingsMerged (fieldAt c 0 4) ((baseOf s e).msp.bulkOut.take (fieldAt c 0 4)))

/-- The settings a rack controller keeps for a position, under its serial (R380). -/
def settingsSaved (x : Position) (r : RackCtl) : RackCtl :=
  { r with saved := mset r.saved x.serial (x.savedPorts, x.savedDram) }

theorem onSettings_eq : onSettings tc pos e c s =
    modRc (settingsKept s tc pos e c) (tc / 30) (settingsSaved (posOf (settingsKept s tc pos e c) tc pos)) := rfl

theorem serial_settingsKept : (posOf (settingsKept s tc pos e c) tc pos).serial = serialOf (baseOf s e) := by
  rw [settingsKept, posOf_modPos, serial_settingsMerged, bulkTaken]
  exact serial_serialRead_modBase s tc pos e _ rfl

theorem baseOf_settingsKept : baseOf (settingsKept s tc pos e c) e =
    setMsp (baseOf s e) { (baseOf s e).msp with bulkOut := (baseOf s e).msp.bulkOut.drop (fieldAt c 0 4) } :=
  ((sameElems_takeSerial _ tc pos _).baseOf e).trans (baseOf_modBase_self s e _)

theorem onSettings_keeps : (baseOf (onSettings tc pos e c s) e).msp.bulkOut = (baseOf s e).msp.bulkOut.drop (fieldAt c 0 4) ∧
    (posOf (onSettings tc pos e c s) tc pos).serial = serialOf (baseOf s e) ∧
    mget (([], []) : Bytes × Bytes) (rcOf (onSettings tc pos e c s) (tc / 30)).saved (serialOf (baseOf s e)) =
      ((posOf (onSettings tc pos e c s) tc pos).savedPorts, (posOf (onSettings tc pos e c s) tc pos).savedDram) := by
  have hsame : baseOf (onSettings tc pos e c s) e = baseOf (settingsKept s tc pos e c) e := SameElems.baseOf ⟨rfl, rfl⟩ e
  have hserial := serial_settingsKept s tc pos e c
  rw [hsame, baseOf_settingsKept, onSettings_eq, posOf_modRc, rcOf_modRc]
  refine ⟨rfl, hserial, ?_⟩
  rw [← hserial]
  exact mget_mset_self _ _ _ _

end

/-! ## Ready reports (R378) -/

section
variable (s : State) (tc pos : Nat) (e : Elem) (c : Bytes)

/-- A ready report logged, and its result kept. -/
def readyLogged : State := modPos (logAt s tc pos 0 0x0014 ((c.drop 1).take 8)) tc pos fun x => { x with readyResult := byteAt c 1 }

theorem posOf_readyLogged : posOf (readyLogged s tc pos c) tc pos = { posOf s tc pos with readyResult := byteAt c 1 } := by
  rw [readyLogged, posOf_modPos, posOf_logAt]

/-- A failed report logged, and the time of its attempt taken where none runs. -/
def readyCounted : State := modPos (readyLogged s tc pos c) tc pos fun x =>
  { x with attempts := if x.attemptRunning then x.attempts else x.attempts ++ [(tcOf (readyLogged s tc pos c) tc).now] }

theorem now_readyLogged : (tcOf (readyLogged s tc pos c) tc).now = (tcOf s tc).now := by rw [readyLogged, now_modPos, now_logAt]

theorem now_readyCounted : (tcOf (readyCounted s tc pos c) tc).now = (tcOf s tc).now := by
  rw [readyCounted, now_modPos, now_readyLogged]

theorem posOf_readyCounted (hidle : (posOf s tc pos).attemptRunning = false) : posOf (readyCounted s tc pos c) tc pos =
    { posOf s tc pos with readyResult := byteAt c 1, attempts := (posOf s tc pos).attempts ++ [(tcOf s tc).now] } := by
  rw [readyCounted, posOf_modPos, posOf_readyLogged, now_readyLogged]
  simp only [hidle, Bool.false_eq_true, if_false]

variable {s} (hsealed : sealedElem s e = false)
include hsealed

theorem sealedElem_readyLogged : ¬ sealedElem (readyLogged s tc pos c) e = true := by
  have hsame : sealedElem (readyLogged s tc pos c) e = sealedElem s e := SameElems.sealedElem ⟨rfl, rfl⟩ e
  rw [hsame, hsealed]
  exact Bool.false_ne_true

/-- A good report ends the attempt that runs, and the rack controller is told. -/
theorem onReady_of_good (hresult : byteAt c 1 ≠ 3) (hruns : (posOf s tc pos).attemptRunning = true) : onReady tc pos e c s =
    reportPos (modPos (readyLogged s tc pos c) tc pos fun x => { x with attemptRunning := false }) tc pos "PackageReset" := by
  have hrunning : (posOf (readyLogged s tc pos c) tc pos).attemptRunning = true := by
    rw [posOf_readyLogged]
    exact hruns
  exact (if_neg (sealedElem_readyLogged tc pos e c hsealed)).trans ((if_neg hresult).trans (if_pos hrunning))

/-- A failed report counts as an attempt that failed. -/
theorem onReady_of_failed (hresult : byteAt c 1 = 3) : onReady tc pos e c s = attemptFails (readyCounted s tc pos c) tc pos e :=
  (if_neg (sealedElem_readyLogged tc pos e c hsealed)).trans (if_pos hresult)

theorem onReady_ends (hresult : byteAt c 1 ≠ 3) (hruns : (posOf s tc pos).attemptRunning = true) :
    (posOf (onReady tc pos e c s) tc pos).attemptRunning = false ∧ (posOf (onReady tc pos e c s) tc pos).readyResult = byteAt c 1 ∧
    ({ name := "PackageReset", subject := subjectOf tc pos, http := 0 } : RfMsg) ∈ (rcOf (onReady tc pos e c s) (tc / 30)).msgs := by
  rw [onReady_of_good tc pos e c hsealed hresult hruns, posOf_reportPos, posOf_modPos, posOf_readyLogged]
  exact ⟨rfl, rfl, mem_reportPos _ tc pos _⟩

theorem onReady_counts (hresult : byteAt c 1 = 3) (hidle : (posOf s tc pos).attemptRunning = false)
    (hfew : (recentAttempts (tcOf s tc).now (posOf s tc pos)).length < 2) :
    (posOf (onReady tc pos e c s) tc pos).attempts = (posOf s tc pos).attempts ++ [(tcOf s tc).now] ∧
    (posOf (onReady tc pos e c s) tc pos).readyResult = 3 := by
  have hthird : (recentAttempts (tcOf (readyCounted s tc pos c) tc).now (posOf (readyCounted s tc pos c) tc pos)).length < 3 := by
    have hone : ((([(tcOf s tc).now] : List Nat).filter fun t => decide ((tcOf s tc).now < t + 600000000000))).length ≤ 1 :=
      List.length_filter_le _ _
    rw [now_readyCounted, posOf_readyCounted s tc pos c hidle]
    simp only [recentAttempts, List.filter_append, List.length_append] at hfew ⊢
    omega
  rw [onReady_of_failed tc pos e c hsealed hresult, attemptFails_of_few e hthird, posOf_modPos, posOf_readyCounted s tc pos c hidle]
  exact ⟨rfl, hresult⟩

end

/-! ## Records, and messages that no table has (R381, R411) -/

section
variable (s : State) (tc pos : Nat) (e : Elem) (c : Bytes)

theorem onRecord_logs : (tcOf (onRecord tc pos e c s) tc).log.getLast? =
      some (logBytes (tcOf s tc) (logSource tc pos) (byteAt c 13) 0x0030 ((c.drop 16).take 14)) ∧
    (tcOf (onRecord tc pos e c s) tc).lseq = ((tcOf s tc).lseq + 1) % 2 ^ 32 := by
  have hlog : (tcOf (logCopy tc pos s c) tc).log.getLast? =
      some (logBytes (tcOf s tc) (logSource tc pos) (byteAt c 13) 0x0030 ((c.drop 16).take 14)) := log_logAt s tc pos _ _ _
  have hseq : (tcOf (logCopy tc pos s c) tc).lseq = ((tcOf s tc).lseq + 1) % 2 ^ 32 := by
    rw [logCopy, tcOf_logAt]
    rfl
  cases e with
  | weir k => exact ⟨hlog, hseq⟩
  | pkg k =>
    have hrecord : onRecord tc pos (.pkg k) c s =
        modPos (logCopy tc pos s c) tc pos fun x => { x with lastRseq := fieldAt c 0 4 } := rfl
    rw [hrecord, log_modPos, lseq_modPos]
    exact ⟨hlog, hseq⟩

theorem onMessage_of_unknown {type : Nat} (h : type = 0 ∨ 8 < type) : onMessage tc pos e type c s = onUnknown tc pos type s := by
  unfold onMessage
  split
  case h_9 => rfl
  all_goals omega

end

/-! ## The polls (R410) -/

/-- Where nothing waits, a poll takes nothing. -/
theorem drainOutbox_of_empty {s : State} {tc pos : Nat} {e : Elem} (h : outPending (baseOf s e).msp = false) (n : Nat) :
    drainOutbox tc pos e n s = s := by
  cases n with
  | zero => rfl
  | succ n => exact if_neg (Bool.eq_false_iff.mp h)

/-- A poll of an outbox with one message takes it. -/
theorem drainOutbox_of_one {s : State} {tc pos : Nat} {e : Elem} {c : Bytes} (hfront : outFront (baseOf s e) = some (7, c))
    (hone : (baseOf s e).msp.outbox.length = 1 + ((baseOf s e).msp.outbox.headD 0).toNat % 2 ^ 16) :
    drainOutbox tc pos e (baseOf s e).msp.outbox.length s = modBase s e outDrop := by
  obtain ⟨w, rest, hbox, hleft⟩ := outFront_some hfront
  have hwaits : outPending (baseOf s e).msp = true := by
    rw [outPending, hleft, hbox]
    exact decide_eq_true (Nat.succ_pos _)
  have hempty : outPending (baseOf (modBase s e outDrop) e).msp = false := by
    have hdrop : (outDrop (baseOf s e)).msp.outbox = [] := List.drop_eq_nil_of_le (Nat.le_of_eq hone)
    rw [baseOf_modBase_self, outPending, hdrop]
    rfl
  obtain ⟨n, hn⟩ : ∃ n, (baseOf s e).msp.outbox.length = n + 1 := ⟨rest.length, by rw [hbox]; rfl⟩
  rw [hn, drainOutbox, if_pos hwaits, takeFront_of_type hfront rfl]
  exact drainOutbox_of_empty hempty n

/-- A message that the hub knows no type of is discarded and counted (R411). -/
theorem inUnknown_discards {b : Base} {type : Nat} {w : Word} {rest : List Word} (hbox : b.msp.inbox = w :: rest)
    (htype : w.toNat / 2 ^ 24 = type) (himage : type ≠ 0x81) (hnone : type ≠ 0x82) (hcommand : type ≠ 0x83) (hruns : hubRuns b = true) :
    (inUnknown type b).msp.inbox = rest.drop (w.toNat % 2 ^ 16) ∧
    fld (inUnknown type b).msp.err.toNat 15 8 = min 255 (fld b.msp.err.toNat 15 8 + 1) := by
  have htaken : inUnknown type b = mspErr (setMsp b { b.msp with inbox := b.msp.inbox.drop (1 + w.toNat % 2 ^ 16) }) 8 1 := by
    have hw : (b.msp.inbox.headD 0).toNat = w.toNat := by rw [hbox]; rfl
    have hfull : b.msp.inbox.isEmpty = false := by rw [hbox]; rfl
    rw [inUnknown, hw, hfull, hruns]
    exact if_neg (by simp only [htype]; simp [himage, hnone, hcommand])
  have hcount : (mspErr (setMsp b { b.msp with inbox := b.msp.inbox.drop (1 + w.toNat % 2 ^ 16) }) 8 1).msp.err.toNat =
      setFld b.msp.err.toNat 15 8 (satAdd 255 (fld b.msp.err.toNat 15 8) 1) % 2 ^ 32 := rfl
  rw [htaken]
  refine ⟨?_, ?_⟩
  · show b.msp.inbox.drop (1 + w.toNat % 2 ^ 16) = rest.drop (w.toNat % 2 ^ 16)
    rw [hbox, Nat.add_comm, List.drop_succ_cons]
  · rw [hcount, fld_mod_word _ (by decide), fld_setFld_self _ _ (by decide), satAdd]
    exact Nat.mod_eq_of_lt (by omega)

theorem exec_mspUnknownMessage_hub (s : State) (e : Elem) (type : Nat) : ∃ t, exec (.mspUnknownMessage e false type) s = .next t ∧
    (baseOf t e).msp = (inUnknown type (baseOf s e)).msp := by
  cases e with
  | pkg k => exact ⟨_, rfl, congrArg (fun p : Package => p.base.msp) (pkgOf_setPkg_self s k _)⟩
  | weir k => exact ⟨_, rfl, congrArg (fun w : Weir => w.base.msp) (weirOf_setWeir_self s k _)⟩

theorem exec_mspUnknownMessage_tc {s : State} {tc pos type : Nat} {e : Elem} {c : Bytes} (hfront : outFront (baseOf s e) = some (type, c))
    (he : elemAt tc pos = some e) (hp : (posOf s tc pos).present = true) (htype : type = 0 ∨ 8 < type) :
    exec (.mspUnknownMessage e true type) s = .next (onUnknown tc pos type (modBase s e outDrop)) := by
  have hexec : exec (.mspUnknownMessage e true type) s = execMspUnknownMessage e true type s := rfl
  have htakes : (fun t => decide (t = type ∧ (t = 0 ∨ 8 < t))) type = true := decide_eq_true ⟨rfl, htype⟩
  rw [hexec, execMspUnknownMessage, tcOfElem_elemAt he, if_pos rfl, atPos_takeFront hfront he hp htakes, onMessage_of_unknown _ _ _ _ _ htype]

/-- Settles O52: each message by what its type makes of it once it has left the outbox, and the polls by how many there are. -/
theorem trayMessages : Obligations.TrayMessages := by
  unfold Obligations.TrayMessages
  refine ⟨fun s tc pos e type c he hp hfront => ⟨?_, ?_, ?_, ?_, fun hsealed hresult hruns => ⟨?_, ?_⟩,
    fun hsealed hresult hidle hfew => ⟨?_, ?_⟩, ?_, ?_, ?_, ?_, ?_⟩, fun s tc pos e he hnone => ?_,
    fun s e type w rest hbox htype himage hnone hcommand hruns => ?_⟩
  · rintro rfl img himg
    have hcopy : mfind (slotCopy tc (posOf (modBase s e outDrop) tc pos) (fieldAt c 0 4)) (tcOf (modBase s e outDrop) tc).copies = some img := by
      rw [(sameCtls_modBase s e _).posOf, (sameCtls_modBase s e _).tcOf]
      exact himg
    have himage : onImageReq tc pos e c (modBase s e outDrop) = modBase (modBase s e outDrop) e (deliver 1 img) := by
      simp only [onImageReq, hcopy]
    refine ⟨_, (atPos_takeFront hfront he hp rfl).trans (congrArg Host.Outcome.next himage), ?_⟩
    rw [baseOf_modBase_self, baseOf_modBase_self]
    obtain ⟨hin, hout, hbox⟩ := deliver_bulk 1 img (outDrop (baseOf s e))
    exact ⟨hin, hout, hbox, ((sameCtls_modBase s e _).trans (sameCtls_modBase _ e _)).tcs⟩
  · rintro rfl himg
    have hcopy : mfind (slotCopy tc (posOf (modBase s e outDrop) tc pos) (fieldAt c 0 4)) (tcOf (modBase s e outDrop) tc).copies = none := by
      rw [(sameCtls_modBase s e _).posOf, (sameCtls_modBase s e _).tcOf]
      exact himg
    have himage : onImageReq tc pos e c (modBase s e outDrop) =
        modBase (modBase s e outDrop) e fun b => inboxTake b (mspMessage 0x82 (le 4 1)) := by
      simp only [onImageReq, hcopy]
    exact (atPos_takeFront hfront he hp rfl).trans (congrArg Host.Outcome.next himage)
  · rintro rfl
    exact ⟨_, atPos_takeFront hfront he hp rfl, onBlobReq_delivers s tc pos e c⟩
  · rintro rfl
    have hkept := onSettings_keeps (modBase s e outDrop) tc pos e c
    rw [baseOf_modBase_self, serialOf_outDrop] at hkept
    exact ⟨_, atPos_takeFront hfront he hp rfl, hkept⟩
  · rintro rfl
    have hopen : sealedElem (modBase s e outDrop) e = false := (sealedElem_modBase_outDrop s e).trans hsealed
    exact ⟨_, atPos_takeFront hfront he hp rfl,
      onReady_ends tc pos e c hopen hresult (((sameCtls_modBase s e _).posOf tc pos).symm ▸ hruns)⟩
  · rintro rfl
    have hopen : sealedElem (modBase s e outDrop) e = false := (sealedElem_modBase_outDrop s e).trans hsealed
    exact ⟨_, atPos_takeFront hfront he hp rfl,
      onReady_ends tc pos e c hopen hresult (((sameCtls_modBase s e _).posOf tc pos).symm ▸ hruns)⟩
  · rintro rfl
    have hopen : sealedElem (modBase s e outDrop) e = false := (sealedElem_modBase_outDrop s e).trans hsealed
    have hcounts := onReady_counts tc pos e c hopen hresult
    rw [(sameCtls_modBase s e _).posOf, (sameCtls_modBase s e _).tcOf] at hcounts
    exact ⟨_, atPos_takeFront hfront he hp rfl, hcounts hidle hfew⟩
  · rintro rfl
    have hopen : sealedElem (modBase s e outDrop) e = false := (sealedElem_modBase_outDrop s e).trans hsealed
    have hcounts := onReady_counts tc pos e c hopen hresult
    rw [(sameCtls_modBase s e _).posOf, (sameCtls_modBase s e _).tcOf] at hcounts
    exact ⟨_, atPos_takeFront hfront he hp rfl, hcounts hidle hfew⟩
  · rintro rfl
    refine ⟨_, _, atPos_takeFront hfront he hp rfl, congrArg Position.notice (posOf_modPos _ tc pos _), rfl, rfl, rfl, rfl⟩
  · rintro rfl
    have hlogs := onRecord_logs (modBase s e outDrop) tc pos e c
    rw [(sameCtls_modBase s e _).tcOf] at hlogs
    exact ⟨_, atPos_takeFront hfront he hp rfl, hlogs⟩
  · rintro rfl
    exact atPos_takeFront hfront he hp rfl
  · rintro rfl hone
    have hexec : exec (.mspStatusPoll tc pos) s = execMspStatusPoll tc pos s := rfl
    rw [hexec, execMspStatusPoll, atPos_present he hp, drainOutbox_of_one hfront hone]
  · intro htype
    refine ⟨_, exec_mspUnknownMessage_tc hfront he hp htype, ?_, ?_⟩
    · rw [onUnknown, log_logAt, (sameCtls_modBase s e _).tcOf]
    · have hsame : baseOf (onUnknown tc pos type (modBase s e outDrop)) e = baseOf (modBase s e outDrop) e := SameElems.baseOf ⟨rfl, rfl⟩ e
      rw [hsame, baseOf_modBase_self]
  · have hexec : exec (.mspStatusPoll tc pos) s = execMspStatusPoll tc pos s := rfl
    rw [hexec, execMspStatusPoll, atPos]
    simp only [he, drainOutbox_of_empty hnone, ite_self]
  · obtain ⟨t, hexec, hmsp⟩ := exec_mspUnknownMessage_hub s e type
    refine ⟨t, hexec, ?_⟩
    rw [hmsp]
    exact inUnknown_discards hbox htype himage hnone hcommand hruns

end Sys2Proof.Machine
end
